-- ==== Sys2Proof/Word.lean ====
section
/-! DEFINITION. The words of the controller: bytes, 64-bit register and command words (R11, R98), Almanac times (R365). -/

namespace Sys2Proof

/-- A byte. -/
abbrev Byte := BitVec 8

/-- A 64-bit word: a register (R461), a command word (R98), a record word (R87). -/
abbrev Word := BitVec 64

/-- An Almanac time: an unsigned 64-bit count of 1/16 ns (R365). -/
abbrev Time := BitVec 64

end Sys2Proof
end

