-- ==== Sys2Proof/Syntax.lean ====
section
/-! DEFINITION. The commands of the block: one constructor of Instr per row of spec/opcode_table.json, and the data their
operands carry. The table gives its rows no fields: the operands below are what the rule of each row lets the outside supply
(a channel's packet, an arriving transaction, a register word, the unit an event names). -/

namespace Sys2Proof

/-- Who issues a control-port access (R456, R465): the operator, parish n, the block's own units, or Reeve by its own path. -/
inductive Who
  | operator
  | parish (q : BitVec 6)
  | internal
  | reeve
  deriving DecidableEq, Repr

/-- The owner of a notification ring or channel (R89, R92): the operator or a parish. -/
inductive Owner
  | operator
  | parish (q : BitVec 6)
  deriving DecidableEq, Repr

/-- The way a transaction reaches the ingress stages: over a link, or from the device's own egress (R113). -/
inductive Via
  | link (p : BitVec 7)
  | self
  deriving DecidableEq, Repr

/-- Where a parish, scrub or fence command comes from: a packet of a channel, or Reeve on its own authority (R339, R361, R363).
`word` carries the parish number of a retirement, or [8:0] fabric ID, [9] DEVICE of a fence; `mask` its PARISHES mask. -/
inductive CmdSrc
  | ring (ch : BitVec 21) (pkt : List Word)
  | reeve (word : Word) (mask : Word)
  deriving DecidableEq, Repr

/-- What wakes a PARKED block (R380), comparator wakes apart (rows of their own): an access that it holds, or a read that arrives. -/
inductive WakeCause
  | doorbell
  | registerAccess
  | registerRead (who : Who) (addr : BitVec 29) (size : BitVec 4)
  | blockReset
  deriving DecidableEq, Repr

/-- The result of a check of stored words against the protection code (R23). -/
inductive EccErr
  | clean
  | single
  | double
  deriving DecidableEq, Repr

/-- The SRAM word that patrol scrub reads (R26, R454), where the spec gives a double error of it a rule of its own (R24, R79,
R208, R411). `commandWord` is a word of a command's data that a unit, a crossing queue or a bus holds (R23), `arrivalWord` one of a landed
transaction's; `other` names the unit's fault source and a word index. -/
inductive SramWord
  | barnLine (arrival : Nat)
  | routeEntry (dev : BitVec 9)
  | tallyCounter (dev : BitVec 9)
  | replayCopy (link : BitVec 7)
  | windowEntry (handle : BitVec 20)
  | channelEntry (ch : BitVec 21) (bothCopies : Bool)
  | collectorState
  | commandWord (source : BitVec 10) (cmd : Nat)
  | arrivalWord (source : BitVec 10) (arrival : Nat)
  | other (source : BitVec 10) (index : BitVec 52)
  deriving DecidableEq, Repr

/-- Where predicted parity and a datapath's result disagree (R25): in the reduce unit at a stripe that it combines, in the Codec slice of a
croft at a stripe that it codes for a command, or at one that it decodes. -/
inductive Predict
  | reduce (arrival : Nat)
  | encode (croft : BitVec 5) (cmd : Nat)
  | decode (croft : BitVec 5) (arrival : Nat)
  deriving DecidableEq, Repr

/-- What the TAP does (R433): BYPASS shifts a bit through, IDCODE is captured, DUMP_SELECT and DUMP_SHIFT bring a word of a chain or SRAM. -/
inductive JtagOp
  | bypass (tdi : Bool)
  | idcode
  | dump (select : BitVec 8)
  deriving DecidableEq, Repr

/-- An edge of an emergency input, THERM_WARN_N where `therm` holds, else BRAKE_N: it has been low for 3 REF cycles, or is high again (R390). -/
inductive BrakeEdge
  | low (therm : Bool)
  | high (therm : Bool)
  deriving DecidableEq, Repr

/-- Where the message comes from that the collector takes (R393, R399): the oldest one of a source's group, where it is that source's; or an
event that reports now and has no row of its own: a reader meets a word with an error (R23), a datapath's parity disagrees (R25), a crossing
queue of a croft overflows (R396), a read of the control port is dropped (R456, R465). -/
inductive FaultFrom
  | pending (source : BitVec 10)
  | word (w : SramWord) (err : EccErr)
  | predict (at_ : Predict)
  | crossing (croft : BitVec 5)
  | read (who : Who) (addr : BitVec 29) (size : BitVec 4)
  deriving DecidableEq, Repr

/-- How Reeve's verification of the Steward image went where nothing that the block holds decides (R344): the ROM's digest agrees and the store
programs, or one of the two fails. What the image decides, at steps 3 to 5, the model reads there. -/
inductive FwResult
  | checked
  | romFails
  | otpFails
  deriving DecidableEq, Repr

/-- A request Steward passes through the mailbox (R339). -/
inductive MailboxReq
  | parishCreated (q : BitVec 6)
  | parishRetired (q : BitVec 6)
  | spdmRelay
  | keyPairJob (q : BitVec 6) (peer : BitVec 9)
  | blockScrub
  | installKey (q : BitVec 6) (peer : BitVec 9)
  | clearFence (dev : BitVec 9) (device : Bool) (parishes : Word)
  | writeReeveOwned
  deriving DecidableEq, Repr

/-- The tag slot of a sealed transaction (R354) or the answer tag slot of an authenticated answer (R358). -/
structure SealTag where
  tag      : BitVec 128
  ctr      : BitVec 64
  gen      : BitVec 8
  answered : BitVec 64
  deriving DecidableEq, Repr

/-- A transaction by its fields (R193, R196-R199, R243, R244, R282). Fields a kind does not carry are zero. -/
structure Txn where
  kind       : BitVec 5
  len        : Nat
  cast       : BitVec 2 := 0
  epoch      : BitVec 1 := 0
  src        : BitVec 9
  dest       : BitVec 9
  gv         : Bool := false
  grant      : BitVec 32 := 0
  ptag       : BitVec 16 := 0
  offset     : BitVec 48 := 0
  mask       : BitVec 64 := 0
  oldValue   : BitVec 64 := 0
  format     : BitVec 5 := 0
  arg        : Bool := false
  coded      : Bool := false
  signalled  : Bool := false
  shaped     : Bool := false
  window     : BitVec 20 := 0
  bytes      : BitVec 12 := 0
  status     : BitVec 8 := 0
  rv         : Bool := false
  releaseTag : BitVec 16 := 0
  tag        : BitVec 16 := 0
  stripe     : BitVec 40 := 0
  signal     : Bool := false
  answer     : Bool := false
  peerStride : BitVec 32 := 0
  rows       : BitVec 12 := 0
  rowBytes   : BitVec 12 := 0
  count      : BitVec 5 := 0
  rank       : BitVec 4 := 0
  operand    : Word := 0
  compare    : Word := 0
  subop      : BitVec 8 := 0
  sigCtl     : Word := 0
  sigValue   : Word := 0
  expected   : BitVec 40 := 0
  coding     : Word := 0
  reserved   : Bool := false
  weights    : List (BitVec 32) := []
  payload    : List Byte := []
  sealSlot   : Option SealTag := none
  deriving DecidableEq, Repr

/-- One command of the block: one constructor per row of spec/opcode_table.json. -/
inductive Instr
  /-- NOP (R133). A NOP command starts and completes at once with OK. -/
  | nop (ch : BitVec 21) (pkt : List Word)
  /-- PUT (R115). A PUT command is admitted and its local shape is read, striped and sent to the target window, with an optional signal. -/
  | put (ch : BitVec 21) (pkt : List Word)
  /-- GET (R116). A GET command is admitted and sends one request per stripe; the response stripes are written locally. -/
  | get (ch : BitVec 21) (pkt : List Word)
  /-- COPY (R117). A COPY command moves a shape within the device, with optional encode or decode by its profile. -/
  | copy (ch : BitVec 21) (pkt : List Word)
  /-- RPUT (R118). A reduce-put command is admitted and its stripes are sent for combining in the target's reduce unit. -/
  | rput (ch : BitVec 21) (pkt : List Word)
  /-- MPUT (R122). A multicast put command is admitted and sends each stripe once to the members of a row or column. -/
  | mput (ch : BitVec 21) (pkt : List Word)
  /-- IPUT (R124). An indexed put command scatters source rows to the targets named by its index list. -/
  | iput (ch : BitVec 21) (pkt : List Word)
  /-- IGET (R125). An indexed get command gathers remote rows named by its index list into local rows. -/
  | iget (ch : BitVec 21) (pkt : List Word)
  /-- AMO (R126). An atomic command sends one atomic request to the target operand. -/
  | amo (ch : BitVec 21) (pkt : List Word)
  /-- AMOF (R127). A fetching atomic command sends one atomic request and writes the returned old value locally. -/
  | amof (ch : BitVec 21) (pkt : List Word)
  /-- WAIT (R131). A WAIT command reads a local word and holds the channel's later commands until the condition holds. -/
  | wait (ch : BitVec 21) (pkt : List Word)
  /-- SYNC (R36). A SYNC starts once every earlier command of its channel is complete, or parks the channel under HALT_ON_ERROR. -/
  | sync (ch : BitVec 21) (pkt : List Word)
  /-- MARK (R133). A MARK command records its Almanac start time and, with TRACE, writes a trace entry. -/
  | mark (ch : BitVec 21) (pkt : List Word)
  /-- XFORM (R310). A matrix job multiplies input rows by a matrix on a gang of stones and writes the output rows. -/
  | xform (ch : BitVec 21) (pkt : List Word)
  /-- WIN_OPEN (R141). The parish opens a window on the lowest free handle. -/
  | winOpen (ch : BitVec 21) (pkt : List Word)
  /-- WIN_CLOSE (R142). The parish starts closing a window, refusing new accesses and cancelling its pending signals. -/
  | winClose (ch : BitVec 21) (pkt : List Word)
  /-- WIN_CLOSE_DRAINED (R142). Once every access that passed the window check before closing has ended, the window enters QUARANTINE and WIN_CLOSE completes. -/
  | winCloseDrained (handle : BitVec 20)
  /-- PROFILE_SET (R278). The parish writes one coding profile. -/
  | profileSet (ch : BitVec 21) (pkt : List Word)
  /-- TABLE_SET (R280). The parish writes one of its four code tables. -/
  | tableSet (ch : BitVec 21) (pkt : List Word)
  /-- MATRIX_SET (R316). The parish registers a rotation matrix under a MATRIX_ID. -/
  | matrixSet (ch : BitVec 21) (pkt : List Word)
  /-- MATRIX_SET_CLEAR (R316). The parish removes a matrix registration once nothing still uses it. -/
  | matrixSetClear (ch : BitVec 21) (pkt : List Word)
  /-- MIL_RELEASE (R315). The parish discards the residency of XFORM matrices overlapping a range. -/
  | milRelease (ch : BitVec 21) (pkt : List Word)
  /-- WATCH_SET (R427). A parish or the operator sets a watchpoint. -/
  | watchSet (ch : BitVec 21) (pkt : List Word)
  /-- WATCH_SET_CLEAR (R427). A parish or the operator frees a watchpoint. -/
  | watchSetClear (ch : BitVec 21) (pkt : List Word)
  /-- TRACE_CTL (R424). The parish enables, disables or reconfigures trace sampling of its channels. -/
  | traceCtl (ch : BitVec 21) (pkt : List Word)
  /-- PARISH_CREATE (R335). The operator creates a parish with a tag and a sealing choice. -/
  | parishCreate (ch : BitVec 21) (pkt : List Word)
  /-- PARISH_SET (R336). The operator sets a parish's quotas. -/
  | parishSet (ch : BitVec 21) (pkt : List Word)
  /-- PARISH_RETIRE (R361). The operator or Reeve starts retirement of a parish, stopping its channels and closing its windows. -/
  | parishRetire (src : CmdSrc)
  /-- PARISH_QUIESCENT (R361). When nothing of a retiring parish is in flight, its remaining commands fail with PARISH_STOPPED and clearing begins. -/
  | parishQuiescent (q : BitVec 6)
  /-- PARISH_CLEARED (R361). Clearing of a retired parish ends; the parish becomes FREE and Steward logs it. -/
  | parishCleared (q : BitVec 6)
  /-- BLOCK_SCRUB (R363). The operator or Reeve retires every parish and orders a block scrub. -/
  | blockScrub (src : CmdSrc)
  /-- BLOCK_SCRUB_CLEARED (R363). After the last quiescence, the scrub clears every non-operator, non-Reeve SRAM word and logs completion. -/
  | blockScrubCleared
  /-- ROUTE_LOAD (R172). The operator loads route entries into a bank after checking them all. -/
  | routeLoad (ch : BitVec 21) (pkt : List Word)
  /-- ROUTE_COMMIT (R179). The operator makes the inactive route bank active and changes the epoch. -/
  | routeCommit (ch : BitVec 21) (pkt : List Word)
  /-- STRIPE_MAP_SET (R175). The operator writes one stripe map. -/
  | stripeMapSet (ch : BitVec 21) (pkt : List Word)
  /-- PLANE_DRAIN (R172). The operator drains a plane; it completes when everything outstanding on it has ended. -/
  | planeDrain (ch : BitVec 21) (pkt : List Word)
  /-- PLANE_UNDRAIN (R172). The operator returns a drained plane to the active masks. -/
  | planeUndrain (ch : BitVec 21) (pkt : List Word)
  /-- FENCE (R181). The fabric manager sets fence bits for a remote device. -/
  | fence (src : CmdSrc)
  /-- UNFENCE (R181). The fabric manager clears fence bits for a remote device, except bits Reeve set. -/
  | unfence (src : CmdSrc)
  /-- TALLY_PLAN (R240). The operator loads a tally plan and the default grant is recomputed. -/
  | tallyPlan (ch : BitVec 21) (pkt : List Word)
  /-- TALLY_PLAN_CLEAR (R240). The operator reverts every plan entry to the default grant. -/
  | tallyPlanClear (ch : BitVec 21) (pkt : List Word)
  /-- KEY_PAIR (R348). The operator asks Reeve to set up a new pair key for a sealed parish and a peer. -/
  | keyPair (ch : BitVec 21) (pkt : List Word)
  /-- KEY_PAIR_REKEY (R351). The operator asks Reeve to install the next key generation for a pair. -/
  | keyPairRekey (ch : BitVec 21) (pkt : List Word)
  /-- KEY_PAIR_TIMEOUT (R349). A key-pair job not finished within 10 s ends with a failure note and no key kept. -/
  | keyPairTimeout (q : BitVec 6) (peer : BitVec 9)
  /-- REEVE_MSG_REQUEST (R347). The operator hands an SPDM request to Reeve as responder and receives its response. -/
  | reeveMsgRequest (ch : BitVec 21) (pkt : List Word)
  /-- REEVE_MSG_PULL (R347). Reeve writes the next SPDM message it needs relayed to a peer. -/
  | reeveMsgPull (ch : BitVec 21) (pkt : List Word)
  /-- REEVE_MSG_PUSH (R347). The operator hands a peer's SPDM response to Reeve as requester. -/
  | reeveMsgPush (ch : BitVec 21) (pkt : List Word)
  /-- REEVE_MSG_NOTES (R347). Reeve writes its pending notes and clears NOTE_PENDING and NOTE_LOST. -/
  | reeveMsgNotes (ch : BitVec 21) (pkt : List Word)
  /-- PAIR_SLOT_DRAIN_END (R351). A DRAINING pair slot with nothing in flight is freed after the effective timeout. -/
  | pairSlotDrainEnd (slot : BitVec 12)
  /-- TIME_SET (R373). The operator sets the grandmaster's Almanac time. -/
  | timeSet (ch : BitVec 21) (pkt : List Word)
  /-- POWER_SET (R379). The operator moves the block to ACTIVE, IDLE or PARKED. -/
  | powerSet (ch : BitVec 21) (pkt : List Word)
  /-- BLOCK_WAKE (R380). A parked block wakes on a comparator, doorbell or register access and returns to its previous state. -/
  | blockWake (cause : WakeCause)
  /-- TER_INVALIDATE (R163). The operator withdraws translations over a range and sends the range to every agent. -/
  | terInvalidate (ch : BitVec 21) (pkt : List Word)
  /-- INVALIDATE_ACK (R163). An agent acknowledges an invalidation once its issued units have completed; the last completes the command. -/
  | invalidateAck (agent : BitVec 6)
  /-- INVALIDATE_LATE (R164). An invalidation still unacknowledged 4 µs after start raises a severe fault. -/
  | invalidateLate
  /-- TER_RESOLVE_RETRY (R158). The operator closes a Terrier fault record, purges the granule and wakes its requesters to translate again. -/
  | terResolveRetry (ch : BitVec 21) (pkt : List Word)
  /-- TER_RESOLVE_ABORT (R158). The operator closes a Terrier fault record and fails its requesters with LOCAL_FAULT_ABORTED. -/
  | terResolveAbort (ch : BitVec 21) (pkt : List Word)
  /-- TER_FAULT_TIMEOUT (R159). A fault record open for TIMEOUT_MS is aborted by the controller and TER_TIMEOUT is raised. -/
  | terFaultTimeout (seq : BitVec 32)
  /-- APERTURE_SET (R146). The operator sets or disables an aperture of the direct access port. -/
  | apertureSet (ch : BitVec 21) (pkt : List Word)
  /-- CURFEW (R429). The operator requests a local or fabric Curfew at a stop time. -/
  | curfew (ch : BitVec 21) (pkt : List Word)
  /-- HANG_REPORT_GRAPH (R436). Steward writes a wait-for graph of stalled channels and commands. -/
  | hangReportGraph (ch : BitVec 21) (pkt : List Word)
  /-- HANG_REPORT_SNAPSHOT (R436). Steward copies raw channel, engine, tally and table state into a report buffer. -/
  | hangReportSnapshot (ch : BitVec 21) (pkt : List Word)
  /-- SELFTEST_REMOVE (R448). The operator takes an engine or croft out of service. -/
  | selftestRemove (ch : BitVec 21) (pkt : List Word)
  /-- SELFTEST_TEST (R449). The operator starts a self-test of a removed unit. -/
  | selftestTest (ch : BitVec 21) (pkt : List Word)
  /-- SELFTEST_DONE (R449). A self-test ends and the SELFTEST command completes with its result. -/
  | selftestDone (failStep : Word)
  /-- SELFTEST_RESTORE (R448). The operator returns a tested unit to service. -/
  | selftestRestore (ch : BitVec 21) (pkt : List Word)
  /-- CALIBRATE (R450). The operator records calibration requests for crofts, optionally forced. -/
  | calibrate (ch : BitVec 21) (pkt : List Word)
  /-- CALIBRATION_FORCE (R451). A calibration request pending for 200 ms is forced. -/
  | calibrationForce (croft : BitVec 5)
  /-- CROFT_CALIBRATION_DONE (R452). A croft's run-time calibration pause ends and its planes return to placement. -/
  | croftCalibrationDone (croft : BitVec 5)
  /-- DOORBELL_TAIL (R70). A doorbell write offers a new command-ring tail, which is checked and recorded. -/
  | doorbellTail (who : Who) (ch : BitVec 21) (val : BitVec 32)
  /-- DOORBELL_CPL_HEAD (R71). A doorbell write advances the completion ring's consumer index. -/
  | doorbellCplHead (who : Who) (ch : BitVec 21) (val : BitVec 32)
  /-- DOORBELL_PARK (R75). A doorbell write starts parking a channel. -/
  | doorbellPark (who : Who) (ch : BitVec 21)
  /-- DOORBELL_RESUME (R77). A doorbell write resumes a parked channel after checking its descriptor. -/
  | doorbellResume (who : Who) (ch : BitVec 21)
  /-- CHANNEL_PARKED (R75). A parking channel whose commands have all completed writes back its descriptor and becomes PARKED. -/
  | channelParked (ch : BitVec 21)
  /-- OVERFLOW_DEQUEUE (R80). A freed channel-cache entry takes the next channel from the overflow ring. -/
  | overflowDequeue
  /-- RECORD_POST (R35). A completed command's record is written once every earlier record of the channel has been issued. -/
  | recordPost (ch : BitVec 21)
  /-- WAIT_REEVALUATE (R132). A waiting WAIT re-reads its word on its periodic timer. -/
  | waitReevaluate (ch : BitVec 21)
  /-- TAG_GRANT (R110). A freed transaction tag goes to the oldest command waiting for one. -/
  | tagGrant
  /-- STRIPE_ISSUE (R17). A stripe that has waited for credit, placement or a slot is charged, placed on a plane and sent. -/
  | stripeIssue (dest : BitVec 9)
  /-- CREDIT_WAIT_TIMEOUT (R235). A transaction waiting for credit for the effective timeout is dropped uncharged and its command fails with TIMEOUT. -/
  | creditWaitTimeout (unit : Nat)
  /-- TXN_TIMEOUT (R57). An outstanding item passes the effective GBL_TXN_TIMEOUT and its command completes with TIMEOUT or OUTCOME_UNKNOWN. -/
  | txnTimeout (unit : Nat)
  /-- SIGNAL_SLOT_RELEASE (R45). A cancelled signalled command's slot frees at the source after the effective timeout. -/
  | signalSlotRelease (dest : BitVec 9)
  /-- PUT_DATA (R143). A data stripe of PUT, IPUT or MPUT lands, is checked against its window and translated, and its commit is issued. -/
  | putData (via : Via) (t : Txn)
  /-- RPUT_SUM (R256). A SUM reduce stripe lands and is combined into the target in the reduce unit. -/
  | rputSum (via : Via) (t : Txn)
  /-- RPUT_MAX (R258). A MAX reduce stripe lands and is combined into the target. -/
  | rputMax (via : Via) (t : Txn)
  /-- RPUT_MIN (R258). A MIN reduce stripe lands and is combined into the target. -/
  | rputMin (via : Via) (t : Txn)
  /-- RPUT_WSUM (R256). A weighted-sum reduce stripe lands and its rows are scaled and combined. -/
  | rputWsum (via : Via) (t : Txn)
  /-- GET_REQUEST (R116). A GET or IGET request lands and the target reads the window to return a response stripe. -/
  | getRequest (via : Via) (t : Txn)
  /-- GET_RESPONSE (R116). A GET or IGET response stripe lands at the requester and is written locally. -/
  | getResponse (via : Via) (t : Txn)
  /-- AMO_REQUEST (R482). An AMO request lands and is executed in the atomic unit. -/
  | amoRequest (via : Via) (t : Txn)
  /-- AMOF_REQUEST (R482). An AMOF request lands and is executed in the atomic unit, returning the old value. -/
  | amofRequest (via : Via) (t : Txn)
  /-- SIGNAL (R44). A signal transaction lands and records the signal and EXPECTED in the pending-signal entry. -/
  | signal (via : Via) (t : Txn)
  /-- LOAD (R147). A remote load from a direct access port lands and is read at the target. -/
  | load (via : Via) (t : Txn)
  /-- STORE (R147). A remote store from a direct access port lands and is written at the target. -/
  | store (via : Via) (t : Txn)
  /-- LOAD_DATA (R52). Data answering a remote load arrives and is returned to the chip. -/
  | loadData (via : Via) (t : Txn)
  /-- AMOF_RESULT (R127). The old value of an AMOF arrives and is written to RESULT_VA. -/
  | amofResult (via : Via) (t : Txn)
  /-- ACK (R484). A commit acknowledgement arrives for an outstanding stripe or request. -/
  | ack (via : Via) (t : Txn)
  /-- REFUSE (R128). A refusal arrives; the source stops issuing that command to that target. -/
  | refuse (via : Via) (t : Txn)
  /-- AMO_DONE (R127). Completion of an AMO arrives at the requester. -/
  | amoDone (via : Via) (t : Txn)
  /-- SIGNAL_DONE (R46). A target reports that the signal was applied. -/
  | signalDone (via : Via) (t : Txn)
  /-- QUERY (R59). A resolution query arrives and the target answers from the pending-signal entry. -/
  | query (via : Via) (t : Txn)
  /-- QUERY_REPLY (R59). A resolution reply arrives and resolves one target of a lost signalled command. -/
  | queryReply (via : Via) (t : Txn)
  /-- STORE_DONE (R52). Completion of a remote store arrives and the store's response is returned to the chip. -/
  | storeDone (via : Via) (t : Txn)
  /-- SIGNAL_HOLD_EXPIRY (R44). A pending-signal entry passes its hold time and is freed. -/
  | signalHoldExpiry (src : BitVec 9) (tag : BitVec 16)
  /-- ORDERED_STAGE_TIMEOUT (R268). An ORDERED stripe staged for the effective timeout is discarded and its entry becomes BROKEN. -/
  | orderedStageTimeout (arrival : Nat)
  /-- ORDERED_BROKEN_FREE (R268). A BROKEN ordered-group entry with no arrivals for the effective timeout is freed. -/
  | orderedBrokenFree (window : BitVec 20) (offset : BitVec 48) (stripe : BitVec 40)
  /-- WINDOW_QUARANTINE_END (R142). A window entry reaches QUARANTINE_END and becomes FREE. -/
  | windowQuarantineEnd (handle : BitVec 20)
  /-- DAP_LOAD (R147). A core's load reaches the direct access port and is matched to an aperture and sent. -/
  | dapLoad (pa : BitVec 52) (size : BitVec 8)
  /-- DAP_STORE (R147). A core's store reaches the direct access port and is matched to an aperture and sent. -/
  | dapStore (pa : BitVec 52) (data : List Byte)
  /-- MEMP_READ_RESPONSE (R457). A memory port returns read data to the controller. -/
  | mempReadResponse (req : Nat) (seen : List (Nat × Byte))
  /-- MEMP_WRITE_ACK (R31). A memory port acknowledges a write, making it visible. -/
  | mempWriteAck (req : Nat)
  /-- MEMP_ERROR_RESPONSE (R412). A memory port answers a request with an error. -/
  | mempErrorResponse (req : Nat) (pa : BitVec 52)
  /-- FLIT_SEND (R210). At a flit boundary the transmitter sends the first ready flit. -/
  | flitSend (link : BitVec 7)
  /-- FLIT_RECEIVE (R204). A flit arrives, is corrected and checked, and its ACK and sequence number are handled. -/
  | flitReceive (link : BitVec 7) (raw : List Byte)
  /-- NACK (R206). A NACK arrives and the transmitter rewinds its replay. -/
  | nack (link : BitVec 7) (expected : BitVec 16)
  /-- NACK_HOLDOFF_EXPIRY (R205). The 1 µs NACK holdoff ends, allowing a further NACK. -/
  | nackHoldoffExpiry (link : BitVec 7)
  /-- REPLAY_TIMER_EXPIRY (R206). The 4 µs replay timer expires with flits unacknowledged and the transmitter rewinds. -/
  | replayTimerExpiry (link : BitVec 7)
  /-- TRAIN_FLIT (R219). TRAIN flits arrive on an UP link and the link enters RETRAINING. -/
  | trainFlit (link : BitVec 7)
  /-- LINK_TRAINED (R220). Training completes and the link rewinds and continues, or joins the link-up mask. -/
  | linkTrained (link : BitVec 7) (lanes : BitVec 2) (retimers : BitVec 2) (diag0 : BitVec 32) (diag1 : BitVec 32)
  /-- LINK_ID (R226). A LINK_ID message arrives and is checked for role, plane, rate and fabric ID. -/
  | linkId (link : BitVec 7) (w1 : Word)
  /-- WIDTH_REQ (R212). The partner requests a width change. -/
  | widthReq (link : BitVec 7) (lanes : BitVec 2)
  /-- WIDTH_ACK (R213). The partner grants a width change and the link switches width. -/
  | widthAck (link : BitVec 7) (lanes : BitVec 2) (refuse : Bool)
  /-- WIDTH_CHANGE_DONE (R213). Flit lock is confirmed at the new width and both ends rewind. -/
  | widthChangeDone (link : BitVec 7)
  /-- SPEED_REQ (R214). The partner requests a lane-rate change. -/
  | speedReq (link : BitVec 7) (rate : BitVec 2)
  /-- SPEED_ACK (R215). The partner answers a speed request; when all three agree the croft changes rate. -/
  | speedAck (link : BitVec 7) (rate : BitVec 2) (refuse : Bool)
  /-- SPEED_CHANGE_DONE (R215). The croft relocks at the new rate and its links rewind and resume. -/
  | speedChangeDone (croft : BitVec 5)
  /-- PAUSE_LIMIT_EXPIRY (R216). A planned pause passes its limit and the link enters RETRAINING. -/
  | pauseLimitExpiry (link : BitVec 7)
  /-- PARK_REQ (R227). The partner requests to park the link. -/
  | parkReq (link : BitVec 7)
  /-- PARK_ACK (R227). The partner agrees to park and the link leaves the link-up mask without being declared down. -/
  | parkAck (link : BitVec 7) (refuse : Bool)
  /-- PLANE_NOTICE (R177). A switch reports devices unreachable on a plane; their plane bits are cleared and their traffic treated as lost. -/
  | planeNotice (link : BitVec 7) (plane : BitVec 7) (racks : BitVec 8) (slots : BitVec 64)
  /-- LANE_LOCK_CHANGE (R189). The SerDes block reports a lane gaining or losing symbol lock. -/
  | laneLockChange (link : BitVec 7) (lane1 : Bool) (lock : Bool)
  /-- LINK_DOWN_DECLARE (R221). DOWN_TIME passes and the link is declared down, its traffic dropped and its commands marked lost. -/
  | linkDownDeclare (link : BitVec 7)
  /-- LPI_ENTER (R227). A link with nothing unacknowledged for 2 µs enters low-power idle. -/
  | lpiEnter (link : BitVec 7)
  /-- LPI_WAKE_TIMEOUT (R227). A wake from low-power idle that has not regained lock within 1 µs enters RETRAINING. -/
  | lpiWakeTimeout (link : BitVec 7)
  /-- GRANT (R238). A GRANT entry arrives and the source accepts it if newer than SEEN. -/
  | grant (link : BitVec 7) (entry : Word)
  /-- RELEASE (R248). A RELEASE entry frees a DONE pending-signal entry. -/
  | release (link : BitVec 7) (entry : Word)
  /-- RECONCILE (R251). A RECONCILE entry arrives and the target sets FREED and answers RECON_ACK. -/
  | reconcile (link : BitVec 7) (entry : Word)
  /-- RECON_ACK (R250). A RECON_ACK arrives and the source takes SEEN from it and releases its hold. -/
  | reconAck (link : BitVec 7) (entry : Word)
  /-- GRANT_UPDATE_DUE (R246). A grant advance waits 500 ns unsent and a GRANT entry is queued. -/
  | grantUpdateDue (dev : BitVec 9)
  /-- TALLY_REFRESH (R246). Every REFRESH_US the controller refreshes the grant of every valid source. -/
  | tallyRefresh
  /-- RECONCILE_SETTLE_EXPIRY (R250). The settle time after a loss passes and the source holds new charges towards that destination. -/
  | reconcileSettleExpiry (dev : BitVec 9)
  /-- RECONCILE_SEND (R250). Once every charged transaction towards a destination has been answered, the source sends RECONCILE. -/
  | reconcileSend (dev : BitVec 9)
  /-- RECONCILE_RESEND (R250). Every 10 µs without RECON_ACK the source repeats RECONCILE. -/
  | reconcileResend (dev : BitVec 9)
  /-- TIME_FLIT (R371). A TIME flit arrives and the follower computes offset and delay and adjusts its servo. -/
  | timeFlit (link : BitVec 7) (w0 w1 w2 w3 : Word)
  /-- TIME_PPS (R373). A rising edge of TIME_PPS is stamped and disciplines the grandmaster. -/
  | timePps
  /-- CAP_MESSAGE (R381). A cap message arrives and sets the cap and the heartbeat. -/
  | capMessage (msg : Word) (uncorrectable : Bool)
  /-- POWER_ESTIMATE (R386). Every 100 ns the power controller estimates power and sets lever targets. -/
  | powerEstimate (estimate : BitVec 16)
  /-- LEVER_RELEASE (R388). The estimate with a lever released stays below the cap minus HYST for 100 µs and the lever is released. -/
  | leverRelease (estimate : BitVec 16)
  /-- BRAKE_ASSERT (R390). BRAKE_N or THERM_WARN_N is asserted and the brake settings are applied; or one of them is deasserted. -/
  | brakeAssert (edge : BrakeEdge)
  /-- BRAKE_RELEASE (R390). Both emergency inputs have been deasserted for 1 ms and the brake settings are released. -/
  | brakeRelease
  /-- ROUTE_SETTLE_EXPIRY (R179). Comparator 0 fires when SETTLE_US has passed since a bank was last active. -/
  | routeSettleExpiry
  /-- CAP_HEARTBEAT (R385). Comparator 2 fires without a valid cap message and the orphan cap is applied. -/
  | capHeartbeat
  /-- CALIBRATION_WINDOW_START (R451). Comparator 3 opens a calibration window and pending crofts are calibrated. -/
  | calibrationWindowStart
  /-- PARK_WAKE_TIME (R380). Comparator 4 fires and wakes a parked block. -/
  | parkWakeTime
  /-- TELEMETRY_SNAPSHOT (R422). Comparator 5 fires and every global counter is latched and written as a snapshot. -/
  | telemetrySnapshot
  /-- HANG_CHECK (R435). Every 10 ms Steward checks for commands or channels stalled beyond HANG_MS. -/
  | hangCheck
  /-- PATROL_SCRUB (R454). Patrol scrub reads and corrects an SRAM word on its schedule. -/
  | patrolScrub (word : SramWord) (err : EccErr)
  /-- OPERATOR_COMPARATOR_FIRE (R377). An operator comparator reaches its COMPARE time and fires. -/
  | operatorComparatorFire (n : BitVec 4)
  /-- AGEING_MONITOR_SAMPLE (R454). Each second the ageing monitors sample each domain and may raise calibration requests. -/
  | ageingMonitorSample (margins : BitVec 32) (temps : BitVec 32) (ends : BitVec 32)
  /-- GANG_ALLOCATE (R322). A free gang of the needed shape goes to the oldest waiting XFORM or rotation stripe. -/
  | gangAllocate
  /-- STONE_LOAD_DONE (R314). A stone finishes loading its tile and forms its checksums. -/
  | stoneLoadDone (stone : BitVec 3)
  /-- MILL_GANG_TIMEOUT (R324). A rotation stripe waits for a gang for the effective timeout and fails with TIMEOUT. -/
  | millGangTimeout (unit : Nat)
  /-- STONE_QUIET (R326). A RUNNING stone without work for 2 µs becomes QUIET. -/
  | stoneQuiet (stone : BitVec 3)
  /-- STONE_WAKE (R327). A QUIET stone becomes RUNNING, at most one per 100 ns. -/
  | stoneWake (stone : BitVec 3)
  /-- FAULT_MESSAGE (R399). The collector processes one fault message: it numbers, counts, promotes, records and latches it. -/
  | faultMessage (origin : FaultFrom)
  /-- COLLECTOR_SELF_FAULT (R407). The collector detects a fault in itself and the block enters the safe state. -/
  | collectorSelfFault
  /-- FAULT_PULSE_END (R405). The FAULT_N pulse ends and the pin follows FLT_CTL.PIN. -/
  | faultPulseEnd
  /-- FLT_FORCE (R406). A write of FLT_ACTION with FORCE injects a fault event at a source. -/
  | fltForce (who : Who) (val : Word)
  /-- FLT_CLEAR_SOURCE (R401). A write of FLT_ACTION with CLEAR_SOURCE clears a source's severe state and count. -/
  | fltClearSource (who : Who) (val : Word)
  /-- FLT_FIRST_CLEAR (R404). Writing 1 to FLT_STATUS.FIRST clears the first-error latch. -/
  | fltFirstClear (who : Who) (val : Word)
  /-- CURFEW_IN (R429). CURFEW_IN_N is asserted and a Curfew is armed at now plus lead. -/
  | curfewIn
  /-- CURFEW_FLIT (R430). A CURFEW flit arrives and arms a Curfew at its stop time if REMOTE_EN allows. -/
  | curfewFlit (link : BitVec 7) (w0 w1 : Word)
  /-- CURFEW_STOP (R431). Comparator 1 reaches the stop time and every domain stops, holding its state. -/
  | curfewStop
  /-- CURFEW_DUMP_DONE (R433). The scan dump finishes and DONE is set. -/
  | curfewDumpDone
  /-- CURFEW_RELEASE_CONTINUE (R434). The operator releases a Curfew so that work resumes from the cut. -/
  | curfewReleaseContinue (who : Who) (val : Word)
  /-- CURFEW_RELEASE_HALT (R434). The operator releases a Curfew so that commands in flight complete with HALTED. -/
  | curfewReleaseHalt (who : Who) (val : Word)
  /-- CURFEW_RESTART (R434). The restart time is reached and every domain restarts. -/
  | curfewRestart
  /-- JTAG_DUMP_SHIFT (R433). A JTAG dump instruction selects and shifts out a chain or SRAM without changing state; `addr` is
  the word of the chain or SRAM that `dump` selects. -/
  | jtagDumpShift (op : JtagOp) (addr : BitVec 32)
  /-- NOTIFY_HOLDOFF_EXPIRY (R91). Notification entries pending for HOLDOFF µs assert the parish vector. -/
  | notifyHoldoffExpiry (ring : Owner)
  /-- PAR_IRQ_FORCE (R477). A write of PAR_IRQ_FORCE.SOFT sets SOFT and asserts the parish vector. -/
  | parIrqForce (who : Who) (q : BitVec 6) (val : Word)
  /-- CRF_CTL_RATE (R214). A write of CRF_CTL.RATE starts a speed change of the croft. -/
  | crfCtlRate (who : Who) (croft : BitVec 5) (val : Word)
  /-- LNK_CTL_WIDTH (R212). A write of LNK_CTL.WIDTH starts a width change of the link. -/
  | lnkCtlWidth (who : Who) (link : BitVec 7) (val : Word)
  /-- LNK_CTL_EN (R228). A write of LNK_CTL.EN makes the link train and join, or declares it down and turns it off. -/
  | lnkCtlEn (who : Who) (link : BitVec 7) (val : Word)
  /-- PWR_CTL_MAX_RATE (R384). A write lowering PWR_CTL.MAX_RATE starts speed changes on faster crofts. -/
  | pwrCtlMaxRate (who : Who) (val : Word)
  /-- MIL_POOL (R321). A write of MIL_POOL moves stones between pools after their current work. -/
  | milPool (who : Who) (val : Word)
  /-- ALM_CMP_ARM (R377). Setting ALM_CMP_CTL_n.EN arms an operator comparator, which fires at once if already due. -/
  | almCmpArm (who : Who) (n : BitVec 4) (val : Word)
  /-- REGISTER_WRITE (R463). A write to a register with no behaviour of its own is judged whole and applied or ignored. -/
  | registerWrite (who : Who) (addr : BitVec 29) (size : BitVec 4) (val : Word)
  /-- AON_RESET (R439). AON_RESET_N resets everything, including Almanac. -/
  | aonReset
  /-- PWR_OK_LOW (R439). PWR_OK falls and everything except the AON domain is lost; the block is OFF. -/
  | pwrOkLow
  /-- BLOCK_RESET (R439). BLOCK_RESET_N is asserted and everything except the AON domain is reset. -/
  | blockReset
  /-- BLOCK_RESET_RELEASE (R442). BLOCK_RESET_N is released and Reeve starts from ROM. -/
  | blockResetRelease
  /-- FW_VERIFY_DONE (R344). Reeve finishes verifying the Steward image and releases or rejects it. -/
  | fwVerifyDone (res : FwResult)
  /-- SRAM_CLEAR_DONE (R442). The start-up SRAM clear ends and CTRLP opens to every requestor. -/
  | sramClearDone
  /-- STARTUP_CALIBRATION_DONE (R442). A croft's start-up calibration ends and its enabled links start training. -/
  | startupCalibrationDone (croft : BitVec 5) (pll : Bool) (badLanes : BitVec 6)
  /-- STEWARD_MAILBOX_REQUEST (R339). Steward passes a request to Reeve through the mailbox and Reeve checks it against its policy. -/
  | stewardMailboxRequest (req : MailboxReq)
  /-- MISWIRED_RETRAIN (R226). A link held out of the link-up mask for MISWIRED trains again when its 100 ms retry interval passes. -/
  | miswiredRetrain (link : BitVec 7)
  /-- TRACE_SAMPLE (R424). Every 2^PERIOD_LOG2 core cycles the trace unit writes a SAMPLE entry for each selected channel, or a LOST entry when limited. -/
  | traceSample (q : BitVec 6)
  /-- DIAG_HOLD_EXPIRY (R419). Under MODE AUTO, the 100 ms of DIAG counting after a link-down or promotion ends and counting returns to NORMAL. -/
  | diagHoldExpiry
  /-- WAKE_REJOIN_DEADLINE (R380). 2 ms after CORE runs following a wake, the scheduler starts parish commands even if some enabled links have not rejoined. -/
  | wakeRejoinDeadline
  /-- FORCED_CALIBRATION_SPACING (R451). A forced calibration held behind another starts once 1 ms has passed since the previous forced calibration ended. -/
  | forcedCalibrationSpacing
  /-- CALIBRATION_AGE_DUE (R450). A croft gets a pending calibration when 24 h have passed since its last calibration. -/
  | calibrationAgeDue (croft : BitVec 5)
  /-- PWR_OK_HIGH (R440). PWR_OK rises: output isolation ends and the boot set is served on CTRLP while BLOCK_RESET_N is still low. -/
  | pwrOkHigh
  /-- AON_RESET_RELEASE (R365). AON_RESET_N is released and Almanac starts counting from zero in FREE_RUN. -/
  | aonResetRelease
  /-- CROFT_PLL_UNLOCK (R396). A croft PLL loses lock while running and raises a CLOCK fault for the croft's source. -/
  | croftPllUnlock (croft : BitVec 5)
  /-- STEWARD_WATCHDOG (R396). Steward's watchdog expires and raises a FIRMWARE fault. -/
  | stewardWatchdog (pc : BitVec 52)
  /-- TER_FAULT_EN_CLEAR (R159). Clearing GBL_TER_FAULT_CTL.EN aborts every open and held Terrier fault record, failing their requesters with LOCAL_FAULT_ABORTED. -/
  | terFaultEnClear (who : Who) (val : Word)
  deriving DecidableEq, Repr

end Sys2Proof
end

