-- ==== Sys2Proof/Decode.lean ====
section
/-! DEFINITION. The command that a word spells by the opcode table's bits. The table gives bits to none of its rows, so no word
spells a command: commands reach the block as register writes, packets, transactions and events, with their operands. -/

namespace Sys2Proof

/-- The command an `nbits`-bit word spells: none, since no row of spec/opcode_table.json has bits. -/
def decodeTableWord (_nbits _w : Nat) : Option Instr := none

end Sys2Proof
end

