-- ==== Sys2Proof/Machine/Bits.lean ====
section
/-! DEFINITION. Bit fields, byte order (R11) and masks. -/

namespace Sys2Proof.Machine

/-- The `len` bits of `w` from bit `lo`, as a number (R11). -/
def bits (w : Word) (lo len : Nat) : Nat := (w.toNat >>> lo) % 2 ^ len

/-- Bit `i` of a word. -/
def bitAt (w : Word) (i : Nat) : Bool := w.toNat.testBit i

/-- The low `len` bits of `v`, moved to bit `lo` of a word. -/
def place (v lo len : Nat) : Word := BitVec.ofNat 64 ((v % 2 ^ len) <<< lo)

/-- A Boolean as one bit at `lo`. -/
def flag (b : Bool) (lo : Nat) : Word := if b then place 1 lo 1 else 0

/-- The mask of `len` ones from bit `lo`. -/
def maskAt (lo len : Nat) : Word := BitVec.ofNat 64 ((2 ^ len - 1) <<< lo)

/-- Some bit of `w` outside the given mask is set: a reserved bit is non-zero (R12). -/
def outside (w mask : Word) : Bool := w &&& ~~~mask != 0

/-- `w` with the bits of `mask` taken from `v`. -/
def merge (w v mask : Word) : Word := (w &&& ~~~mask) ||| (v &&& mask)

/-- `n` bytes of `v`, least significant first (R11). -/
def leBytes : Nat → Nat → List Byte
  | 0, _ => []
  | n + 1, v => BitVec.ofNat 8 v :: leBytes n (v / 256)

/-- The number that bytes spell, least significant first (R11). -/
def ofLE : List Byte → Nat
  | [] => 0
  | b :: bs => b.toNat + 256 * ofLE bs

/-- The eight bytes of a word. -/
def wordBytes (w : Word) : List Byte := leBytes 8 w.toNat

/-- The bytes of a list of words, in order. -/
def wordsBytes (ws : List Word) : List Byte := ws.flatMap wordBytes

/-- The words that bytes spell, `n` of them; missing bytes are zero. -/
def bytesWords : Nat → List Byte → List Word
  | 0, _ => []
  | n + 1, bs => BitVec.ofNat 64 (ofLE (bs.take 8)) :: bytesWords n (bs.drop 8)

/-- The first of the `n` numbers from `i` on that satisfies `p`. -/
def firstFrom (p : Nat → Bool) : Nat → Nat → Option Nat
  | 0, _ => none
  | n + 1, i => if p i then some i else firstFrom p n (i + 1)

/-- The least number below `k` that satisfies `p`. -/
def firstBelow (k : Nat) (p : Nat → Bool) : Option Nat := firstFrom p k 0

/-- Whether bit `i` of a mask is set. -/
def memb {w : Nat} (m : BitVec w) (i : Nat) : Bool := m.getLsbD i

/-- The mask with bit `i` set or cleared. -/
def setBit {w : Nat} (m : BitVec w) (i : Nat) (b : Bool) : BitVec w :=
  if b then m ||| BitVec.ofNat w (2 ^ i) else m &&& ~~~(BitVec.ofNat w (2 ^ i))

/-- The set bits of a mask, in increasing order. -/
def bitsSet {w : Nat} (m : BitVec w) : List Nat := (List.range w).filter (memb m)

/-- Ceiling of `a ÷ b`. -/
def ceilDiv (a b : Nat) : Nat := (a + b - 1) / b

/-- `a − b` modulo 2^32, as a number. -/
def dist32 (a b : BitVec 32) : Nat := (a - b).toNat

/-- Exchange the first element that satisfies `p` for its image under `f`. -/
def modFirst {α : Type} (p : α → Bool) (f : α → α) : List α → List α
  | [] => []
  | x :: xs => if p x then f x :: xs else x :: modFirst p f xs

/-- Drop the first element that satisfies `p`. -/
def dropFirst {α : Type} (p : α → Bool) : List α → List α
  | [] => []
  | x :: xs => if p x then xs else x :: dropFirst p xs

end Sys2Proof.Machine
end

