-- ==== Sys2Proof/Machine/Numerics.lean ====
section
/-! DEFINITION. The arithmetic of the data formats (R101, R126, R257, R258, R292): exact values, one rounding to nearest even at
the end. -/

namespace Sys2Proof.Machine

/-- A value of a floating-point format: a NaN with its sign, an infinity, or ±m × 2^e. -/
inductive Fp
  | nan (neg : Bool)
  | inf (neg : Bool)
  | fin (neg : Bool) (m : Nat) (e : Int)
  deriving DecidableEq, Repr

/-- A binary format: width, fraction bits, bias, the largest finite magnitude code, whether a code beyond it is an infinity, and
the canonical NaN code (R257, R292). Formats without infinities saturate. -/
structure FpFmt where
  width  : Nat
  man    : Nat
  bias   : Nat
  maxFin : Nat
  infs   : Bool
  sat    : Bool
  nans   : Bool
  nan    : Nat
  deriving DecidableEq, Repr

def fp32 : FpFmt := { width := 32, man := 23, bias := 127, maxFin := 0x7F7FFFFF, infs := true, sat := false, nans := true, nan := 0x7FC00000 }
def bf16 : FpFmt := { width := 16, man := 7, bias := 127, maxFin := 0x7F7F, infs := true, sat := false, nans := true, nan := 0x7FC0 }
def fp16 : FpFmt := { width := 16, man := 10, bias := 15, maxFin := 0x7BFF, infs := true, sat := false, nans := true, nan := 0x7E00 }
def e4m3 : FpFmt := { width := 8, man := 3, bias := 7, maxFin := 0x7E, infs := false, sat := true, nans := true, nan := 0x7F }
def e5m2 : FpFmt := { width := 8, man := 2, bias := 15, maxFin := 0x7B, infs := true, sat := true, nans := true, nan := 0x7E }
def e3m2 : FpFmt := { width := 6, man := 2, bias := 3, maxFin := 0x1F, infs := false, sat := true, nans := false, nan := 0 }
def e2m3 : FpFmt := { width := 6, man := 3, bias := 1, maxFin := 0x1F, infs := false, sat := true, nans := false, nan := 0 }
def e2m1 : FpFmt := { width := 4, man := 1, bias := 1, maxFin := 0x7, infs := false, sat := true, nans := false, nan := 0 }

/-- The exponent of the smallest quantum of a format. -/
def FpFmt.qmin (f : FpFmt) : Int := 1 - f.bias - f.man

/-- The value of a code. -/
def fpDecode (f : FpFmt) (code : Nat) : Fp :=
  let neg := code.testBit (f.width - 1)
  let mag := code % 2 ^ (f.width - 1)
  if mag > f.maxFin then (if f.infs && mag == f.maxFin + 1 then .inf neg else .nan neg)
  else
    let ex := mag / 2 ^ f.man
    let fr := mag % 2 ^ f.man
    if ex = 0 then .fin neg fr f.qmin else .fin neg (fr + 2 ^ f.man) (f.qmin + (ex - 1 : Nat))

/-- A code below the smallest normal and not zero. -/
def fpSubnormal (f : FpFmt) (code : Nat) : Bool :=
  let mag := code % 2 ^ (f.width - 1)
  decide (0 < mag) && decide (mag < 2 ^ f.man)

/-- m ÷ 2^k rounded to nearest, ties to even. -/
def rne (m k : Nat) : Nat :=
  let q := m / 2 ^ k
  let r := m % 2 ^ k
  if k = 0 then m else if 2 * r > 2 ^ k || (2 * r == 2 ^ k && q % 2 == 1) then q + 1 else q

/-- m × 2^e as a multiple of 2^q, rounded to nearest even. -/
def rneAt (m : Nat) (e q : Int) : Nat :=
  if e ≥ q then m * 2 ^ (e - q).toNat else rne m (q - e).toNat

/-- The magnitude code of m × 2^e in a format, before overflow is judged. -/
def fpMag (f : FpFmt) (m : Nat) (e : Int) : Nat :=
  if m = 0 then 0
  else
    let q := max f.qmin (e + Nat.log2 m - f.man)
    (q - f.qmin).toNat * 2 ^ f.man + rneAt m e q

/-- The sign bit of a format. -/
def FpFmt.sgn (f : FpFmt) (neg : Bool) : Nat := if neg then 2 ^ (f.width - 1) else 0

/-- The code of a value: rounded to nearest even; overflow gives infinity or saturates; a NaN is the canonical one, which carries
its sign in FP32 alone (R257). -/
def fpEncode (f : FpFmt) : Fp → Nat
  | .nan neg => f.nan + (if f.width = 32 then f.sgn neg else 0)
  | .inf neg => f.sgn neg + (if f.infs && !f.sat then f.maxFin + 1 else f.maxFin)
  | .fin neg m e =>
    let c := fpMag f m e
    f.sgn neg + (if c > f.maxFin then (if f.sat then f.maxFin else f.maxFin + 1) else c)

/-- A value rounded to FP32. -/
def toFp32 (x : Fp) : Fp := fpDecode fp32 (fpEncode fp32 x)

/-- The sign of a value. -/
def Fp.neg : Fp → Bool
  | .nan s => s
  | .inf s => s
  | .fin s _ _ => s

/-- The signed integer of a finite value at exponent `e ≤` its own. -/
def scaled (neg : Bool) (m : Nat) (ex e : Int) : Int :=
  let v : Int := ((m * 2 ^ (ex - e).toNat : Nat) : Int)
  if neg then -v else v

/-- An exact sum as a value: an exact zero is −0 only when both terms are negative zeros. -/
def ofSum (v : Int) (e : Int) (negZero : Bool) : Fp :=
  if v = 0 then .fin negZero 0 e else .fin (decide (v < 0)) v.natAbs e

/-- The exact sum. A NaN has the sign of the first NaN operand; opposite infinities give a positive NaN (R257). -/
def fpAdd (a b : Fp) : Fp :=
  match a, b with
  | .nan s, _ => .nan s
  | _, .nan s => .nan s
  | .inf s, .inf t => if s == t then .inf s else .nan false
  | .inf s, _ => .inf s
  | _, .inf s => .inf s
  | .fin s m e, .fin t n g =>
    let q := min e g
    ofSum (scaled s m e q + scaled t n g q) q (s && t && m == 0 && n == 0)

/-- The exact product. Zero times an infinity gives a positive NaN (R257). -/
def fpMul (a b : Fp) : Fp :=
  match a, b with
  | .nan s, _ => .nan s
  | _, .nan s => .nan s
  | .inf s, .fin t n _ => if n = 0 then .nan false else .inf (s ^^ t)
  | .fin s m _, .inf t => if m = 0 then .nan false else .inf (s ^^ t)
  | .inf s, .inf t => .inf (s ^^ t)
  | .fin s m e, .fin t n g => .fin (s ^^ t) (m * n) (e + g)

/-- The negated value. -/
def fpNeg : Fp → Fp
  | .nan s => .nan s
  | .inf s => .inf (!s)
  | .fin s m e => .fin (!s) m e

/-- FP32 addition, subtraction and multiplication, each rounded once. -/
def add32 (a b : Fp) : Fp := toFp32 (fpAdd a b)
def sub32 (a b : Fp) : Fp := toFp32 (fpAdd a (fpNeg b))
def mul32 (a b : Fp) : Fp := toFp32 (fpMul a b)

/-- fma(w, x, t): w × x + t with one FP32 rounding; NaN operands in the order target, incoming, weight (R257). -/
def fma32 (w x t : Fp) : Fp :=
  match t, x, w with
  | .nan s, _, _ => .nan s
  | _, .nan s, _ => .nan s
  | _, _, .nan s => .nan s
  | _, _, _ => toFp32 (fpAdd (fpMul w x) t)

/-- a < b with −0 below +0; neither is a NaN (R258). -/
def fpLess (a b : Fp) : Bool :=
  match a, b with
  | .inf s, .inf t => s && !t
  | .inf s, _ => s
  | _, .inf t => !t
  | .fin s m e, .fin t n g =>
    let q := min e g
    let x := scaled s m e q
    let y := scaled t n g q
    decide (x < y) || (decide (x = y) && s && !t)
  | _, _ => false

/-- IEEE 754-2019 maximum (R258). -/
def fpMax (t x : Fp) : Fp :=
  match t, x with
  | .nan s, _ => .nan s
  | _, .nan s => .nan s
  | _, _ => if fpLess t x then x else t

/-- IEEE 754-2019 minimum (R258). -/
def fpMin (t x : Fp) : Fp :=
  match t, x with
  | .nan s, _ => .nan s
  | _, .nan s => .nan s
  | _, _ => if fpLess x t then x else t

/-! ## FORMAT codes (R101) -/

/-- The unit of alignment of a FORMAT code: none for a code the table does not list (R101). -/
def fmtUnit : Nat → Option Nat
  | 0x00 => some 1
  | 0x01 => some 2
  | 0x02 => some 2
  | 0x03 => some 4
  | 0x04 => some 1
  | 0x05 => some 1
  | 0x06 => some 4
  | 0x07 => some 1
  | 0x08 => some 2
  | 0x10 => some 33
  | 0x11 => some 33
  | 0x12 => some 25
  | 0x13 => some 25
  | 0x14 => some 17
  | 0x15 => some 33
  | _ => none

/-- The floating-point format of a FORMAT code. -/
def fmtFp : Nat → Option FpFmt
  | 0x01 => some bf16
  | 0x02 => some fp16
  | 0x03 => some fp32
  | 0x04 => some e4m3
  | 0x05 => some e5m2
  | _ => none

/-- FORMAT names MX blocks. -/
def fmtMx (f : Nat) : Bool := decide (0x10 ≤ f) && decide (f ≤ 0x15)

/-- The element format of an MX element code 0-4; INT8, code 5, is two's complement (R292). -/
def mxFp : Nat → FpFmt
  | 0 => e4m3
  | 1 => e5m2
  | 2 => e3m2
  | 3 => e2m3
  | _ => e2m1

/-- The width in bits of an MX element (R292). -/
def mxWidth : Nat → Nat
  | 0 => 8
  | 1 => 8
  | 2 => 6
  | 3 => 6
  | 4 => 4
  | _ => 8

/-- The bytes of an MX block: a scale byte and 32 elements (R293). -/
def mxBlock (elem : Nat) : Nat := 1 + 4 * mxWidth elem

/-- Numbers of `w` bits packed in a little-endian field, `n` of them. -/
def unpack (w : Nat) : Nat → Nat → List Nat
  | 0, _ => []
  | n + 1, v => v % 2 ^ w :: unpack w n (v / 2 ^ w)

/-- Numbers of `w` bits packed into one field. -/
def pack (w : Nat) : List Nat → Nat
  | [] => 0
  | x :: xs => x % 2 ^ w + 2 ^ w * pack w xs

/-- Bytes cut into pieces of `n` bytes, `k` of them. -/
def chunks {α : Type} (n : Nat) : Nat → List α → List (List α)
  | 0, _ => []
  | k + 1, l => l.take n :: chunks n k (l.drop n)

/-- Elements of `w` bytes, as numbers. -/
def elements (w : Nat) (bs : List Byte) : List Nat := (chunks w (bs.length / w) bs).map ofLE

/-- Numbers as elements of `w` bytes. -/
def elemBytes (w : Nat) (xs : List Nat) : List Byte := xs.flatMap (leBytes w)

end Sys2Proof.Machine
end

