-- ==== Sys2Proof/Machine/Codec.lean ====
section
/-! DEFINITION. The Codec: MX blocks (R292-R296), the randomized Hadamard transform (R298) and lossless mode L (R287-R291). -/

namespace Sys2Proof.Machine

/-! ## MX blocks -/

/-- emax of R294: 8, 15, 4, 2, 2 and 0 for ELEM 0 to 5. -/
def mxEmax : Nat → Int
  | 0 => 8
  | 1 => 15
  | 2 => 4
  | 3 => 2
  | 4 => 2
  | _ => 0

/-- floor(log2) of a finite non-zero magnitude. -/
def fpLog2 : Fp → Int
  | .fin _ m e => e + Nat.log2 m
  | _ => 0

/-- A value is zero. -/
def fpZero : Fp → Bool
  | .fin _ m _ => m == 0
  | _ => false

/-- A value is finite. -/
def fpFinite : Fp → Bool
  | .fin _ _ _ => true
  | _ => false

/-- The larger of two magnitudes' log2, ignoring zeros. -/
def maxLog2 (vs : List Fp) : Option Int :=
  vs.foldl (fun o v => if fpZero v then o else match o with
    | none => some (fpLog2 v)
    | some l => some (max l (fpLog2 v))) none

/-- One element of a block with scale exponent `s`: rounded to nearest even, saturated, a zero keeps its sign (R294). -/
def mxElem (elem : Nat) (s : Int) : Fp → Nat
  | .fin neg m e =>
    if elem = 5 then
      let k := min 127 (rneAt m (e - s) (-6))
      if neg && k != 0 then 256 - k else k
    else
      let f := mxFp elem
      f.sgn neg + min f.maxFin (fpMag f m (e - s))
  | _ => 0

/-- Encode one block of 32 values, flushed already (R294): scale byte and packed elements. -/
def mxEncode (elem : Nat) (vs : List Fp) : List Byte :=
  if vs.any (fun v => !fpFinite v) then leBytes 1 0xFF ++ leBytes (4 * mxWidth elem) 0
  else
    let s : Int := match maxLog2 vs with
      | none => -127
      | some l => max (-127) (min 127 (l - mxEmax elem))
    leBytes 1 (s + 127).toNat ++ leBytes (4 * mxWidth elem) (pack (mxWidth elem) (vs.map (mxElem elem s)))

/-- A value times 2^k. -/
def fpShift (k : Int) : Fp → Fp
  | .fin neg m e => .fin neg m (e + k)
  | v => v

/-- The value of an element code. -/
def mxValue (elem code : Nat) : Fp :=
  if elem = 5 then (if code < 128 then .fin false code (-6) else .fin true (256 - code) (-6)) else fpDecode (mxFp elem) code

/-- Decode one block: element × 2^(t − 127), or 32 NaNs under scale 0xFF (R295). R295 gives those NaNs no sign: the model's are positive. DESIGN CHOICE,
unsafe: log entry 145. -/
def mxDecode (elem : Nat) (bs : List Byte) : List Fp :=
  let t := ofLE (bs.take 1)
  if t = 0xFF then List.replicate 32 (.nan false)
  else (unpack (mxWidth elem) 32 (ofLE (bs.drop 1))).map fun c => fpShift ((t : Int) - 127) (mxValue elem c)

/-- The number of blocks that hold `n` elements. -/
def mxBlocks (n : Nat) : Nat := (n + 31) / 32

/-- A list cut into blocks of 32, the last padded with +0 (R293). -/
def pad32 (vs : List Fp) : List (List Fp) :=
  (chunks 32 (mxBlocks vs.length) vs).map fun b => b ++ List.replicate (32 - b.length) (.fin false 0 0)

/-- A block stream of values (R293). -/
def mxStream (elem : Nat) (vs : List Fp) : List Byte := (pad32 vs).flatMap (mxEncode elem)

/-- `n` values of a block stream; none when the stream ends early (R285, R305). -/
def mxUnstream (elem n : Nat) (bs : List Byte) : Option (List Fp) :=
  let k := mxBlocks n
  if bs.length < k * mxBlock elem then none
  else some (((chunks (mxBlock elem) k bs).flatMap (mxDecode elem)).take n)

/-! ## Hadamard -/

/-- x xor (x << 13), x xor (x >> 17), x xor (x << 5), modulo 2^32 (R298). -/
def xorshift (x : Nat) : Nat :=
  let x := (x ^^^ (x <<< 13)) % 2 ^ 32
  let x := x ^^^ (x >>> 17)
  (x ^^^ (x <<< 5)) % 2 ^ 32

/-- The signs of n points, n/32 words of the generator: true is −1 (R298). -/
def hadSigns : Nat → Nat → List Bool
  | 0, _ => []
  | k + 1, x => let y := xorshift x; (List.range 32).map y.testBit ++ hadSigns k y

/-- Negate under a sign. -/
def signed (d : Bool) (v : Fp) : Fp := if d then fpNeg v else v

/-- One butterfly stage at distance 2^t (R298). -/
def butterfly (t : Nat) (z : List Fp) : List Fp :=
  (List.range z.length).map fun i =>
    let j := i ^^^ 2 ^ t
    let a := z.getD i (.nan false)
    let b := z.getD j (.nan false)
    if i.testBit t then sub32 b a else add32 a b

/-- The stages 0 … k−1 in order. -/
def butterflies (k : Nat) (z : List Fp) : List Fp := (List.range k).foldl (fun z t => butterfly t z) z

/-- c_n for n = 32 · 2^h (R298). -/
def hadScale : Nat → Fp
  | 0 => fpDecode fp32 0x3E3504F3
  | 1 => fpDecode fp32 0x3E000000
  | _ => fpDecode fp32 0x3DB504F3

/-- The points of HSIZE (R279). -/
def hadPoints (h : Nat) : Nat := 32 * 2 ^ h

/-- The forward transform of one group (R298). -/
def hadForward (h seed : Nat) (z : List Fp) : List Fp :=
  let d := hadSigns (2 ^ h) seed
  (butterflies (5 + h) (List.zipWith signed d z)).map fun v => mul32 v (hadScale h)

/-- The inverse transform of one group (R298). -/
def hadInverse (h seed : Nat) (z : List Fp) : List Fp :=
  let d := hadSigns (2 ^ h) seed
  List.zipWith signed d ((butterflies (5 + h) z).map fun v => mul32 v (hadScale h))

/-- A transform over each group of n consecutive elements (R297). -/
def byGroups (n : Nat) (f : List Fp → List Fp) (z : List Fp) : List Fp := (chunks n (z.length / n) z).flatMap f

/-! ## Mode L -/

/-- A format's split: width in bits, plane's lowest bit, plane width, whether a base is sent (R287). -/
structure LFmt where
  width : Nat
  lo    : Nat
  w     : Nat
  base  : Bool
  deriving DecidableEq, Repr

/-- The split of a FORMAT code (R287). -/
def lFmt : Nat → Option LFmt
  | 0x01 => some { width := 16, lo := 7, w := 8, base := true }
  | 0x02 => some { width := 16, lo := 10, w := 5, base := true }
  | 0x03 => some { width := 32, lo := 23, w := 8, base := true }
  | 0x06 => some { width := 32, lo := 24, w := 8, base := false }
  | 0x07 => some { width := 8, lo := 0, w := 8, base := false }
  | 0x08 => some { width := 16, lo := 8, w := 8, base := false }
  | _ => none

/-- The plane value of an element. -/
def lPlane (f : LFmt) (x : Nat) : Nat := (x >>> f.lo) % 2 ^ f.w

/-- The remainder's width. -/
def lRemW (f : LFmt) : Nat := f.width - f.w

/-- The remainder of an element: the bits below the plane, then those above it (R287). -/
def lRem (f : LFmt) (x : Nat) : Nat := x % 2 ^ f.lo + (x >>> (f.lo + f.w)) * 2 ^ f.lo

/-- An element from its plane value and remainder. -/
def lJoin (f : LFmt) (p r : Nat) : Nat := r % 2 ^ f.lo + p * 2 ^ f.lo + (r >>> f.lo) * 2 ^ (f.lo + f.w)

/-- The plane value of symbol k, 0-13 (R288). -/
def lSymPlane (f : LFmt) (base k : Nat) : Nat :=
  if f.base then (base + 2 ^ f.w - k) % 2 ^ f.w
  else if k % 2 = 0 then k / 2 else 256 - (k + 1) / 2

/-- The code length of symbol k in a table's LENGTHS (R280). -/
def lLen (table : Word) (k : Nat) : Nat := bits table (4 * k) 4

/-- Σ 2^(12 − length) over the present symbols: at most 2^12 for a Kraft sum at most 1 (R280). -/
def lKraft (table : Word) : Nat :=
  ((List.range 16).map fun k => let l := lLen table k; if l = 0 ∨ 12 < l then 0 else 2 ^ (12 - l)).foldl (· + ·) 0

/-- The checks of TABLE_SET on LENGTHS (R280). -/
def lTableOk (table : Word) : Bool :=
  (List.range 16).all (fun k => decide (lLen table k ≤ 12)) && decide (lLen table 14 ≠ 0) && decide (lKraft table ≤ 4096)

/-- The present symbols by increasing length, then by number (R289). -/
def lOrder (table : Word) : List (Nat × Nat) :=
  (List.range 13).flatMap fun l => (List.range 16).filterMap fun k => if l ≠ 0 ∧ lLen table k = l then some (k, l) else none

/-- Canonical codes: (symbol, length, code) in order (R289). -/
def lCodesFrom : List (Nat × Nat) → Nat → Nat → List (Nat × Nat × Nat)
  | [], _, _ => []
  | (k, l) :: t, next, prev => let c := next * 2 ^ (l - prev); (k, l, c) :: lCodesFrom t (c + 1) l

/-- The canonical codes of a table (R289). -/
def lCodes (table : Word) : List (Nat × Nat × Nat) :=
  match lOrder table with
  | [] => []
  | (k, l) :: t => lCodesFrom ((k, l) :: t) 0 l

/-- `n` bits of a number, least significant first. -/
def lsb (n v : Nat) : List Bool := (List.range n).map v.testBit

/-- A code of which no code begins another, most significant bit first (R290). -/
def msb (n v : Nat) : List Bool := (lsb n v).reverse

/-- The code bits of a symbol. -/
def lCode (codes : List (Nat × Nat × Nat)) (k : Nat) : List Bool :=
  match codes.find? (fun c => c.1 == k) with
  | some (_, l, c) => msb l c
  | none => []

/-- The base of a block: the largest plane value among elements that are not zero elements (R291). -/
def lBase (f : LFmt) (xs : List Nat) : Nat := (xs.filter (· ≠ 0)).foldl (fun m x => max m (lPlane f x)) 0

/-- How many leading elements are zero, up to 16. -/
def zeroRun : Nat → List Nat → Nat
  | 0, _ => 0
  | _, [] => 0
  | n + 1, x :: xs => if x = 0 then 1 + zeroRun n xs else 0

/-- Symbols and remainders of a block under a table (R288, R291); `skip` counts elements of a run already coded. -/
def lSymbols (f : LFmt) (table : Word) (codes : List (Nat × Nat × Nat)) (base : Nat) : Nat → List Nat → List Bool × List Bool
  | _, [] => ([], [])
  | skip + 1, _ :: xs => lSymbols f table codes base skip xs
  | 0, x :: xs =>
    if x = 0 && lLen table 15 != 0 then
      let r := zeroRun 16 (x :: xs)
      let (s, m) := lSymbols f table codes base (r - 1) xs
      (lCode codes 15 ++ lsb 4 (r - 1) ++ s, m)
    else
      let p := lPlane f x
      let (s, m) := lSymbols f table codes base 0 xs
      let here := match (List.range 14).find? (fun k => lSymPlane f base k == p && lLen table k != 0) with
        | some k => lCode codes k
        | none => lCode codes 14 ++ lsb f.w p
      (here ++ s, lsb (lRemW f) (lRem f x) ++ m)

/-- A block coded under table number t, `raw` flag included (R290). -/
def lBlockWith (f : LFmt) (t : Nat) (table : Word) (xs : List Nat) : List Bool :=
  let base := if f.base then lBase f xs else 0
  let (s, m) := lSymbols f table (lCodes table) base 0 xs
  [false] ++ lsb 2 t ++ (if f.base then lsb f.w base else []) ++ s ++ m

/-- The shortest coding of a block: the table of fewest bits, the lowest number on a tie, or raw (R291). Answers the table used. -/
def lBlock (f : LFmt) (tables : List Word) (xs : List Nat) : Option Nat × List Bool :=
  let best := (List.range 4).foldl (fun (o : Option (Nat × List Bool)) t =>
    let b := lBlockWith f t (tables.getD t 0) xs
    match o with
    | none => some (t, b)
    | some (u, c) => if b.length < c.length then some (t, b) else some (u, c)) none
  match best with
  | some (t, b) => if b.length < xs.length * f.width then (some t, b) else (none, true :: xs.flatMap (lsb f.width))
  | none => (none, [])

/-- Bits as bytes, the last padded with zeros: bit i of the stream is bit i mod 8 of byte ⌊i ÷ 8⌋ (R290). -/
def bitsBytes : Nat → List Bool → List Byte
  | 0, _ => []
  | n + 1, b => BitVec.ofNat 8 (pack 1 ((b.take 8).map fun x => if x then 1 else 0)) :: bitsBytes n (b.drop 8)

/-- Bytes as bits. -/
def bytesBits (bs : List Byte) : List Bool := bs.flatMap fun b => lsb 8 b.toNat

/-- The payload of mode L before padding to a slot (R290, R291). -/
def lStream (f : LFmt) (tables : List Word) (xs : List Nat) : List Byte :=
  let blocks := (chunks 256 ((xs.length + 255) / 256) xs).map (lBlock f tables)
  let used := (List.range 4).map fun t => blocks.any fun b => b.1 == some t
  let pre := used ++ ((List.range 4).flatMap fun t => if used.getD t false then lsb 64 (tables.getD t 0).toNat else [])
  let all := pre ++ blocks.flatMap fun b => b.2
  bitsBytes ((all.length + 7) / 8) all

/-- Take `n` bits as a number, least significant first; none at the end of the stream. -/
def takeLsb (n : Nat) (b : List Bool) : Option (Nat × List Bool) :=
  if b.length < n then none else some (pack 1 ((b.take n).map fun x => if x then 1 else 0), b.drop n)

/-- Match a code: `len` bits read so far spell `v`. None for a code the table does not assign (R285). -/
def takeSym (codes : List (Nat × Nat × Nat)) : Nat → Nat → Nat → List Bool → Option (Nat × List Bool)
  | 0, _, _, _ => none
  | _, _, _, [] => none
  | n + 1, len, v, x :: b =>
    let v := 2 * v + (if x then 1 else 0)
    match codes.find? (fun c => c.2.1 == len + 1 && c.2.2 == v) with
    | some c => some (c.1, b)
    | none => takeSym codes n (len + 1) v b

/-- Symbols of a block until `e` elements are covered: each some plane value, or none for a zero element (R288). -/
def takeSyms (f : LFmt) (codes : List (Nat × Nat × Nat)) (base : Nat) : Nat → Nat → List Bool → Option (List (Option Nat) × List Bool)
  | 0, e, b => if e = 0 then some ([], b) else none
  | n + 1, e, b =>
    if e = 0 then some ([], b)
    else
      match takeSym codes 12 0 0 b with
      | none => none
      | some (k, b) =>
        if k = 15 then
          match takeLsb 4 b with
          | none => none
          | some (r, b) =>
            if r + 1 > e then none
            else match takeSyms f codes base n (e - (r + 1)) b with
              | none => none
              | some (l, b) => some (List.replicate (r + 1) none ++ l, b)
        else
          match (if k = 14 then takeLsb f.w b else some (lSymPlane f base k, b)) with
          | none => none
          | some (p, b) => match takeSyms f codes base n (e - 1) b with
            | none => none
            | some (l, b) => some (some p :: l, b)

/-- The remainders of the elements not in zero runs (R290). -/
def takeRems (f : LFmt) : List (Option Nat) → List Bool → Option (List Nat × List Bool)
  | [], b => some ([], b)
  | none :: l, b => match takeRems f l b with
    | none => none
    | some (xs, b) => some (0 :: xs, b)
  | some p :: l, b => match takeLsb (lRemW f) b with
    | none => none
    | some (r, b) => match takeRems f l b with
      | none => none
      | some (xs, b) => some (lJoin f p r :: xs, b)

/-- `e` raw elements. -/
def takeRaw (w : Nat) : Nat → List Bool → Option (List Nat × List Bool)
  | 0, b => some ([], b)
  | n + 1, b => match takeLsb w b with
    | none => none
    | some (x, b) => match takeRaw w n b with
      | none => none
      | some (xs, b) => some (x :: xs, b)

/-- One block of `e` elements (R290). -/
def takeBlock (f : LFmt) (tables : List (Option Word)) (e : Nat) (b : List Bool) : Option (List Nat × List Bool) :=
  match takeLsb 1 b with
  | none => none
  | some (1, b) => takeRaw f.width e b
  | some (_, b) =>
    match takeLsb 2 b with
    | none => none
    | some (t, b) =>
      match tables.getD t none with
      | none => none
      | some table =>
        match (if f.base then takeLsb f.w b else some (0, b)) with
        | none => none
        | some (base, b) =>
          match takeSyms f (lCodes table) base e e b with
          | none => none
          | some (l, b) => takeRems f l b

/-- Blocks of 256 until `e` elements are read. -/
def takeBlocks (f : LFmt) (tables : List (Option Word)) : Nat → Nat → List Bool → Option (List Nat × List Bool)
  | 0, e, b => if e = 0 then some ([], b) else none
  | n + 1, e, b =>
    if e = 0 then some ([], b)
    else match takeBlock f tables (min e 256) b with
      | none => none
      | some (xs, b) => match takeBlocks f tables n (e - min e 256) b with
        | none => none
        | some (ys, b) => some (xs ++ ys, b)

/-- The preamble: the tables in use, each checked under R280 (R285, R290). -/
def takeTables : List Bool → List Bool → Option (List (Option Word) × List Bool)
  | [], b => some ([], b)
  | false :: us, b => match takeTables us b with
    | none => none
    | some (l, b) => some (none :: l, b)
  | true :: us, b => match takeLsb 64 b with
    | none => none
    | some (v, b) =>
      if lTableOk (BitVec.ofNat 64 v) then match takeTables us b with
        | none => none
        | some (l, b) => some (some (BitVec.ofNat 64 v) :: l, b)
      else none

/-- Decode a mode-L payload of `e` elements, padding included; none where R285 rejects the stream. -/
def lUnstream (f : LFmt) (e : Nat) (bs : List Byte) : Option (List Nat) :=
  let b := bytesBits bs
  if b.length < 4 then none
  else match takeTables (b.take 4) (b.drop 4) with
    | none => none
    | some (tables, b) => match takeBlocks f tables e e b with
      | none => none
      | some (xs, rest) => if rest.any id || decide (256 ≤ rest.length) then none else some xs

/-! ## Profiles (R279) -/

def profMode (p : Word) : Nat := bits p 11 3
def profElem (p : Word) : Nat := bits p 14 3
def profRot (p : Word) : Nat := bits p 17 2
def profHsize (p : Word) : Nat := bits p 19 2
def profMatrix (p : Word) : Nat := bits p 24 8
def profSeed (p : Word) : Nat := bits p 32 32

/-- The rules of the table of R279 on a profile word. -/
def profileOk (p : Word) : Bool :=
  bits p 0 11 == 0 && bits p 21 3 == 0 && decide (profMode p ≤ 2) && decide (profRot p ≤ 2)
  && (profRot p == 1 || (profSeed p == 0 && profHsize p == 0)) && decide (profHsize p ≤ 2)
  && (profRot p == 2 || profMatrix p == 0) && (profMode p == 2 || profElem p == 0) && decide (profElem p ≤ 5)
  && !(profMode p == 0 && profRot p == 0) && !(profMode p == 1 && profRot p != 0)

/-- A profile needs the Codec: MODE L or MX, or ROT Hadamard (R278). -/
def profNeedsC (p : Word) : Bool := profMode p != 0 || profRot p == 1

/-- A profile needs the Mill: ROT dense (R278). -/
def profNeedsM (p : Word) : Bool := profRot p == 2

end Sys2Proof.Machine
end

