-- ==== Sys2Proof/Config.lean ====
section
/-! DEFINITION. What the spec leaves open, as uninterpreted constants: nothing in Lean can evaluate them or prove a value of them; and what SPDM's
messages can say. -/

namespace Sys2Proof

/-- A message that the operator relays to Reeve as responder (R345, R349): the SPDM requests that R345 lists, the slot or block number that one
names, the peer whose Reeve a FINISH authenticates, the vendor-defined SEAL_OFFER (parish tag, generation, the requester's local parish, its
creation count) and SEAL_DONE; `unsupported` is any other, and one that its session's keys do not verify. -/
inductive SpdmMsg
  | getVersion | getCapabilities | negotiateAlgorithms | getDigests
  | getCertificate (slot : BitVec 4)
  | challenge (slot : BitVec 4)
  | getMeasurements (index : BitVec 8)
  | keyExchange
  | finish (peer : Option (BitVec 9))
  | keyUpdate | heartbeat | endSession
  | sealOffer (tag : BitVec 16) (gen : BitVec 8) (parish : BitVec 6) (created : BitVec 32)
  | sealDone (tag : BitVec 16)
  | unsupported
  deriving DecidableEq, Repr, Inhabited

/-- A peer's response that the operator relays to Reeve as requester (R349): one that the job's step goes on after, one that opens the session, the tags
of the ACTIVE sealed parishes in measurement block 16, a SEAL_ACCEPT (local parish, creation count), or an SPDM error and a check that fails. -/
inductive PeerMsg
  | goesOn
  | opens
  | measured (tags : List (BitVec 16))
  | accept (parish : BitVec 6) (created : BitVec 32)
  | fails (code : BitVec 8)
  deriving DecidableEq, Repr, Inhabited

/-- How Reeve answers as responder, or what it asks as requester: an SPDM error, or a message with what the spec gives of its content. -/
inductive SpdmReply
  | error
  | message (content : List Byte)
  deriving DecidableEq, Repr

end Sys2Proof

namespace Sys2Proof.Config

/-- A value the spec leaves open (an unspecified byte of COPY overlap, R117; a byte of a failed memory write, R412), one per
use: the step applies it to the counter `State.free` and advances the counter. -/
opaque freeByte : Nat → Byte

/-- A word the spec leaves open (a body written by Reeve's or Steward's firmware, R347, R436). -/
opaque freeWord : Nat → Word

/-- The bytes that a Hadamard rotation (false) or its inverse (true) makes of elements in a FORMAT that R257 does not convert: R281 lets
the command through and no rule states the result. A function of the coding word and the bytes (R286), byte by byte. -/
opaque openRotation : Bool → Word → List Byte → Nat → Byte

/-- AES-256-GCM sealing (R354): key, 96-bit IV, additional data, plaintext; answers ciphertext and 16-B tag. The algorithm is
an external standard the spec names and does not restate. -/
opaque gcmSeal : BitVec 256 → BitVec 96 → List Byte → List Byte → List Byte × BitVec 128

/-- AES-256-GCM opening (R356): key, IV, additional data, ciphertext, tag; none when the tag fails. -/
opaque gcmOpen : BitVec 256 → BitVec 96 → List Byte → List Byte → BitVec 128 → Option (List Byte)

/-- Steward's image verifies: an ECDSA P-384 signature (r, s) over the SHA-384 digest of a message, under the public key whose digest the
one-time-programmable store holds (R343, R344). The algorithms are external standards. -/
opaque fwSigned : List Byte → BitVec 384 → BitVec 384 → Bool

/-- The digest and the derivation that R345 and R349 name, external standards both: SHA-384, and the pair key K of an Export Master Secret,
requester, responder, tag and generation (HKDF-Expand, 32 B). -/
opaque sha384 : List Byte → BitVec 384
opaque pairKey : BitVec 384 → BitVec 9 → BitVec 9 → BitVec 16 → BitVec 8 → BitVec 256

/-- The digest of Reeve's ROM (R26, R346). -/
opaque romDigest : BitVec 384

/-- The Export Master Secret of session number `n` (R349), and the session ID that its KEY_EXCHANGE settles. -/
opaque exportSecret : Nat → BitVec 384
opaque sessionId : Nat → BitVec 32

/-- The SPDM encodings, which DMTF's standard gives (R345): the version of a message (0x12 is 1.2), the session it is secured under, what it
says under that session's secret, the peer a response comes from and what it says. -/
opaque spdmVersion : List Byte → BitVec 8
opaque spdmSession : List Byte → Option (BitVec 32)
opaque spdmMsg : Option (BitVec 384) → List Byte → SpdmMsg
opaque spdmPeer : List Byte → BitVec 9
opaque peerMsg : Option (BitVec 384) → List Byte → PeerMsg

/-- A byte of a message of Reeve's, by the message it answers, what it says, its number and the place: encoding, nonces, signatures. -/
opaque spdmByte : List Byte → SpdmReply → Nat → Nat → Byte

/-- The power model of R383, whose coefficients are part of the firmware image: from the estimate now, the estimate in 1/8 W under another
setting of the levers: Mill ceiling, links narrowed, throttle level, links parked. -/
opaque modelEstimate : BitVec 16 → Nat → Nat → Nat → Nat → Nat

/-- A hang report as Steward lays it out (R435, R436): SNAPSHOT or GRAPH, marked TRUNCATED or not, and its entries. -/
opaque hangLayout : Bool → Bool → List (List Word) → List Byte

/-- How long the memory ports take to grant request number `n`, in units of time: arbitration between requestors is left to the part (R28). -/
opaque grantDelay : Nat → Nat

/-- Sample number `n` would exceed what the trace unit may write, or finds its staging full: both follow the rates of the ports (R426). -/
opaque traceOver : Nat → Bool

/-- A byte of a dump as the cut number `k` has it, by its place in the dump: how the flop chains and the SRAMs lay out the block's state is the
part's (R433). The scan-dump engine and JTAG read the same bytes. -/
opaque scanByte : Nat → Nat → Byte

/-- The place in the dump of a word that JTAG selects (R433). -/
opaque scanPlace : BitVec 8 → BitVec 32 → Nat

/-- A byte of the dump's header behind MAGIC: where the fields that R433 lists stand is the part's. -/
opaque dumpHeader : List Word → Nat → Byte

/-- A byte of the dump's flop chains that belongs to Reeve's registers or the one-time-programmable store, by its offset: the layout of the chains is
the part's (R338, R433). -/
opaque chainOfReeve : Nat → Bool

end Sys2Proof.Config
end

