-- ==== Sys2Proof/Machine/State.lean ====
section
/-! DEFINITION. The state of the block: every register, table, queue, buffer, counter, mode and pin the spec gives it, as plain
data, with its reset value as the field's default. A `List (Nat × α)` is a sparse table (Machine/Tab.lean): an unlisted
number holds the table's default. -/

namespace Sys2Proof.Machine

/-! ## The part and its pins -/

/-- What the part contains and its static tie-offs (R3, R4, R446, R458). Fixed while the block runs. -/
structure Part where
  links    : Nat := 96
  stepping : BitVec 8 := 0
  m        : Bool := true
  c        : Bool := true
  s        : Bool := true
  t        : Bool := true
  codePass : Bool := false
  grain    : BitVec 3 := 0
  idcode   : BitVec 32 := 0
  deriving DecidableEq, Repr

/-- The one-time-programmable store as far as a rule reads it (R344, R345, R391, R413, R459): OTP_SVN, whether the device identity is
provisioned, the device certificate of slot 0, and Reeve's policy, which is written into the REE registers at boot. -/
structure Otp where
  svn         : BitVec 16 := 0
  provisioned : Bool := true
  certificate : List Byte := []
  pwrFloor    : Word := 0x600000#64
  pwrBrake    : Word := 0x8#64
  orphan      : Word := 0x7D00032#64
  fltCtl      : Word := 0
  fltCount    : Word := 0x2772CC072#64
  fltImm      : Word := 0x3C6880103F8C#64
  fltFatal    : Word := 0x400000000000#64
  srcProfile  : List (Nat × Option (BitVec 4)) := []
  profiles    : List (Nat × Option Word) := []
  deriving DecidableEq, Repr

/-- Reset, emergency, fault and Curfew pins (R439, R390, R405, R429-R431), each as asserted or not. -/
structure Pins where
  aonReset   : Bool := true
  pwrOk      : Bool := false
  blockReset : Bool := true
  brake      : Bool := false
  therm      : Bool := false
  fault      : Bool := false
  curfewOut  : Bool := false
  deriving DecidableEq, Repr

/-- GBL_BOOT.STAGE (R445). -/
inductive Stage
  | reset | reeveRom | fwLoad | sramClear | calibrating | ready | failed
  deriving DecidableEq, Repr

/-- A ring the controller writes and software consumes (R89, R157, R403, R423, R471, R474): TAIL and HEAD as the registers show
them, `next` the index the next entry takes, `acked` the entries acknowledged ahead of TAIL. -/
structure Ring where
  tail  : BitVec 32 := 0
  head  : BitVec 32 := 0
  next  : BitVec 32 := 0
  acked : List (BitVec 32) := []
  deriving DecidableEq, Repr

/-- A notification ring with its interrupt state (R89-R91, R471): BASE and CTL words, the ring, since when entries have been
pending, and whether HOLDOFF has passed since. -/
structure Notify where
  base    : Word := 0
  ctl     : Word := 0x106#64
  ring    : Ring := {}
  since   : Option Time := none
  holdDone : Bool := false
  deriving DecidableEq, Repr

/-- Global-page registers that no unit below holds (R467-R474, R444, R342, R451). -/
structure Gbl where
  stage        : Stage := .reset
  calibrated   : BitVec 32 := 0
  calFinished  : BitVec 32 := 0
  fabricValid  : Bool := false
  fabricMode   : Bool := false
  fabricId     : BitVec 9 := 0
  idWritten    : Bool := false
  txnMs        : BitVec 10 := 0x14
  chnBase      : Word := 0
  chnCtl       : Word := 0xA#64
  winBase      : Word := 0
  winCtl       : Word := 0xA#64
  notify       : Notify := {}
  terBase      : Word := 0
  terCtl       : Word := 0x6400000006#64
  terRing      : Ring := {}
  calCtl       : Word := 0xC800000004#64
  calStart     : Word := 0
  eventStatus  : BitVec 64 := 0
  eventMask    : BitVec 64 := 0
  linkEvent0   : BitVec 64 := 0
  linkEvent1   : BitVec 64 := 0
  deriving DecidableEq, Repr

/-! ## Almanac -/

/-- ALM_STATUS.STATE (R372). -/
inductive AlmState
  | freeRun | acquiring | locked | holdover | slewing
  deriving DecidableEq, Repr

/-- A comparator (R376, R377): COMPARE, PERIOD in µs, WAKE, and EN (armed). -/
structure Cmp where
  compare : Time := 0
  period  : BitVec 32 := 0
  wake    : Bool := false
  en      : Bool := false
  deriving DecidableEq, Repr

/-- What the time exchange of one link keeps (R370, R371): the last TIME flit's send and receive times, and what the partner
reports. -/
structure TimeLink where
  peerSend : Time := 0
  peerRecv : Time := 0
  synced   : Bool := false
  steps    : BitVec 8 := 0xFF
  gmId     : BitVec 9 := 0
  deriving DecidableEq, Repr

/-- The Almanac, in the AON domain (R365-R377, R391). `frac` is the fraction of a unit of the counter, `rate` the servo's adjustment of the
increment, `acquired` whether the time has been set from a parent, `goodRun` the exchanges in a row within 2 ns, `lastGm` the grandmaster of the
last exchange. -/
structure Alm where
  now        : Time := 0
  frac       : BitVec 32 := 0
  rate       : Int := 0
  state      : AlmState := .freeRun
  everLocked : Bool := false
  acquired   : Bool := false
  goodRun    : Nat := 0
  lastGm     : Option (BitVec 9) := none
  ctl        : Word := 0x3E800000000#64
  serdesLat  : Word := 0
  offset     : BitVec 24 := 0
  steps      : BitVec 8 := 0xFF
  gmId       : BitVec 9 := 0
  parent     : BitVec 7 := 0x7F
  fired      : BitVec 16 := 0
  cmps       : List (Nat × Cmp) := []
  links      : List (Nat × TimeLink) := []
  deriving DecidableEq, Repr

/-! ## Power -/

/-- PWR_STATUS.STATE (R378). -/
inductive PwrState
  | active | idle | parked
  deriving DecidableEq, Repr

/-- The power controller (R378-R391). `gated` is set while PARKED has gated CORE, ARITH and the CROFT domains, since `gatedAt`; `coreAt` is
when CORE ran after a wake while the scheduler still waits for links to rejoin (R380). `throttle` is the level in force and `throttleTo`
the target's, raised towards it since `throttleAt`; `ceiling` is MIL_STATUS.CEILING; `narrowed` and `parked` are the links the controller
has narrowed and parked; `episode` is the overshoot in progress (start, peak, energy in 1/128 nJ) as of `episodeAt`, with the `excess` since then;
`braked` says that the brake settings are in force, and `brakeEnd` when both inputs were deasserted (R390); `belowSince` is since
when a lever could be released. -/
structure Pwr where
  ctl        : Word := 0x2001#64
  state      : PwrState := .active
  before     : PwrState := .active
  gated      : Bool := false
  gatedAt    : Time := 0
  coreAt     : Option Time := none
  estimate   : BitVec 16 := 0
  capMsg     : BitVec 16 := 0xFFFF
  orphan     : Bool := false
  orphanCap  : Bool := false
  belowFloor : Bool := false
  leversSpent : Bool := false
  throttle   : BitVec 7 := 0x40
  throttleTo : BitVec 7 := 0x40
  throttleAt : Time := 0
  ceiling    : BitVec 4 := 8
  narrowed   : List Nat := []
  parked     : List Nat := []
  overshoot  : Word := 0
  episode    : Option (Time × BitVec 16 × Nat) := none
  episodeAt  : Time := 0
  excess     : Nat := 0
  braked     : Bool := false
  brakeEnd   : Option Time := none
  capSeq     : Option (BitVec 16) := none
  capGaps    : Nat := 0
  belowSince : Option Time := none
  deriving DecidableEq, Repr

/-! ## Fault collector -/

/-- A fault message (R393). `cmds` are the commands that a CMD message fails: their FAULT_SEQ takes the message's SEQ; `waits` are the channels of the
WAITs it fails that have not started yet. -/
structure FaultMsg where
  src    : BitVec 10
  kind   : BitVec 6
  addr   : BitVec 52
  rep    : BitVec 7 := 0
  cmds   : List Nat := []
  forced : Bool := false
  pv     : Bool := false
  parish : BitVec 6 := 0
  waits  : List (BitVec 21) := []
  deriving DecidableEq, Repr

/-- The counting state of one source (R398, R399, R402). -/
structure Source where
  severe     : Bool := false
  count      : Nat := 0
  start      : Time := 0
  lastRec    : Option Time := none
  suppressed : Nat := 0
  deriving DecidableEq, Repr

/-- A fault record held on the block (R403): its four words without PHASE, and whether it is urgent (R402). -/
structure HeldRec where
  w0 : Word
  w1 : Word
  w2 : Word
  w3 : Word
  urgent : Bool
  deriving DecidableEq, Repr

/-- The fault collector (R393-R414). -/
structure Flt where
  msgs      : List FaultMsg := []
  sources   : List (Nat × Source) := []
  nextSeq   : BitVec 32 := 1
  safe      : Bool := false
  ringLost  : Bool := false
  overflow  : Bool := false
  first     : Bool := false
  firstWord : Word := 0
  firstTime : Time := 0
  ctl       : Word := 0x6400000006#64
  base      : Word := 0
  ring      : Ring := {}
  held      : List HeldRec := []
  pulse     : Option Time := none
  deriving DecidableEq, Repr

/-! ## Reeve and Steward -/

/-- A Reeve note (R341). -/
structure Note where
  w0 : Word
  w1 : Word
  w2 : Word
  w3 : Word
  deriving DecidableEq, Repr

/-- The state of a pair slot (R350, bits [30:29]). -/
inductive SlotState
  | free | receive | active | draining
  deriving DecidableEq, Repr

/-- A Cipher pair slot (R350). `created` is the creation count that the peer named when the key was set up (R349). `due` is when it is freed at the earliest once it drains (R351), or when its job has run out while it is
in RECEIVE (R349). -/
structure PairSlot where
  key        : BitVec 256 := 0
  txCtr      : BitVec 64 := 0
  ansCtr     : BitVec 64 := 0
  rxTop      : BitVec 64 := 0
  rxMap      : BitVec 1024 := 0
  peer       : BitVec 9 := 0
  parish     : BitVec 6 := 0
  peerParish : BitVec 6 := 0
  gen        : BitVec 8 := 0
  created    : BitVec 32 := 0
  state      : SlotState := .free
  due        : Time := 0
  deriving DecidableEq, Repr

/-- A KEY_PAIR job (R348, R349): `step` is the step of R349 reached, `ready` says that a message of Reeve's waits to be pulled. -/
structure KeyJob where
  parish : BitVec 6
  peer   : BitVec 9
  rekey  : Bool
  start  : Time
  step   : Nat := 1
  ready  : Bool := true
  deriving DecidableEq, Repr

/-- An open SPDM session (R345, R349): its ID, its Export Master Secret, the peer whose Reeve it has authenticated, and whether it belongs to a job
of Reeve's as requester, by the job's parish. -/
structure SpdmSession where
  id     : BitVec 32
  secret : BitVec 384
  peer   : Option (BitVec 9) := none
  job    : Option (BitVec 6) := none
  ready  : Bool := false
  deriving DecidableEq, Repr

/-- Reeve: its page, notes, jobs, pair slots (R338-R351, R391, R413); `work` holds its working registers by offset (R478), `sessions`
the SPDM sessions open, at most 8, numbered by `sessionSeq`, `version` the SPDM version agreed (R345), `fwHead` the header of Steward's image, and
`fwCopied` says that the image has been copied (R344). -/
structure Ree where
  boot       : BitVec 4 := 0
  fwSvn      : BitVec 16 := 0
  otpSvn     : BitVec 16 := 0
  sealReady  : Bool := false
  sealMap    : BitVec 64 := 0
  notes      : List Note := []
  noteSeq    : BitVec 16 := 1
  noteLost   : Bool := false
  pwrFloor   : Word := 0x600000#64
  pwrBrake   : Word := 0x8#64
  orphan     : Word := 0x7D00032#64
  fltCtl     : Word := 0
  fltSafe    : Word := 0
  fltCount   : Word := 0x2772CC072#64
  fltImm     : Word := 0x3C6880103F8C#64
  fltFatal   : Word := 0x400000000000#64
  srcSel     : BitVec 10 := 0
  srcProfile : List (Nat × Option (BitVec 4)) := []
  profiles   : List (Nat × Option Word) := []
  jobs       : List KeyJob := []
  slots      : List (Nat × PairSlot) := []
  created    : List (Nat × BitVec 32) := []
  work       : List (Nat × Word) := []
  sessions   : List SpdmSession := []
  sessionSeq : Nat := 0
  version    : BitVec 8 := 0
  fwHead     : List Host.Cell := []
  fwCopied   : Bool := false
  deriving DecidableEq, Repr

/-- A Steward log entry held on the block (R474): CODE, ARG0, ARG1, TIME. -/
structure LogEntry where
  code : BitVec 8
  arg0 : Word
  arg1 : Word
  time : Time
  deriving DecidableEq, Repr

/-- The service state of an engine or croft (R85, R400, R448). A stone's is MIL_POOL and AUTO_OOS (R321, R330). -/
structure Service where
  removed : Bool := false
  severe  : Bool := false
  passed  : Bool := true
  deriving DecidableEq, Repr

/-- Steward: its instruction and data memories (R26, R344), by offset, its log ring (R474), the unit service states and the test in progress (R448, R449), held until it verifies and
runs. `test` is kind (0 engine, 1 stone, 2 croft), number and the command that waits. -/
structure Stw where
  running  : Bool := false
  fwPages  : Word := 0
  entry    : Word := 0
  code     : List Host.Cell := []
  data     : List Host.Cell := []
  logBase  : Word := 0
  logCtl   : Word := 6#64
  ring     : Ring := {}
  held     : List LogEntry := []
  lost     : Nat := 0
  seq      : BitVec 32 := 1
  engines  : List (Nat × Service) := []
  crofts   : List (Nat × Service) := []
  test     : Option (Nat × Nat × Nat) := none
  scrub    : Option (BitVec 64 × Bool) := none
  deriving DecidableEq, Repr

/-! ## Channels and commands -/

/-- A channel's state (R73). -/
inductive ChState
  | disabled | parked | idle | running | blocked | parking | stopped
  deriving DecidableEq, Repr

/-- A channel the controller holds: words 0 to 5 of its descriptor (R65), how far its ring has been fetched (R72), the next
record index R (R86), the reason a park in progress will show (R73), commands started since it entered the cache (R81), the
order of its last start (R79), a RESUME held while PARKING (R74), the first entry of a failed ring read (R72), whether the fetched entry
at HEAD is the first of a 128-B packet (R66, R73), and whether it has entered the cache and its descriptor is still being read (R72). -/
structure Chan where
  cached     : Bool := true
  ringLog2   : BitVec 5 := 6
  cplLog2    : BitVec 5 := 6
  irqOnError : Bool := false
  parish     : BitVec 6 := 0
  prio       : BitVec 3 := 0
  ringBase   : BitVec 52 := 0
  cplBase    : BitVec 52 := 0
  head       : BitVec 32 := 0
  tail       : BitVec 32 := 0
  cplHead    : BitVec 32 := 0
  cplTail    : BitVec 32 := 0
  recNext    : BitVec 32 := 0
  errMark    : Bool := false
  ovfQueued  : Bool := false
  parkReason : BitVec 8 := 0
  parkWhy    : BitVec 8 := 0
  blockCause : BitVec 2 := 0
  state      : ChState := .idle
  fetched    : BitVec 32 := 0
  started    : Nat := 0
  lastStart  : Nat := 0
  resumeHeld : Bool := false
  ringError  : Option (BitVec 32) := none
  blockedAt  : Time := 0
  half       : Bool := false
  loading    : Bool := false
  deriving DecidableEq, Repr

/-- A doorbell whose channel's descriptor is being read (R72, R79): requestor, channel, ACTION, VALUE; and, of a RESUME that was held while its
channel parked, the owner that the channel had then (R74). -/
structure Bell where
  who    : Who
  ch     : BitVec 21
  action : BitVec 2
  val    : BitVec 32
  owner  : Option Owner := none
  deriving DecidableEq, Repr

/-- A WAIT that holds its channel (R131, R132): its mask, value, comparison and address, whether it holds a WAIT-table entry,
the physical address its word translated to, and when it is read again; then, once it has ended, the status, RESULT and FAULT_SEQ with which it
starts and completes when its channel's turn comes (R84). -/
structure Waiter where
  ch     : BitVec 21
  va     : Word
  mask   : Word
  val    : Word
  op     : BitVec 8
  pkt    : List Word
  table  : Bool
  pa     : Option (BitVec 52)
  due    : Time
  reading : Bool := false
  met    : Option (BitVec 8 × Word × BitVec 32) := none
  deriving DecidableEq, Repr

/-- A virtual span a command translates (R153). -/
structure Span where
  va  : Nat
  len : Nat
  deriving DecidableEq, Repr

/-- A physical range kept in a command's context (R15, R154). -/
structure Range where
  va  : Nat
  len : Nat
  pa  : Nat
  deriving DecidableEq, Repr

/-- What has become of a command's signal at one target (R44-R46, R58, R59). -/
inductive SigFate
  | none | toSend | sent | applied | refused | notApplied | querying | unknown
  deriving DecidableEq, Repr

/-- A command's progress at one target (R110, R128-R130): device, tag, data stripes presented so far, its signal, whether the
target refused or an item there was lost, whether its signal's own item was lost with a plane (R56), whether the target was left out or dropped
(R269, R273), and its bit of MEMBER_MASK. -/
structure Target where
  dev      : BitVec 9
  tag      : BitVec 16
  planned  : Nat := 0
  sig      : SigFate := .none
  stopped  : Bool := false
  lost     : Bool := false
  sigLost  : Bool := false
  dropped  : Bool := false
  memberBit : Nat := 0
  deriving DecidableEq, Repr

/-- Where a started command stands. `tags`: waits for transaction tags (R110). `translating`: walks in progress. `parked`:
on Terrier records (R154). `active`: issuing or awaiting answers. `gang`: waits for a gang (R322). `mgmt`: Steward waits for
a condition of the command's own (R94). `done`: complete, its record not yet issued. -/
inductive Phase
  | tags | translating | parked | active | gang | mgmt | done
  deriving DecidableEq, Repr

/-- A started command: its ring entry, record index and packet; its engine; where it stands; the translation of its spans
(spans still to translate, ranges found, faulting bytes found, Terrier records joined); the profile and code tables it runs
under; its targets, the next stripe to present, the index list once read, whether its tags are held; what is staged or
outstanding; whether it issues no more (`halt`); its failures with the stripe that keys each (R129) and its result. `hangAt` is the start from
which its age for R435 counts; `redo`: an invalidation has reached it, and what it has not issued is translated again before it issues more (R15, R162); `was`: the ranges it held
before; `kept`: source bytes of a COPY or XFORM that its own writes have covered, as they were (R117, R310); `outw`: the bytes of the stripe or block
ready to write, held until the destination that an invalidation has withdrawn is translated again (R15, R163). -/
structure Cmd where
  id       : Nat
  ch       : BitVec 21
  parish   : Option (BitVec 6)
  op       : BitVec 8
  pkt      : List Word
  ringIx   : BitVec 32
  recIx    : BitVec 32
  engine   : Option Nat := none
  rejected : Bool := false
  start    : Time := 0
  hangAt   : Time := 0
  phase    : Phase := .active
  spans    : List Span := []
  ranges   : List Range := []
  bads     : List (Nat × BitVec 8) := []
  recs     : List (BitVec 32) := []
  noRecord : Bool := false
  profile  : Word := 0
  tables   : List Word := []
  index    : Option (List Word) := none
  needTags : List (BitVec 9) := []
  targets  : List Target := []
  next     : Nat := 0
  srcOff   : Nat := 0
  admitted : Bool := false
  staged   : List Byte := []
  reading  : Bool := false
  writing  : Nat := 0
  moved    : Nat := 0
  halt     : Bool := false
  fails    : List (Nat × BitVec 8 × BitVec 9) := []
  lost     : List (BitVec 8) := []
  late     : List (BitVec 8) := []
  status   : BitVec 8 := 0
  result   : Word := 0
  plane    : BitVec 7 := 0x7F
  device   : BitVec 9 := 0
  faultSeq : BitVec 32 := 0
  doneAt   : Time := 0
  redo     : Bool := false
  was      : List Range := []
  kept     : List (Nat × Byte) := []
  outw     : Option (List Byte) := none
  deriving DecidableEq, Repr

/-- The front end (R63-R97). `turns`: for each priority level, the parish whose turn it is; `lastOf`: for each level and parish, 64 × level
+ parish, the channel last started there (R84). -/
structure Chn where
  chans    : List (Nat × Chan) := []
  bells    : List Bell := []
  ovf      : List (BitVec 21) := []
  waits    : List Waiter := []
  ovfTail  : Nat := 0
  order    : Nat := 0
  turns    : List (Nat × Nat) := []
  lastOf   : List (Nat × Nat) := []
  deriving DecidableEq, Repr

/-- The commands in flight and the engines (R82-R86). -/
structure Eng where
  cmds    : List Cmd := []
  nextId  : Nat := 0
  tagsUsed : List (BitVec 16) := []
  tagWait : List Nat := []
  tagHold : List (BitVec 9 × BitVec 16 × Time) := []
  deriving DecidableEq, Repr

/-! ## Memory ports -/

/-- What a ring entry's write belongs to. -/
inductive RingId
  | notify (o : Owner)
  | fault
  | terrier
  | steward
  | trace (q : BitVec 6)
  deriving DecidableEq, Repr

/-- What a gang works for. -/
inductive MillWork
  | job (cmd : Nat)
  | ingress (arrival : Nat)
  | egress (cmd : Nat)
  deriving DecidableEq, Repr

/-- What a memory read is for. A walk carries the form of the table it reads, that of its start (R148). `dropped` is a read of a channel's ring
or WAIT word that nothing waits for any more, its channel having parked (R75). -/
inductive ReadFor
  | ring (ch : BitVec 21) (first : BitVec 32) (count : Nat)
  | desc (ch : BitVec 21)
  | waitWord (ch : BitVec 21)
  | source (cmd : Nat)
  | index (cmd : Nat)
  | matrix (work : MillWork)
  | walk (parish : BitVec 6) (va : Nat) (depth : Nat) (ingress : Bool) (stale : Bool) (pages : Bool)
  | winEntry (arrival : Nat)
  | target (arrival : Nat)
  | atomic (op : Nat)
  | granary (link : BitVec 7) (seq : BitVec 16)
  | mgmt (cmd : Nat)
  | image
  | dropped
  deriving DecidableEq, Repr

/-- What a memory write is for. A `park` write ends with the PARK notification entry when `note` is set (R90). -/
inductive WriteFor
  | record (o : Owner) (ch : BitVec 21) (ringIx : BitVec 32) (status : BitVec 8) (note : Bool)
  | park (o : Owner) (ch : BitVec 21) (head : BitVec 32) (reason : BitVec 8) (note : Bool)
  | ring (r : RingId) (ix : BitVec 32)
  | desc (ch : BitVec 21)
  | commit (arrival : Nat)
  | atomic (op : Nat)
  | command (cmd : Nat) (stripe : Nat)
  | spill (link : BitVec 7)
  | mgmt (cmd : Nat)
  | background
  deriving DecidableEq, Repr

/-- An outstanding read at a memory port (R457): the pieces it gathers (address, length), class (R28), issue time, the agent
that issued it (R162) and the parish span it uses. `held` keeps what its bytes were when a later write of the controller, which R457
orders after it, was acknowledged first. -/
structure ReadReq where
  id    : Nat
  use   : ReadFor
  parts : List (Nat × Nat)
  cls   : BitVec 3
  at_   : Time
  agent : Option (BitVec 6) := none
  span  : Option (BitVec 6 × Nat × Nat) := none
  held  : List (Nat × Byte) := []
  deriving DecidableEq, Repr

/-- An outstanding write at a memory port: the bytes it writes, in issue order with the others. -/
structure WriteReq where
  id    : Nat
  use   : WriteFor
  cells : List (Nat × Byte)
  cls   : BitVec 3
  at_   : Time
  agent : Option (BitVec 6) := none
  span  : Option (BitVec 6 × Nat × Nat) := none
  deriving DecidableEq, Repr

/-- The memory port interfaces (R28, R457). -/
structure Memp where
  reads  : List ReadReq := []
  writes : List WriteReq := []
  nextId : Nat := 0
  deriving DecidableEq, Repr

/-! ## Terrier, windows, apertures -/

/-- The state of a range (R149); `error` marks, within one step, where a walk ended in TABLE_ERROR. -/
inductive RangeState
  | hole | resident | away | error
  deriving DecidableEq, Repr

/-- A range-cache entry (R152). -/
structure CacheEnt where
  parish : BitVec 6
  va     : Nat
  len    : Nat
  pa     : Nat
  state  : RangeState
  deriving DecidableEq, Repr

/-- Who waits for a translation: a command, or the WAIT of a channel (R156). -/
inductive Requester
  | cmd (id : Nat)
  | wait (ch : BitVec 21)
  deriving DecidableEq, Repr

/-- A fault found by a requester: key (parish, kind, granule), first faulting byte, layer (R155). -/
structure TerFault where
  parish  : BitVec 6
  kind    : Nat
  firstVa : Nat
  layer   : BitVec 16
  deriving DecidableEq, Repr

/-- A walk that waits for a walker (R152): parish, address, and whether for ingress. -/
structure WalkReq where
  parish  : BitVec 6
  va      : Nat
  ingress : Bool
  deriving DecidableEq, Repr

/-- An open Terrier fault record (R155-R157). -/
structure TerRec where
  seq     : BitVec 32
  parish  : BitVec 6
  kind    : BitVec 8
  granule : Nat
  firstVa : Nat
  layer   : BitVec 16
  time    : Time
  waiters : List Requester
  deriving DecidableEq, Repr

/-- A range invalidation in progress (R163): the command, the range, its start, the agents that have acknowledged, the cache
entries removed, the first request number issued after it, and whether it was reported late (R164). -/
structure Inval where
  cmd     : Nat
  parish  : BitVec 6
  lo      : Nat
  hi      : Nat
  start   : Time
  acked   : List (BitVec 6)
  removed : Nat
  mark    : Nat
  late    : Bool
  deriving DecidableEq, Repr

/-- The Terrier (R148-R165): the range cache, most recently used first; the open records, the next number and the records not yet
written; the requesters that wait for a record with the fault each would report (R156); the walks that wait for a walker, in arrival order
(R152); and the invalidation in progress. -/
structure Ter where
  cache   : List CacheEnt := []
  recs    : List TerRec := []
  nextSeq : BitVec 32 := 1
  unwritten : List TerRec := []
  noRec   : List (Requester × TerFault) := []
  walkq   : List WalkReq := []
  inval   : Option Inval := none
  deriving DecidableEq, Repr

/-- The state of a window entry (R139). -/
inductive WinState
  | free | opened | closing | quarantine
  deriving DecidableEq, Repr

/-- A window entry (R139). -/
structure Win where
  state   : WinState := .free
  tag     : BitVec 16 := 0
  parish  : BitVec 6 := 0
  classes : BitVec 4 := 0
  vaBase  : BitVec 57 := 0
  length  : BitVec 48 := 0
  qEnd    : Time := 0
  label   : Word := 0
  valid   : Bool := true
  deriving DecidableEq, Repr

/-- The window table (R138-R144): its entries, the handles in the window cache (most recent first), and the WIN_CLOSE commands
that wait for a handle to drain. -/
structure Wins where
  entries : List (Nat × Win) := []
  cached  : List Nat := []
  closing : List (Nat × Option Nat) := []
  deriving DecidableEq, Repr

/-- An aperture (R145). -/
structure Aperture where
  enabled : Bool := false
  base    : BitVec 52 := 0
  size    : BitVec 41 := 0
  dest    : BitVec 9 := 0
  window  : BitVec 20 := 0
  offset  : BitVec 48 := 0
  parish  : BitVec 6 := 0
  store   : Bool := false
  load    : Bool := false
  deriving DecidableEq, Repr

/-- An access of the direct access port in progress (R147): the unit that carries it. -/
structure DapAcc where
  id       : Nat
  aperture : BitVec 12
  dest     : BitVec 9
  isStore  : Bool
  pa       : BitVec 52
  deriving DecidableEq, Repr

/-- An access held at the port's network-on-chip interface (R147): its address, whether it stores, its size and data. -/
structure DapHold where
  pa    : BitVec 52
  store : Bool
  size  : Nat
  data  : List Byte
  deriving DecidableEq, Repr

/-- A response the port returns on the network-on-chip: the access, whether it is an error, the data of a load (R147, R52). -/
structure DapResp where
  pa    : BitVec 52
  error : Bool
  data  : List Byte
  deriving DecidableEq, Repr

/-- The direct access port (R51-R53, R145-R147): apertures, accesses in progress, the plane each (aperture, destination) is
pinned to, accesses held at the port, and the responses returned. -/
structure Dap where
  aps    : List (Nat × Aperture) := []
  accs   : List DapAcc := []
  pins   : List (BitVec 12 × BitVec 9 × Nat) := []
  next   : Nat := 0
  resps  : List DapResp := []
  waits  : List (Nat × BitVec 12) := []
  held   : List DapHold := []
  deriving DecidableEq, Repr

/-! ## Routes, tallies, traffic -/

/-- A fence entry (R181): the bits in force, and those of them that Reeve set (R339). -/
structure Fence where
  device        : Bool := false
  parishes      : BitVec 64 := 0
  reeveDevice   : Bool := false
  reeveParishes : BitVec 64 := 0
  deriving DecidableEq, Repr

/-- Routes, stripe maps, masks and fences (R168-R185). A route entry is its 128 bits (R170). `drain` is the operator's mask, `parkDrain` the
links that drain before they park (R227), `calPause` the planes of crofts that calibrate (R452). -/
structure Route where
  ctl      : Word := 0xC80000#64
  epoch    : Bool := false
  bank0    : List (Nat × BitVec 128) := []
  bank1    : List (Nat × BitVec 128) := []
  loaded   : Bool := false
  settled  : Bool := true
  maps     : List (Nat × List Byte) := []
  cursors  : List (Nat × Nat × Nat) := []
  linkUp   : BitVec 96 := 0
  drain    : BitVec 96 := 0
  calPause : BitVec 96 := 0
  parkDrain : BitVec 96 := 0
  fences   : List (Nat × Fence) := []
  drains   : List (Nat × Nat) := []
  deriving DecidableEq, Repr

/-- A source's tally towards one destination (R234, R250): SENT, SEEN, whether new charges are held, when the settle time ends,
and whether RECONCILE has been sent (and when last). -/
structure SrcTally where
  sent    : BitVec 32 := 0
  seen    : BitVec 32 := 0
  hold    : Bool := false
  settle  : Option Time := none
  lossInHold : Bool := false
  recon   : Option Time := none
  deriving DecidableEq, Repr

/-- A target's tally of one source (R234, R246, R252): FREED, ISSUED, lines held in the Barn, the ISSUED last sent and since
when an advance is unsent. -/
structure TgtTally where
  freed    : BitVec 32 := 0
  issued   : BitVec 32 := 0
  held     : Nat := 0
  lastSent : BitVec 32 := 0
  unsentAt : Option Time := none
  deriving DecidableEq, Repr

/-- A source's signalled-command slots towards one destination (R45): commands outstanding and the times at which the slots of
cancelled ones free. -/
structure SigSlots where
  active    : List Nat := []
  cancelled : List Time := []
  deriving DecidableEq, Repr

/-- The tallies (R231-R254) and the releases still to be sent (R248): destination, tag, refreshes left, header still due. -/
structure Tal where
  ctl      : Word := 0xA40#64
  src      : List (Nat × SrcTally) := []
  tgt      : List (Nat × TgtTally) := []
  plan     : List (Nat × Word) := []
  slots    : List (Nat × SigSlots) := []
  releases : List (BitVec 9 × BitVec 16 × Nat × Bool) := []
  rrNext   : Nat := 0
  refreshAt : Time := 0
  deriving DecidableEq, Repr

/-- Whose transaction a unit is. -/
inductive UnitFor
  | cmd (id : Nat)
  | answer (requester : BitVec 9)
  | dap (acc : Nat)
  deriving DecidableEq, Repr

/-- A charged transaction of this device (R173, R233-R235): waiting for credit and placement, or in flight until every
destination in `owed` has answered. A signal transaction awaits its SIGNAL_DONE besides (R46). `waitEnd` is when its wait for
credit passes the timeout, `deadline` when its wait for an answer does (R57, R469), `sent` whether its first flit has gone to the
lanes (R58), `ctr` its sealing counter (R354). -/
structure Xu where
  id       : Nat
  use      : UnitFor
  dests    : List (BitVec 9)
  owed     : List (BitVec 9)
  txn      : Txn
  lines    : Nat
  charged  : Bool := false
  plane    : Nat := 0
  pinned   : Option Nat := none
  waitEnd  : Time := 0
  deadline : Time := 0
  sent     : Bool := false
  await    : Bool := false
  parish   : Option (BitVec 6) := none
  ctr      : BitVec 64 := 0
  deriving DecidableEq, Repr

/-- A resolution query outstanding (R59): its number, command, target, tag, deadline, and its tag slot when it was sealed (R358). -/
structure QueryOut where
  id       : Nat
  cmd      : Nat
  dev      : BitVec 9
  tag      : BitVec 16
  deadline : Time
  auth     : Option SealTag := none
  deriving DecidableEq, Repr

/-- Traffic of this device as a source: units; charged units whose command or access has ended while a destination still owed an answer, which
count in flight until it comes or they are lost (R173, R250); queries; transactions and answers addressed to the device itself that its own
ingress has not taken yet (R113), and answers discarded and counted (R48, R484). -/
structure Tx where
  units   : List Xu := []
  ghosts  : List Xu := []
  nextId  : Nat := 0
  queries : List QueryOut := []
  locals  : List Txn := []
  stale   : Nat := 0
  deriving DecidableEq, Repr

/-! ## Ingress: Barn, signals, atomics, reductions -/

/-- Where a landed transaction stands. `window`: its window entry is being read (R144). `xlate`: waits for a walk. `reading`,
`writing`: memory accesses outstanding. `staged`: an ORDERED stripe of a later rank (R265). `group`: waits for a group entry
(R264). `gang`: waits for stones (R324). `reply`: its response waits for credit (R116). `unit`: in the atomic unit. -/
inductive ArrState
  | window | xlate | reading | writing | staged | group | gang | reply | unit
  deriving DecidableEq, Repr

/-- A landed transaction that holds its Barn lines (R232, R249). `turn`: its place, from 1, in the order in which contributions left the
decode stage for the reduce unit (R263). -/
structure Arrival where
  id     : Nat
  via    : Via
  txn    : Txn
  lines  : Nat
  state  : ArrState
  parish : BitVec 6 := 0
  cmd    : Option Nat := none
  data   : List Byte := []
  decoded : Bool := false
  ranges : List Range := []
  waitEnd : Time := 0
  began   : Nat := 0
  turn    : Nat := 0
  deriving DecidableEq, Repr

/-- The Barn (R232, R252, R253). -/
structure Brn where
  arrivals  : List Arrival := []
  nextId    : Nat := 0
  partials  : List (Nat × BitVec 9 × Nat) := []
  highWater : BitVec 20 := 0
  overruns  : BitVec 64 := 0
  turns     : Nat := 0
  deriving DecidableEq, Repr

/-- The state of a pending-signal entry (R44, R485): PENDING, handed to the atomic unit, DONE or CANCELLED. -/
inductive SigState
  | pending | handed | done | cancelled
  deriving DecidableEq, Repr

/-- A pending-signal entry (R44): its key, the recorded signal (SIG_CTL, SIG_VALUE, EXPECTED), committed stripes, when its hold
time ends, the seal of its signal transaction (R358), and the queries that wait for its application (R59). -/
structure SigEnt where
  src     : BitVec 9
  tag     : BitVec 16
  state   : SigState := .pending
  sig     : Option (Word × Word × Nat) := none
  count   : Nat := 0
  holdEnd : Time := 0
  window  : BitVec 20 := 0
  parish  : BitVec 6 := 0
  via     : Via := .self
  auth    : Option SealTag := none
  queried : List (Via × Txn) := []
  deriving DecidableEq, Repr

/-- What an operation of the atomic unit answers: an AMO or AMOF arrival, or a pending-signal entry. -/
inductive AtomFor
  | arrival (id : Nat)
  | signal (src : BitVec 9) (tag : BitVec 16)
  deriving DecidableEq, Repr

/-- An operation in the atomic unit (R482), in arrival order: its address, width in bytes, SUBOP, operands, the old value it found, the
value it writes, and its aligned 8-B word as the unit holds it after the operation. -/
structure AtomOp where
  id      : Nat
  use     : AtomFor
  pa      : Nat
  width   : Nat
  subop   : BitVec 8
  operand : Word
  compare : Word
  old     : Option Word := none
  new     : Option Word := none
  held    : Option Word := none
  began   : Nat := 0
  deriving DecidableEq, Repr

/-- The pending-signal table and the atomic unit. -/
structure Sig where
  ents   : List SigEnt := []
  ops    : List AtomOp := []
  nextId : Nat := 0
  deriving DecidableEq, Repr

/-- An ordered-group entry (R264): key, COUNT, NEXT, BROKEN, last arrival. -/
structure Group where
  window  : BitVec 20
  offset  : BitVec 48
  stripe  : BitVec 40
  count   : Nat
  next    : Nat
  broken  : Bool := false
  freeAt  : Time := 0
  deriving DecidableEq, Repr

/-! ## Links -/

/-- LNK_STATUS.STATE (R228). -/
inductive LinkState
  | off | calibrating | training | up | retraining | lpi | parked
  deriving DecidableEq, Repr

/-- A flit held for replay (R203): type, epoch, START, USED, and its body's seven slots. -/
structure Flit where
  type  : BitVec 4
  epoch : BitVec 1 := 0
  start : BitVec 7 := 0
  used  : BitVec 3 := 0
  body  : List (BitVec 256) := []
  seq   : BitVec 16 := 0
  deriving DecidableEq, Repr

/-- A planned pause (R216): its kind and start. -/
inductive Pause
  | width | speed | calibration
  deriving DecidableEq, Repr

/-- Why a link runs at ×1 (R217, R218, R389). -/
inductive Narrow
  | none | health | operator | power
  deriving DecidableEq, Repr

/-- A transaction queued on a link: its slots not yet sent, whether the next is its header slot, its epoch, its unicast
destination (whose grant its header takes, R243) and its unit. -/
structure TxItem where
  slots : List (BitVec 256)
  fresh : Bool := true
  epoch : BitVec 1 := 0
  dest  : Option (BitVec 9) := none
  unit  : Option Nat := none
  deriving DecidableEq, Repr

/-- The phase a link's training is in (R224, R225); SWITCH belongs to a pause. `stopped`: more than two retimers were counted. -/
inductive TrainPhase
  | detect | equalise | align | confirm | stopped
  deriving DecidableEq, Repr

/-- A link: its registers (R228), link-layer state (R201-R210), pauses and changes (R212-R216), health (R217), down timers
(R219), training (R223-R226) and power state (R227). `stay` are the lanes a narrowing for health leaves it (R218), `lost` the lanes whose last
report is that they do not lock; `idDue` says that CONFIRM's LINK_ID is still to be sent, `confirmed` that the partner's has passed (R225);
`scram0` and `scram1` are the lanes' scramblers and `wire` the 64-B words that the last flit put on the lanes, by lane (R188); `overs` are the
headers of discarded transactions that have yet to land whole (R252); `refreshq` are a refresh's entries (R246), `timeAt` when the last TIME flit went out
(R370), and `parkAgree` says that the partner's PARK_REQ is granted once the link has drained (R227). -/
structure Link where
  downTime    : BitVec 14 := 1000
  granaryFlits : BitVec 15 := 0x2000
  csymShift   : BitVec 5 := 0x14
  autoNarrow  : Bool := true
  width       : BitVec 2 := 0
  en          : Bool := false
  granaryBase : Word := 0
  csym0       : BitVec 64 := 0
  csym1       : BitVec 64 := 0
  retimer0    : BitVec 32 := 0
  retimer1    : BitVec 32 := 0
  state       : LinkState := .off
  lock0       : Bool := false
  lock1       : Bool := false
  badLane0    : Bool := false
  badLane1    : Bool := false
  lanes       : BitVec 2 := 0
  standby     : BitVec 2 := 0
  expected    : BitVec 16 := 0
  nextSeq     : BitVec 16 := 0
  acked       : BitVec 16 := 0xFFFF
  replay      : List Flit := []
  resend      : Option Nat := none
  spillNext   : BitVec 15 := 0
  spillOldest : BitVec 15 := 0
  spilled     : Nat := 0
  timer       : Option Time := none
  nackHold    : Option (BitVec 16 × Time) := none
  nackDue     : Option (BitVec 16 × BitVec 3) := none
  txq         : List TxItem := []
  ctrlq       : List (BitVec 8 × Word × Word × Word) := []
  curfewq     : List (Word × Word) := []
  tallyq      : List Word := []
  refreshq    : List Word := []
  tallyDue    : Option Time := none
  timeAt      : Option Time := none
  rxLeft      : Nat := 0
  rxOver      : Bool := false
  overs       : List Txn := []
  duplicates  : Nat := 0
  aborts      : Nat := 0
  discarded   : Nat := 0
  joined      : Bool := false
  noLock      : Option Time := none
  retrainAt   : Option Time := none
  ackAt       : Time := 0
  quietAt     : Option Time := none
  lpiWake     : Option Time := none
  pause       : Option (Pause × Time) := none
  widthReq    : Option (BitVec 2) := none
  widthTo     : Option (BitVec 2) := none
  narrow      : Narrow := .none
  speedReq    : Bool := false
  speedAck    : Bool := false
  parkReq     : Bool := false
  parkSent    : Bool := false
  parkAgree   : Bool := false
  granaryIn   : List (BitVec 16 × Flit) := []
  partnerId   : Option Word := none
  miswiredAt  : Option Time := none
  lastFlit    : List Byte := []
  phase       : TrainPhase := .detect
  idDue       : Bool := false
  confirmed   : Bool := false
  switched    : Bool := false
  widthAsked  : Bool := false
  stay        : BitVec 2 := 3
  lost        : BitVec 2 := 0
  scram0      : BitVec 31 := 0
  scram1      : BitVec 31 := 0
  wire        : List (Nat × List Byte) := []
  deriving DecidableEq, Repr

/-- A croft (R20, R214, R228, R448, R450-R452): its rate, PLL, the rate it is changing to and the one asked for since, and its calibration requests. -/
structure Croft where
  rate     : BitVec 2 := 0
  pllLock  : Bool := false
  rateTo   : Option (BitVec 2) := none
  rateNext : Option (BitVec 2) := none
  calPending : Option Time := none
  calForced : Bool := false
  calActive : Bool := false
  calLast  : Time := 0
  deriving DecidableEq, Repr

/-- Links and crofts, and the forced calibrations that wait (R451). -/
structure Lnk where
  links  : List (Nat × Link) := []
  crofts : List (Nat × Croft) := []
  forcedEnd : Option Time := none
  forcedWait : List Nat := []
  windowEnd : Option Time := none
  deriving DecidableEq, Repr

/-! ## Mill -/

/-- A matrix a stone holds (R315, R323): owner, physical and virtual address, K, N, FORMAT, gang shape, MATRIX_ID for rotations (0
for XFORM). Its elements stand in the stone's cells. -/
structure Matrix where
  parish : BitVec 6
  pa     : Nat
  va     : Nat
  k      : BitVec 16
  n      : BitVec 16
  format : BitVec 8
  gang   : BitVec 3
  ident  : BitVec 8 := 0
  deriving DecidableEq, Repr

/-- A stone (R306, R311, R314, R315, R321, R323, R326). `stage`: its staging, by lane the entries of the lane's bank by slot, an entry with
the parish whose data it is; an unlisted entry is 0. `cells`: its cells, by row the weights by column; an unlisted cell is +0; `holds`: the parish whose
matrix its cells were last loaded with, held still or not. Then whether it is
RUNNING, when its last work ended, consecutive stripes on its matrix, the matrix it holds, whether the matrix is still to be loaded, the work
whose gang it belongs to and the order in which that gang began to wait for its stones, whether the matrix goes when that work ends, whether the
gang is frozen under the ceiling (R328), and the pool it still serves while it works after a change of pool. -/
structure Stone where
  stage    : List (Nat × List (Nat × (BitVec 6 × BitVec 16))) := []
  cells    : List (Nat × List (Nat × BitVec 16)) := []
  holds    : Option (BitVec 6) := none
  running  : Bool := false
  lastWork : Time := 0
  used     : Nat := 0
  matrix   : Option Matrix := none
  loading  : Bool := false
  work     : Option MillWork := none
  took     : Nat := 0
  dropAfter : Bool := false
  frozen   : Bool := false
  oldPool  : Option Nat := none
  deriving DecidableEq, Repr

/-- Work that waits for a gang (R322, R324): its number, gang shape, and when its wait passes the timeout. -/
structure MillWait where
  id    : Nat
  work  : MillWork
  gang  : Nat
  waitEnd : Time
  deriving DecidableEq, Repr

/-- A registered rotation matrix (R316). -/
structure Reg where
  parish : BitVec 6
  ident  : BitVec 8
  va     : Nat
  k      : BitVec 16
  n      : BitVec 16
  format : BitVec 8
  deriving DecidableEq, Repr

/-- The Mill (R306-R331): pools, checks, stones, the load path's queue, work waiting for a gang, rotations that have one and whose stripe has not
streamed (R324, R328), when a stone last changed
between RUNNING and QUIET, and the registrations with the CLEAR commands that wait. -/
structure Mil where
  pool      : BitVec 16 := 0x5500
  autoOos   : BitVec 8 := 0
  unchecked : BitVec 32 := 0
  mismatch  : BitVec 32 := 0
  stones    : List (Nat × Stone) := []
  loads     : List Nat := []
  waiting   : List MillWait := []
  held      : List MillWait := []
  nextId    : Nat := 0
  toggled   : Option Time := none
  regs      : List Reg := []
  clears    : List (BitVec 6 × BitVec 8 × Nat) := []
  deriving DecidableEq, Repr

/-! ## Parishes -/

/-- PAR_STATE.STATE (R337). -/
inductive ParState
  | free | active | retiring | clearing
  deriving DecidableEq, Repr

/-- A parish (R83, R278-R281, R334-R337, R361, R421, R423-R425, R475-R477). -/
structure Parish where
  state       : ParState := .free
  tag         : BitVec 16 := 0
  sealed      : Bool := false
  share       : BitVec 8 := 0
  maxPrio     : BitVec 3 := 0
  reserve     : BitVec 11 := 0
  maxInflight : BitVec 11 := 0
  windowQuota : BitVec 21 := 0
  deficit     : List (Nat × Int) := []
  terMode     : BitVec 2 := 0
  terRoot     : Word := 0
  notify      : Notify := {}
  ovf         : Bool := false
  soft        : Bool := false
  traceBase   : Word := 0
  traceCtl    : Word := 6#64
  trace       : Ring := {}
  traceLost   : Nat := 0
  traceOn     : Bool := false
  tracePeriod : BitVec 5 := 0
  traceFirst  : BitVec 21 := 0
  traceCount  : BitVec 7 := 0
  traceLast   : List (Nat × Word × Word) := []
  filters     : List (Nat × Word) := []
  profiles    : List (Nat × Option Word) := []
  tabs        : List (Nat × Word) := []
  retireAt    : Time := 0
  stoppedCmds : Nat := 0
  deriving DecidableEq, Repr

/-! ## Observation -/

/-- A watchpoint (R427): owner, space, address range, window, classes, actions, count. -/
structure Watch where
  owner   : Option (BitVec 6) := none
  window  : Bool := false
  start   : BitVec 57 := 0
  length  : BitVec 57 := 0
  handle  : BitVec 20 := 0
  classes : BitVec 4 := 0
  actions : BitVec 3 := 0
  count   : BitVec 64 := 0
  deriving DecidableEq, Repr

/-- Counters, filters, watchpoints, snapshots (R415-R428, R435-R437). -/
structure Obs where
  ctl        : Word := 0x3E8000000000400#64
  snapBase   : Word := 0
  watchCurfew : BitVec 64 := 0
  filters    : List (Nat × Word) := []
  watches    : List (Nat × Watch) := []
  cnt        : List (Nat × BitVec 64) := []
  parCnt     : List (Nat × BitVec 64) := []
  everCreated : Bool := false
  diagUntil  : Option Time := none
  snapSeq    : BitVec 32 := 1
  deriving DecidableEq, Repr

/-- CUR_STATUS.STATE (R430). -/
inductive CurState
  | idle | armed | stopped | dumping | releasing
  deriving DecidableEq, Repr

/-- The Curfew controller (R429-R438). -/
structure Cur where
  ctl        : Word := 0xFA0010000000008#64
  state      : CurState := .idle
  stopTime   : Time := 0
  restart    : Time := 0
  dumpBase   : Word := 0
  lateNs     : BitVec 16 := 0
  ignored    : BitVec 8 := 0
  refused    : BitVec 8 := 0
  origin     : BitVec 9 := 0
  originKind : BitVec 3 := 0
  done       : Bool := false
  fabric     : Bool := false
  count      : BitVec 32 := 0
  curfewId   : BitVec 32 := 0
  stoppedAt  : Time := 0
  halt       : Bool := false
  stamps     : List Time := []
  scan       : Nat := 0
  jtagSel    : BitVec 8 := 0
  jtagBit    : Bool := false
  jtagWord   : Word := 0
  heldAccesses : List (Who × BitVec 29 × BitVec 4 × Option Word) := []
  deriving DecidableEq, Repr

/-! ## The whole -/

/-- Why a step stops with a fault. No command of this model does: every command has an effect, or none where its event cannot
occur. -/
inductive Fault
  /-- Raised by nothing: the fault collector's messages are state, not stops. Safe. -/
  | none
  deriving DecidableEq, Repr

/-- Why a step refuses a command. -/
inductive Refusal
  /-- A command that has no meaning yet, by its mnemonic. Raised by the dispatch alone. Safe: it answers no state. -/
  | notModelled (mnemonic : String)
  deriving DecidableEq, Repr

/-- The state of the block. -/
structure State where
  part    : Part := {}
  otp     : Otp := {}
  pins    : Pins := {}
  gbl     : Gbl := {}
  alm     : Alm := {}
  pwr     : Pwr := {}
  flt     : Flt := {}
  ree     : Ree := {}
  stw     : Stw := {}
  chn     : Chn := {}
  eng     : Eng := {}
  memp    : Memp := {}
  ter     : Ter := {}
  wins    : Wins := {}
  dap     : Dap := {}
  route   : Route := {}
  tal     : Tal := {}
  tx      : Tx := {}
  brn     : Brn := {}
  sig     : Sig := {}
  groups  : List Group := []
  lnk     : Lnk := {}
  mil     : Mil := {}
  par     : List (Nat × Parish) := []
  obs     : Obs := {}
  cur     : Cur := {}
  mem     : List Host.Cell := []
  free    : Nat := 0
  pending : List Instr := []
  deriving DecidableEq, Repr

/-- The block right after AON_RESET_N (R439): every field at its reset value, AON_RESET_N and BLOCK_RESET_N asserted, PWR_OK
low, no command waiting. -/
def State.reset : State := {}

end Sys2Proof.Machine
end

