-- ==== Sys2Proof/Machine/Tab.lean ====
section
/-! DEFINITION. Sparse tables: a list of (number, value) pairs with numbers strictly rising and no value equal to the table's
default, so that equal tables are equal data. Memory is one of them (Machine/Ops.lean). -/

namespace Sys2Proof.Machine

/-- What a table holds at `k`: the listed value, or the default `d`. -/
def Tab.get {α : Type} (d : α) : List (Nat × α) → Nat → α
  | [], _ => d
  | (j, v) :: t, k => if j = k then v else Tab.get d t k

/-- The table without an entry at `k`. -/
def Tab.erase {α : Type} (t : List (Nat × α)) (k : Nat) : List (Nat × α) := t.filter fun e => e.1 != k

/-- The table with `v` at `k`, whatever `v` is. -/
def Tab.insert {α : Type} : List (Nat × α) → Nat → α → List (Nat × α)
  | [], k, v => [(k, v)]
  | (j, w) :: t, k, v =>
    if j = k then (k, v) :: t else if k < j then (k, v) :: (j, w) :: t else (j, w) :: Tab.insert t k v

/-- The table with `v` at `k`: writing the default removes the entry. -/
def Tab.put {α : Type} [DecidableEq α] (d : α) (t : List (Nat × α)) (k : Nat) (v : α) : List (Nat × α) :=
  if v = d then Tab.erase t k else Tab.insert t k v

/-- The table with the value at `k` changed by `f`. -/
def Tab.upd {α : Type} [DecidableEq α] (d : α) (t : List (Nat × α)) (k : Nat) (f : α → α) : List (Nat × α) :=
  Tab.put d t k (f (Tab.get d t k))

/-- Every number of the table is above `k`. -/
def Tab.above {α : Type} (k : Nat) : List (Nat × α) → Bool
  | [] => true
  | (j, _) :: t => decide (k < j) && Tab.above k t

/-- The canonical form: numbers strictly rising, no value equal to the default. -/
def Tab.wf {α : Type} [DecidableEq α] (d : α) : List (Nat × α) → Bool
  | [] => true
  | (j, v) :: t => decide (v ≠ d) && Tab.above j t && Tab.wf d t

end Sys2Proof.Machine
end

