-- ==== Sys2Proof/Machine/Ops.lean ====
section
/-! DEFINITION. Named operations over the state that every family shares: time, the part, memory and its ports, tables, the rings
the controller writes, notifications, fault messages, log entries and notes. -/

namespace Sys2Proof.Machine

/-! ## Time (R365, R366) -/

/-- One microsecond in Almanac units of 1/16 ns. -/
def usUnits : Nat := 16000

/-- One millisecond in Almanac units. -/
def msUnits : Nat := 16000000

/-- Almanac time. -/
def now (s : State) : Time := s.alm.now

/-- The time `d` units after `t`. -/
def later (t : Time) (d : Nat) : Time := t + BitVec.ofNat 64 d

/-- Time `t` is reached: (now − t) mod 2^64 < 2^63 (R366). -/
def reached (s : State) (t : Time) : Bool := decide ((s.alm.now - t).toNat < 2 ^ 63)

/-- Time passed since `t`, in units. -/
def elapsed (s : State) (t : Time) : Nat := (s.alm.now - t).toNat

/-! ## The part (R3, R4, R446) -/

/-- Link `p` is on the part. -/
def hasLink (s : State) (p : Nat) : Bool := decide (p < s.part.links)

/-- Croft `c` is on the part: three links each. -/
def hasCroft (s : State) (c : Nat) : Bool := decide (3 * c < s.part.links)

/-- The device's own fabric ID (R467). -/
def ownId (s : State) : BitVec 9 := s.gbl.fabricId

/-! ## Free values -/

/-- The counter after a free value has been drawn. -/
def State.drawn (s : State) : State := { s with free := s.free + 1 }

/-- `n` free bytes from counter `k` on (Config.freeByte). -/
def freeBytes (k n : Nat) : List Byte := (List.range n).map fun i => Config.freeByte (k + i)

/-! ## Tables held in the state -/

/-- Link `p`'s entry. -/
def link (s : State) (p : Nat) : Link := Tab.get {} s.lnk.links p

/-- The state with link `p` changed. -/
def setLink (p : Nat) (l : Link) (s : State) : State := { s with lnk := { s.lnk with links := Tab.put {} s.lnk.links p l } }

/-- The state with link `p` changed by `f`. -/
def modLink (p : Nat) (f : Link → Link) (s : State) : State := setLink p (f (link s p)) s

/-- Croft `c`'s entry. -/
def croft (s : State) (c : Nat) : Croft := Tab.get {} s.lnk.crofts c

/-- The state with croft `c` changed by `f`. -/
def modCroft (c : Nat) (f : Croft → Croft) (s : State) : State :=
  { s with lnk := { s.lnk with crofts := Tab.put {} s.lnk.crofts c (f (croft s c)) } }

/-- Parish `q`'s entry. -/
def parish (s : State) (q : Nat) : Parish := Tab.get {} s.par q

/-- The state with parish `q` changed by `f`. -/
def modParish (q : Nat) (f : Parish → Parish) (s : State) : State := { s with par := Tab.put {} s.par q (f (parish s q)) }

/-- Stone `n`'s entry. -/
def stone (s : State) (n : Nat) : Stone := Tab.get {} s.mil.stones n

/-- The state with stone `n` changed by `f`. -/
def modStone (n : Nat) (f : Stone → Stone) (s : State) : State :=
  { s with mil := { s.mil with stones := Tab.put {} s.mil.stones n (f (stone s n)) } }

/-- Window handle `h`'s entry. -/
def win (s : State) (h : Nat) : Win := Tab.get {} s.wins.entries h

/-- The state with window `h` changed by `f`. -/
def modWin (h : Nat) (f : Win → Win) (s : State) : State :=
  { s with wins := { s.wins with entries := Tab.put {} s.wins.entries h (f (win s h)) } }

/-- The source's tally towards `d` (R234). -/
def srcTally (s : State) (d : Nat) : SrcTally := Tab.get {} s.tal.src d

/-- The state with the source's tally towards `d` changed by `f`. -/
def modSrcTally (d : Nat) (f : SrcTally → SrcTally) (s : State) : State :=
  { s with tal := { s.tal with src := Tab.put {} s.tal.src d (f (srcTally s d)) } }

/-- The target's tally of source `d` (R234). -/
def tgtTally (s : State) (d : Nat) : TgtTally := Tab.get {} s.tal.tgt d

/-- The state with the target's tally of `d` changed by `f`. -/
def modTgtTally (d : Nat) (f : TgtTally → TgtTally) (s : State) : State :=
  { s with tal := { s.tal with tgt := Tab.put {} s.tal.tgt d (f (tgtTally s d)) } }

/-- The fence entry of remote device `d` (R181). -/
def fence (s : State) (d : Nat) : Fence := Tab.get {} s.route.fences d

/-- The state with the fence entry of `d` changed by `f`. -/
def modFence (d : Nat) (f : Fence → Fence) (s : State) : State :=
  { s with route := { s.route with fences := Tab.put {} s.route.fences d (f (fence s d)) } }

/-- Cipher pair slot `n` (R350). -/
def slot (s : State) (n : Nat) : PairSlot := Tab.get {} s.ree.slots n

/-- The state with pair slot `n` changed by `f`. -/
def modSlot (n : Nat) (f : PairSlot → PairSlot) (s : State) : State :=
  { s with ree := { s.ree with slots := Tab.put {} s.ree.slots n (f (slot s n)) } }

/-- The command numbered `id`, if it is in flight. -/
def cmd? (s : State) (id : Nat) : Option Cmd := s.eng.cmds.find? fun c => c.id == id

/-- The state with command `id` changed by `f`. -/
def modCmd (id : Nat) (f : Cmd → Cmd) (s : State) : State :=
  { s with eng := { s.eng with cmds := modFirst (fun c => c.id == id) f s.eng.cmds } }

/-- The arrival numbered `id`, if it is in the Barn. -/
def arrival? (s : State) (id : Nat) : Option Arrival := s.brn.arrivals.find? fun a => a.id == id

/-- The state with arrival `id` changed by `f`. -/
def modArrival (id : Nat) (f : Arrival → Arrival) (s : State) : State :=
  { s with brn := { s.brn with arrivals := modFirst (fun a => a.id == id) f s.brn.arrivals } }

/-- The unit numbered `id`. -/
def unit? (s : State) (id : Nat) : Option Xu := s.tx.units.find? fun u => u.id == id

/-- The state with unit `id` changed by `f`. -/
def modUnit (id : Nat) (f : Xu → Xu) (s : State) : State :=
  { s with tx := { s.tx with units := modFirst (fun u => u.id == id) f s.tx.units } }

/-- PAR_STATE.STATE (R337). -/
def parCode : ParState → Nat
  | .free => 0 | .active => 1 | .retiring => 2 | .clearing => 3

/-! ## The part's name and unit directory (R4, R446) -/

/-- The characters of a text, as bytes in order. -/
def ascii (t : String) : List Byte := t.toList.map fun c => BitVec.ofNat 8 c.toNat

/-- The part's name (R4): LC and its links, with the letters of its options. -/
def partName (p : Part) : List Byte :=
  ascii (if p.links = 96 then "LC96" else if p.links = 72 then "LC72" else "LC48")
  ++ (if p.m || p.c || p.s || p.t then ascii "-" else [])
  ++ (if p.m then ascii "M" else []) ++ (if p.c then ascii "C" else []) ++ (if p.s then ascii "S" else []) ++ (if p.t then ascii "T" else [])

/-- GBL_UNIT_DIR (R446). -/
def unitDir (p : Part) : Word :=
  place p.stepping.toNat 48 8 ||| place p.links 41 7 ||| place (p.links / 3) 35 6 ||| place 48 29 6 ||| place (if p.m then 8 else 0) 25 4
  ||| place (if p.c then p.links / 3 else 0) 19 6 ||| place (if p.s then p.links else 0) 12 7 ||| flag p.t 3 ||| flag p.s 2 ||| flag p.c 1 ||| flag p.m 0

/-! ## Memory (R42, R457) -/

/-- Local memory: the bytes visible at the memory ports. -/
abbrev Memory := List Host.Cell

/-- What a byte nothing has written reads as. DESIGN CHOICE: log entry 3. -/
def Memory.unlisted : Byte := 0

/-- The byte at address `a`. -/
def Memory.read (m : Memory) (a : Nat) : Byte := Tab.get Memory.unlisted m a

/-- Memory with `b` at address `a`. -/
def Memory.write (m : Memory) (a : Nat) (b : Byte) : Memory := Tab.put Memory.unlisted m a b

/-- Memory with each cell written in turn. -/
def Memory.writeAll (m : Memory) (cells : List (Nat × Byte)) : Memory := cells.foldl (fun m c => m.write c.1 c.2) m

/-- The canonical form of memory: addresses strictly rising, no entry equal to what an unlisted address reads as. -/
def Memory.wf (m : Memory) : Bool := Tab.wf Memory.unlisted m

/-- The cells of `bs` at `a`, `a + 1`, …. -/
def cellsAt : Nat → List Byte → List (Nat × Byte)
  | _, [] => []
  | a, b :: bs => (a, b) :: cellsAt (a + 1) bs

/-- The cells of bytes laid over pieces (address, length) in order. -/
def cellsOver : List (Nat × Nat) → List Byte → List (Nat × Byte)
  | [], _ => []
  | (a, n) :: ps, bs => cellsAt a (bs.take n) ++ cellsOver ps (bs.drop n)

/-- A byte as an outstanding earlier write of this controller leaves it, else as memory holds it. -/
def readOver (m : Memory) (ws : List WriteReq) (a : Nat) : Byte :=
  match ((ws.flatMap fun w => w.cells).filter fun c => c.1 == a).getLast? with
  | some c => c.2
  | none => m.read a

/-- The bytes that pieces gather, in order. -/
def gather (m : Memory) (ws : List WriteReq) (parts : List (Nat × Nat)) : List Byte :=
  parts.flatMap fun p => (List.range p.2).map fun i => readOver m ws (p.1 + i)

/-- Issue a read at the memory ports. -/
def issueRead (use : ReadFor) (parts : List (Nat × Nat)) (cls : BitVec 3) (agent : Option (BitVec 6) := none)
    (span : Option (BitVec 6 × Nat × Nat) := none) (s : State) : State :=
  { s with memp := { s.memp with
      reads := s.memp.reads ++ [{ id := s.memp.nextId, use := use, parts := parts, cls := cls, at_ := now s, agent := agent, span := span }]
      nextId := s.memp.nextId + 1 } }

/-- A write of `cells` touches a byte of the 8-B word at `pa`. -/
def touches (cells : List (Nat × Byte)) (pa : Nat) : Bool := cells.any fun c => decide (pa ≤ c.1) && decide (c.1 < pa + 8)

/-- The WAITs whose word a local write touches are due at once (R132). -/
def dueWaits (cells : List (Nat × Byte)) (t : Time) (ws : List Waiter) : List Waiter :=
  ws.map fun w => match w.pa with
    | some pa => if w.table && touches cells pa.toNat then { w with due := t } else w
    | none => w

/-- Issue a write at the memory ports. A write to local data wakes the WAITs it touches; `wake` says so (R132). -/
def issueWrite (use : WriteFor) (cells : List (Nat × Byte)) (cls : BitVec 3) (wake : Bool) (agent : Option (BitVec 6) := none)
    (span : Option (BitVec 6 × Nat × Nat) := none) (s : State) : State :=
  { s with
    memp := { s.memp with
      writes := s.memp.writes ++ [{ id := s.memp.nextId, use := use, cells := cells, cls := cls, at_ := now s, agent := agent, span := span }]
      nextId := s.memp.nextId + 1 }
    chn := if wake then { s.chn with waits := dueWaits cells s.alm.now s.chn.waits } else s.chn }

/-! ## Fault messages (R393, R394) -/

/-- The queue a source reports on: one per row of the table of R395 (R21). -/
def faultGroup (src : Nat) : Nat :=
  if src < 0xC0 then 0 else if src < 0x120 then 1 else if src < 0x180 then 2 else if src < 0x1A0 then 3
  else if src < 0x1D0 then 4 else if src < 0x1E0 then 5 else if src < 0x1E8 then 6 else if src < 0x1FC then src else 0x200

/-- The rank of a kind under the Reeve masks (R397): fatal 3, immediate 2, counted 1, else 0. -/
def kindRank (s : State) (k : Nat) : Nat :=
  if s.ree.fltFatal.getLsbD k then 3 else if s.ree.fltImm.getLsbD k then 2 else if s.ree.fltCount.getLsbD k then 1 else 0

/-- A later event merged into a pending message of the same source (R394). -/
def mergeMsg (s : State) (m e : FaultMsg) : FaultMsg :=
  let m := { m with rep := if m.rep = 127 then 127 else m.rep + 1, cmds := m.cmds ++ e.cmds, waits := m.waits ++ e.waits, forced := m.forced || e.forced }
  if decide (kindRank s m.kind.toNat < kindRank s e.kind.toNat) then
    { m with kind := e.kind, addr := e.addr, pv := e.pv, parish := e.parish }
  else m

/-- The messages with an event merged into the one its source holds pending; `n` messages of its group stand before them, of which 16 fill the queue
and later ones are held at their units (R394). -/
def mergeHeld (s : State) (e : FaultMsg) : Nat → List FaultMsg → Option (List FaultMsg)
  | _, [] => none
  | n, m :: rest =>
    let mine := faultGroup m.src.toNat == faultGroup e.src.toNat
    if mine && decide (16 ≤ n) && m.src == e.src then some (mergeMsg s m e :: rest)
    else (mergeHeld s e (if mine then n + 1 else n) rest).map (m :: ·)

/-- A unit reports an event: on its group's queue, or where 16 stand there, as the one message its source holds pending, into which later ones of the
source are merged (R394). -/
def raiseMsg (e : FaultMsg) (s : State) : State :=
  { s with flt := { s.flt with msgs := (mergeHeld s e 0 s.flt.msgs).getD (s.flt.msgs ++ [e]) } }

/-- Raise kind `k` at source `src` with ADDRESS `addr`; `cmds` the commands it fails, `q` the parish it concerns. -/
def raise (src k addr : Nat) (cmds : List Nat := []) (q : Option (BitVec 6) := none) (s : State) : State :=
  raiseMsg { src := BitVec.ofNat 10 src, kind := BitVec.ofNat 6 k, addr := BitVec.ofNat 52 addr, cmds := cmds,
             pv := q.isSome, parish := q.getD 0 } s

/-! ## Sources and kinds (R395, R396) -/

def srcLane (p l : Nat) : Nat := 2 * p + l
def srcLink (p : Nat) : Nat := 0x0C0 + p
def srcCipher (p : Nat) : Nat := 0x120 + p
def srcCroft (c : Nat) : Nat := 0x180 + c
def srcEngine (n : Nat) : Nat := 0x1A0 + n
def srcPort (n : Nat) : Nat := 0x1D0 + n
def srcStone (n : Nat) : Nat := 0x1E0 + n
def srcFront : Nat := 0x1E8
def srcTerrier : Nat := 0x1E9
def srcWindows : Nat := 0x1EA
def srcDap : Nat := 0x1EB
def srcTallies : Nat := 0x1EC
def srcBarn : Nat := 0x1ED
def srcAtomic : Nat := 0x1EE
def srcMapper : Nat := 0x1EF
def srcReduce : Nat := 0x1F0
def srcMill : Nat := 0x1F1
def srcSteward : Nat := 0x1F2
def srcReeve : Nat := 0x1F3
def srcAlmanac : Nat := 0x1F4
def srcPower : Nat := 0x1F5
def srcCap : Nat := 0x1F6
def srcCurfew : Nat := 0x1F7
def srcObs : Nat := 0x1F8
def srcCtrlp : Nat := 0x1F9
def srcBrake : Nat := 0x1FA
def srcCollector : Nat := 0x1FB
def srcPeer (d : Nat) : Nat := 0x200 + d

def kEccCorr : Nat := 0x01
def kEccUncorr : Nat := 0x02
def kPredict : Nat := 0x03
def kCsym : Nat := 0x04
def kLaneLock : Nat := 0x05
def kFlitUncorr : Nat := 0x06
def kLinkDown : Nat := 0x07
def kLinkProtocol : Nat := 0x08
def kRetimerLimit : Nat := 0x09
def kMiswired : Nat := 0x0A
def kPlaneDegraded : Nat := 0x0B
def kBarnOverrun : Nat := 0x0C
def kTallyMismatch : Nat := 0x0D
def kTallyEntry : Nat := 0x0E
def kSignalHold : Nat := 0x0F
def kAway : Nat := 0x10
def kUnmapped : Nat := 0x11
def kTableError : Nat := 0x12
def kTerTimeout : Nat := 0x13
def kInvalidateLate : Nat := 0x14
def kMillCheck : Nat := 0x15
def kMillPoolShape : Nat := 0x16
def kCodingUnsupported : Nat := 0x17
def kCodecStream : Nat := 0x18
def kOrderMismatch : Nat := 0x19
def kSealMismatch : Nat := 0x1A
def kSealNoKey : Nat := 0x1B
def kSealTag : Nat := 0x1C
def kSealReplay : Nat := 0x1D
def kSealAnswer : Nat := 0x1E
def kGmConflict : Nat := 0x1F
def kTimeStep : Nat := 0x20
def kCapMessage : Nat := 0x21
def kCapUnreachable : Nat := 0x22
def kCapHeartbeat : Nat := 0x23
def kCapOvershoot : Nat := 0x24
def kBrake : Nat := 0x25
def kThermWarn : Nat := 0x26
def kConfig : Nat := 0x27
def kAccess : Nat := 0x28
def kDapError : Nat := 0x29
def kMemport : Nat := 0x2A
def kClock : Nat := 0x2B
def kFirmware : Nat := 0x2C
def kSelftest : Nat := 0x2D
def kCollector : Nat := 0x2E

/-- The memory port that serves an address: MEMP_GRAIN interleaves 256 B × 2^grain; its reserved values count as 0 (R458). -/
def portOf (s : State) (pa : Nat) : Nat := (pa / (256 * 2 ^ (if s.part.grain.toNat ≤ 4 then s.part.grain.toNat else 0))) % 16

/-- The port that a read uses for an address: Reeve's image copy goes through port 0 (R458). -/
def readPort (s : State) (use : ReadFor) (pa : Nat) : Nat := if use == .image then 0 else portOf s pa

/-- MEMPORT at a port and an address (R412). -/
def raiseMemport (port pa : Nat) (cmds : List Nat := []) (q : Option (BitVec 6) := none) (s : State) : State :=
  raise (srcPort port) kMemport pa cmds q s

/-! ## Rings the controller writes (R89, R157, R403, R423, R471, R474) -/

/-- A ring's pointers. -/
def ringGet : RingId → State → Ring
  | .notify .operator, s => s.gbl.notify.ring
  | .notify (.parish q), s => (parish s q.toNat).notify.ring
  | .fault, s => s.flt.ring
  | .terrier, s => s.gbl.terRing
  | .steward, s => s.stw.ring
  | .trace q, s => (parish s q.toNat).trace

/-- The state with a ring's pointers replaced. -/
def ringSet (r : RingId) (x : Ring) (s : State) : State :=
  match r with
  | .notify .operator => { s with gbl := { s.gbl with notify := { s.gbl.notify with ring := x } } }
  | .notify (.parish q) => modParish q.toNat (fun p => { p with notify := { p.notify with ring := x } }) s
  | .fault => { s with flt := { s.flt with ring := x } }
  | .terrier => { s with gbl := { s.gbl with terRing := x } }
  | .steward => { s with stw := { s.stw with ring := x } }
  | .trace q => modParish q.toNat (fun p => { p with trace := x }) s

/-- A ring's BASE and CTL words. -/
def ringWords : RingId → State → Word × Word
  | .notify .operator, s => (s.gbl.notify.base, s.gbl.notify.ctl)
  | .notify (.parish q), s => ((parish s q.toNat).notify.base, (parish s q.toNat).notify.ctl)
  | .fault, s => (s.flt.base, s.flt.ctl)
  | .terrier, s => (s.gbl.terBase, s.gbl.terCtl)
  | .steward, s => (s.stw.logBase, s.stw.logCtl)
  | .trace q, s => ((parish s q.toNat).traceBase, (parish s q.toNat).traceCtl)

/-- LOG2 of a ring: bits [4:0] of its CTL word. -/
def ringLog2 (r : RingId) (s : State) : Nat := bits (ringWords r s).2 0 5

/-- EN of a ring: bit 5 of its CTL word. -/
def ringEn (r : RingId) (s : State) : Bool := bitAt (ringWords r s).2 5

/-- A ring's entry size in bytes: 8 for notifications, 32 for records. -/
def ringEntry : RingId → Nat
  | .notify _ => 8
  | _ => 32

/-- The class of a ring's writes (R28). -/
def ringCls : RingId → BitVec 3
  | .notify _ => 3
  | .terrier => 3
  | _ => 4

/-- The ring has room for one more entry. -/
def ringRoom (r : RingId) (s : State) : Bool :=
  let x := ringGet r s
  decide (dist32 x.next x.head < 2 ^ ringLog2 r s)

/-- PHASE of index `i` in a ring of 2^`log2` entries: the inverse of bit LOG2 of the index (R88). -/
def phaseBit (i : BitVec 32) (log2 : Nat) : Bool := !(i.getLsbD log2)

/-- Write an entry at the ring's next index. Records take PHASE in bit 63 of word 0 (R88). -/
def ringPut (r : RingId) (ws : List Word) (s : State) : State :=
  let x := ringGet r s
  let log2 := ringLog2 r s
  let ws := match r, ws with
    | .notify _, ws => ws
    | _, [] => []
    | _, w0 :: rest => (w0 ||| flag (phaseBit x.next log2) 63) :: rest
  let a := (ringWords r s).1.toNat / 4096 * 4096 + (x.next.toNat % 2 ^ log2) * ringEntry r
  ringSet r { x with next := x.next + 1 } (issueWrite (.ring r x.next) (cellsAt a (wordsBytes ws)) (ringCls r) false none none s)

/-- TAIL passes the entries acknowledged, in ring order (R471). -/
def advanceTail : Nat → Ring → Ring
  | 0, x => x
  | n + 1, x => if x.acked.contains x.tail then advanceTail n { x with tail := x.tail + 1, acked := x.acked.erase x.tail } else x

/-- The write of ring entry `ix` is acknowledged. -/
def ringAck (r : RingId) (ix : BitVec 32) (s : State) : State :=
  let x := ringGet r s
  let x := { x with acked := x.acked ++ [ix] }
  ringSet r (advanceTail x.acked.length x) s

/-! ## Notifications (R89-R91) -/

/-- An owner's notification interface. -/
def notifyOf : Owner → State → Notify
  | .operator, s => s.gbl.notify
  | .parish q, s => (parish s q.toNat).notify

/-- The state with an owner's notification interface changed by `f`. -/
def modNotify (o : Owner) (f : Notify → Notify) (s : State) : State :=
  match o with
  | .operator => { s with gbl := { s.gbl with notify := f s.gbl.notify } }
  | .parish q => modParish q.toNat (fun p => { p with notify := f p.notify }) s

/-- A notification entry (R89). -/
def notifyEntry (ix : BitVec 32) (code : BitVec 8) (kind : Nat) (ch : BitVec 21) : Word :=
  place ix.toNat 32 32 ||| place code.toNat 24 8 ||| place kind 21 3 ||| place ch.toNat 0 21

/-- Set an owner's NOTIFY_OVF: PAR_IRQ_STATUS.NOTIFY_OVF of a parish (R90), GBL_EVENT_STATUS bit 20 of the operator (R473). -/
def notifyOverflow (o : Owner) (s : State) : State :=
  match o with
  | .operator => { s with gbl := { s.gbl with eventStatus := setBit s.gbl.eventStatus 20 true } }
  | .parish q => modParish q.toNat (fun p => { p with ovf := true }) s

/-- Add a notification entry: discarded while the ring's EN is 0 (R471), dropped with NOTIFY_OVF when it is full (R90). -/
def notify (o : Owner) (e : Word) (s : State) : State :=
  if !ringEn (.notify o) s then s
  else if ringRoom (.notify o) s then ringPut (.notify o) [e] s
  else notifyOverflow o s

/-- Entries become pending when TAIL first passes HEAD, and are not when HEAD equals TAIL (R91). -/
def notifyPending (o : Owner) (s : State) : State :=
  modNotify o (fun n =>
    if n.ring.head = n.ring.tail then { n with since := none, holdDone := false }
    else if n.since.isNone then { n with since := some s.alm.now } else n) s

/-- Set a bit of GBL_EVENT_STATUS (R473). -/
def event (i : Nat) (s : State) : State := { s with gbl := { s.gbl with eventStatus := setBit s.gbl.eventStatus i true } }

/-- ALM_CMP_STATUS.FIRED of a comparator (R376, R391). -/
def markFired (n : Nat) (s : State) : State := { s with alm := { s.alm with fired := setBit s.alm.fired n true } }

/-- Comparator `n` (R376). -/
def cmpOf (s : State) (n : Nat) : Cmp := Tab.get {} s.alm.cmps n

/-- The state with comparator `n` changed. -/
def modCmp (n : Nat) (f : Cmp → Cmp) (s : State) : State := { s with alm := { s.alm with cmps := Tab.upd {} s.alm.cmps n f } }

/-- Comparator `n` is due. -/
def cmpDue (s : State) (n : Nat) : Bool := reached s (cmpOf s n).compare

/-- Comparator `n` is armed for a time. -/
def cmpAt (n : Nat) (t : Time) (s : State) : State := modCmp n (fun _ => { compare := t, en := true }) s

/-- Comparator `n` is armed for a time from now. -/
def cmpNext (n d : Nat) (s : State) : State := cmpAt n (later (now s) d) s

/-- Comparator `n` is armed no longer. -/
def cmpOff (n : Nat) (s : State) : State := modCmp n (fun c => { c with en := false }) s

/-- A vector-3 event that concerns link `p` sets the link's bit of GBL_LINK_EVENT_0 or _1 (R473). -/
def linkEvent (i p : Nat) (s : State) : State :=
  let s := event i s
  if p < 64 then { s with gbl := { s.gbl with linkEvent0 := setBit s.gbl.linkEvent0 p true } }
  else { s with gbl := { s.gbl with linkEvent1 := setBit s.gbl.linkEvent1 (p - 64) true } }

/-- The owner of a channel: the operator of channel 0, its parish of any other (R63). -/
def ownerOf (ch : BitVec 21) (q : BitVec 6) : Owner := if ch = 0 then .operator else .parish q

/-! ## Steward's log (R474) and Reeve's notes (R341) -/

/-- The next number after `n` in a 32-bit count that skips 0. -/
def bump32 (n : BitVec 32) : BitVec 32 := if n + 1 = 0 then 1 else n + 1

/-- Write a log entry with the next SEQ (R474). -/
def logPut (e : LogEntry) (s : State) : State :=
  let s := ringPut .steward [place e.code.toNat 48 8 ||| place s.stw.seq.toNat 0 32, e.arg0, e.arg1, e.time] s
  { s with stw := { s.stw with seq := bump32 s.stw.seq } }

/-- Held log entries are written as space frees (R474). -/
def logFlush : Nat → State → State
  | 0, s => s
  | n + 1, s =>
    match s.stw.held with
    | [] => s
    | e :: rest =>
      if ringEn .steward s && ringRoom .steward s then logFlush n (logPut e { s with stw := { s.stw with held := rest } }) else s

/-- Hold an entry, up to 64; a LOST entry that counts the drops goes ahead of the next entry that fits (R474). -/
def logHold (e : LogEntry) (st : Stw) : Stw :=
  if decide (64 ≤ (st.held.filter fun x => x.code != 0x7F).length) then { st with lost := st.lost + 1 }
  else if st.lost = 0 then { st with held := st.held ++ [e] }
  else { st with held := st.held ++ [{ code := 0x7F, arg0 := BitVec.ofNat 64 st.lost, arg1 := 0, time := e.time }, e], lost := 0 }

/-- Steward logs an entry (R474). -/
def logEntry (code : Nat) (a0 a1 : Word) (s : State) : State :=
  let s := { s with stw := logHold { code := BitVec.ofNat 8 code, arg0 := a0, arg1 := a1, time := s.alm.now } s.stw }
  logFlush s.stw.held.length s

/-- The number of pair slots in use (R340). -/
def pairsInUse (s : State) : Nat := (s.ree.slots.filter fun e => e.2.state != .free).length

/-- Reeve writes a note; when 64 are held the oldest is overwritten and NOTE_LOST is set (R340, R341). -/
def note (kind cause gen : Nat) (q : BitVec 6) (peer : BitVec 9) (tag : BitVec 16) (detail detail2 : Nat) (s : State) : State :=
  let w0 := place kind 56 8 ||| place cause 48 8 ||| place gen 40 8 ||| place q.toNat 32 6 ||| place peer.toNat 16 9
    ||| place s.ree.noteSeq.toNat 0 16
  let n : Note := { w0 := w0, w1 := place tag.toNat 48 16 ||| place detail 0 48, w2 := BitVec.ofNat 64 detail2, w3 := s.alm.now }
  let full := decide (64 ≤ s.ree.notes.length)
  { s with ree := { s.ree with
      notes := (if full then s.ree.notes.drop 1 else s.ree.notes) ++ [n]
      noteLost := s.ree.noteLost || full
      noteSeq := if s.ree.noteSeq + 1 = 0 then 1 else s.ree.noteSeq + 1 } }

end Sys2Proof.Machine
end

