-- ==== Sys2Proof/Machine/Operands.lean ====
section
/-! DEFINITION. Operand forms: command packets (R98-R108), channel descriptors (R65), shapes, spans and stripes (R105, R109, R124,
R153), transactions and their slots (R193, R196-R199, R243, R244). -/

namespace Sys2Proof.Machine

/-! ## Command packets -/

/-- Word i of a packet. -/
def pw (pkt : List Word) (i : Nat) : Word := pkt.getD i 0

def pkOp (pkt : List Word) : Nat := bits (pw pkt 0) 0 8
def pkSubop (pkt : List Word) : Nat := bits (pw pkt 0) 16 8
def pkFormat (pkt : List Word) : Nat := bits (pw pkt 0) 24 8
def pkLayer (pkt : List Word) : BitVec 16 := (pw pkt 0).extractLsb' 32 16
def pkExt (pkt : List Word) : Bool := bitAt (pw pkt 0) 15
def pkIrq (pkt : List Word) : Bool := bitAt (pw pkt 0) 14
def pkFlag0 (pkt : List Word) : Bool := bitAt (pw pkt 0) 8
def pkFlag1 (pkt : List Word) : Bool := bitAt (pw pkt 0) 9
/-- flags[5:0]. -/
def pkFlags (pkt : List Word) : Nat := bits (pw pkt 0) 8 6
/-- Ring entries the packet takes (R66). -/
def pkEntries (pkt : List Word) : Nat := if pkExt pkt then 2 else 1

/-- The opcodes with names of their own in this file. -/
def opPut : Nat := 0x01
def opGet : Nat := 0x02
def opCopy : Nat := 0x03
def opRput : Nat := 0x04
def opMput : Nat := 0x05
def opIput : Nat := 0x06
def opIget : Nat := 0x07
def opAmo : Nat := 0x08
def opAmof : Nat := 0x09
def opXform : Nat := 0x10

/-- The command uses an index list: IPUT, IGET, INDEXED RPUT (R121, R124, R125). -/
def pkIndexed (pkt : List Word) : Bool :=
  pkOp pkt == opIput || pkOp pkt == opIget || (pkOp pkt == opRput && pkFlag1 pkt)

/-- RPUT's operation, SUBOP[5:4]: 0 SUM, 1 MAX, 2 MIN, 3 WSUM (R118). -/
def pkReduce (pkt : List Word) : Nat := pkSubop pkt / 16 % 4

/-- The command carries weights: RPUT WSUM (R119). -/
def pkWsum (pkt : List Word) : Bool := pkOp pkt == opRput && pkReduce pkt == 3

/-- ORDERED RPUT (R120). -/
def pkOrdered (pkt : List Word) : Bool := pkOp pkt == opRput && pkFlag0 pkt

/-- TARGET.FABRIC_ID and WINDOW (R103). -/
def pkDev (pkt : List Word) : BitVec 9 := (pw pkt 2).extractLsb' 0 9
def pkWindow (pkt : List Word) : BitVec 20 := (pw pkt 2).extractLsb' 16 20
/-- REMOTE_OFFSET, RANK and COUNT (R104). -/
def pkOffset (pkt : List Word) : Nat := bits (pw pkt 3) 0 48
def pkRank (pkt : List Word) : Nat := bits (pw pkt 3) 48 4
def pkCount (pkt : List Word) : Nat := bits (pw pkt 3) 52 5
/-- The signal of a PUT, RPUT, IPUT or MPUT (R106). -/
def pkSigCtl (pkt : List Word) : Word := pw pkt 6
def pkSigValue (pkt : List Word) : Word := pw pkt 7
def pkSignalled (pkt : List Word) : Bool :=
  (pkOp pkt == opPut || pkOp pkt == opRput || pkOp pkt == opIput || pkOp pkt == opMput) && bits (pkSigCtl pkt) 60 4 != 0

/-- The shape words (R105). -/
structure Shape where
  rows : Nat
  rowBytes : Nat
  pstride : Nat
  lstride : Nat
  dim2 : Nat
  dim3 : Nat
  ls2 : Nat
  ps2 : Nat
  ls3 : Nat
  ps3 : Nat
  deriving DecidableEq, Repr

/-- The shape of a packet: the shape extension holds in a 128-B packet without an index list (R105, R107). -/
def shapeOf (pkt : List Word) : Shape :=
  let a := pw pkt 4
  let b := pw pkt 5
  let ext := pkExt pkt && !pkIndexed pkt
  { rows := bits a 32 32, rowBytes := bits a 0 32, pstride := bits b 32 32, lstride := bits b 0 32,
    dim2 := if ext then bits (pw pkt 8) 0 32 else 1, dim3 := if ext then bits (pw pkt 8) 32 32 else 1,
    ls2 := if ext then bits (pw pkt 9) 0 48 else 0, ps2 := if ext then bits (pw pkt 10) 0 48 else 0,
    ls3 := if ext then bits (pw pkt 11) 0 48 else 0, ps3 := if ext then bits (pw pkt 12) 0 48 else 0 }

/-- Bytes the shape moves. -/
def Shape.total (h : Shape) : Nat := h.rows * h.rowBytes * h.dim2 * h.dim3

/-- Bytes from the first to one past the last byte of the local side (R153); 0 for an empty shape. -/
def Shape.localExtent (h : Shape) : Nat :=
  if h.total = 0 then 0 else (h.dim3 - 1) * h.ls3 + (h.dim2 - 1) * h.ls2 + (h.rows - 1) * h.lstride + h.rowBytes

/-- The same on the peer side. -/
def Shape.peerExtent (h : Shape) : Nat :=
  if h.total = 0 then 0 else (h.dim3 - 1) * h.ps3 + (h.dim2 - 1) * h.ps2 + (h.rows - 1) * h.pstride + h.rowBytes

/-- Local and peer offset of row `r` of plane (d2, d3). -/
def Shape.localOff (h : Shape) (d3 d2 r : Nat) : Nat := d3 * h.ls3 + d2 * h.ls2 + r * h.lstride
def Shape.peerOff (h : Shape) (d3 d2 r : Nat) : Nat := d3 * h.ps3 + d2 * h.ps2 + r * h.pstride

/-- The payload a command is charged in its parish's deficit (R84): the bytes of a data command's shape, ROWS × K × 2 of an XFORM, 8 of any other. No
rule says what payload_bytes is. DESIGN CHOICE: log entry 170. -/
def payloadBytes (pkt : List Word) : Nat :=
  if decide (1 ≤ pkOp pkt) && decide (pkOp pkt ≤ 7) then (shapeOf pkt).total else if pkOp pkt = opXform then bits (pw pkt 4) 32 32 * bits (pw pkt 4) 16 16 * 2 else 8

/-! ## Stripes (R109, R124) -/

/-- One stripe as planned: its target device and peer offset, its rows there, its pieces (address, length) on the local side, its
row in an index list, and the source rows its pieces come from (R119). -/
structure Plan where
  dev : BitVec 9
  off : Nat
  rows : Nat
  rowBytes : Nat
  pstride : Nat
  pieces : List (Nat × Nat)
  row : Nat := 0
  src : List Nat := []
  deriving DecidableEq, Repr

/-- Source bytes of a stripe. -/
def Plan.bytes (p : Plan) : Nat := p.rows * p.rowBytes

/-- The largest piece of a row longer than 4,096 B: whole units of the format (R109). -/
def pieceMax (fmt : Nat) : Nat := let u := (fmtUnit fmt).getD 1; 4096 / u * u

/-- Rows a stripe takes, for rows of at most 4,096 B. -/
def rowsPer (h : Shape) : Nat := if h.rowBytes = 0 then 1 else 4096 / h.rowBytes

/-- The number of data stripes of a shape (R109). -/
def stripeCount (fmt : Nat) (h : Shape) : Nat :=
  if h.total = 0 then 0
  else if h.rowBytes ≤ 4096 then ceilDiv h.rows (rowsPer h) * h.dim2 * h.dim3
  else ceilDiv h.rowBytes (pieceMax fmt) * h.rows * h.dim2 * h.dim3

/-- Stripe `n` of a shape whose local side begins at `va` and peer side at `off` (R109). -/
def stripeAt (fmt : Nat) (h : Shape) (dev : BitVec 9) (va off n : Nat) : Plan :=
  if h.rowBytes ≤ 4096 then
    let k := rowsPer h
    let per := ceilDiv h.rows k
    let pl := n / per
    let d2 := pl % h.dim2
    let d3 := pl / h.dim2
    let r0 := n % per * k
    let rows := min k (h.rows - r0)
    { dev := dev, off := off + h.peerOff d3 d2 r0, rows := rows, rowBytes := h.rowBytes, pstride := h.pstride,
      pieces := (List.range rows).map fun i => (va + h.localOff d3 d2 (r0 + i), h.rowBytes)
      src := (List.range rows).map fun i => pl * h.rows + r0 + i }
  else
    let m := pieceMax fmt
    let per := ceilDiv h.rowBytes m
    let r := n / per
    let b := n % per * m
    let len := min m (h.rowBytes - b)
    let pl := r / h.rows
    let d2 := pl % h.dim2
    let d3 := pl / h.dim2
    { dev := dev, off := off + h.peerOff d3 d2 (r % h.rows) + b, rows := 1, rowBytes := len, pstride := 0,
      pieces := [(va + h.localOff d3 d2 (r % h.rows) + b, len)], src := [r] }

/-- The pieces of one long row of an index list, each a stripe of its own (R124). -/
def longRow (fmt : Nat) (dev : BitVec 9) (va off rowBytes src : Nat) : List Plan :=
  (List.range (ceilDiv rowBytes (pieceMax fmt))).map fun i =>
    let b := i * pieceMax fmt
    let len := min (pieceMax fmt) (rowBytes - b)
    { dev := dev, off := off + b, rows := 1, rowBytes := len, pstride := 0, pieces := [(va + b, len)], src := [src] }

/-- An index entry's fields (R123). -/
def ixSkip (e : Word) : Bool := bitAt e 63
def ixReserved (e : Word) : Bool := bits e 41 22 != 0
def ixDev (e : Word) : BitVec 9 := e.extractLsb' 32 9
def ixRow (e : Word) : Nat := bits e 0 32

/-- Row `i` for entry `e` joins the last stripe: same device, next ROW, room within 4,096 B (R124). -/
def ixJoins (h : Shape) (p : Plan) (e : Word) : Bool :=
  decide (h.rowBytes ≤ 4096) && p.dev == ixDev e && p.row + p.rows == ixRow e && decide ((p.rows + 1) * h.rowBytes ≤ 4096)

/-- The stripes of an index list, in reverse, with the number that keys the failing entry if one fails (R123, R124). `ok` says a
device may be named; `va` is the local base, `off` the window offset of row 0, `i` the next source row. -/
def ixPlans (fmt : Nat) (h : Shape) (va off : Nat) (ok : BitVec 9 → Bool) : Nat → List Word → List Plan → List Plan × Option Nat
  | _, [], acc => (acc, none)
  | i, e :: es, acc =>
    let joins := match acc with
      | p :: _ => ixJoins h p e
      | [] => false
    let bad := ixReserved e || (!ixSkip e && (!ok (ixDev e) || (h.rowBytes != 0 && decide (2 ^ 48 < off + ixRow e * h.pstride + h.rowBytes))))
    if bad then (acc, some (if joins && !ixSkip e then acc.length - 1 else acc.length))
    else if ixSkip e || h.rowBytes == 0 then ixPlans fmt h va off ok (i + 1) es acc
    else if h.rowBytes > 4096 then
      ixPlans fmt h va off ok (i + 1) es
        ((longRow fmt (ixDev e) (va + i * h.lstride) (off + ixRow e * h.pstride) h.rowBytes i).reverse ++ acc)
    else
      match acc, joins with
      | p :: ps, true =>
        ixPlans fmt h va off ok (i + 1) es ({ p with rows := p.rows + 1, pieces := p.pieces ++ [(va + i * h.lstride, h.rowBytes)], src := p.src ++ [i] } :: ps)
      | acc, _ =>
        ixPlans fmt h va off ok (i + 1) es
          ({ dev := ixDev e, off := off + ixRow e * h.pstride, rows := 1, rowBytes := h.rowBytes, pstride := h.pstride,
             pieces := [(va + i * h.lstride, h.rowBytes)], row := ixRow e, src := [i] } :: acc)

/-- The devices that the entries before a failing one name and that are not SKIP, in order of first appearance. -/
def ixDevs (es : List Word) : List (BitVec 9) :=
  (es.filter (fun e => !ixSkip e)).foldl (fun ds e => if ds.contains (ixDev e) then ds else ds ++ [ixDev e]) []

/-! ## Spans (R153) -/

/-- A span when it has bytes. -/
def spanOf (va : Word) (len : Nat) : List Span := if len = 0 then [] else [{ va := va.toNat, len := len }]

/-- Bytes per element of a FORMAT code without blocks. -/
def elemSize (fmt : Nat) : Nat := (fmtUnit fmt).getD 1

/-- Elements in `n` bytes of FORMAT. -/
def elemCount (fmt n : Nat) : Nat := n / elemSize fmt

/-- The largest ENCODE output of one stripe of `n` source bytes (R305); K and N are the matrix's for a dense rotation. -/
def encodeBound (prof : Word) (fmt n K N : Nat) : Nat :=
  let e := elemCount fmt n
  let e := if profRot prof = 2 && K != 0 then e / K * N else e
  if profMode prof = 2 then mxBlocks e * mxBlock (profElem prof)
  else if profMode prof = 1 then 32 * ceilDiv (8 + n) 32
  else e * elemSize fmt

/-- The ENCODE bound of a whole shape: every stripe of a row class has the same bytes but the last (R305). -/
def encodeTotal (prof : Word) (fmt : Nat) (h : Shape) (K N : Nat) : Nat :=
  if h.total = 0 then 0
  else if h.rowBytes ≤ 4096 then
    let k := rowsPer h
    let rest := h.rows % k
    (h.rows / k * encodeBound prof fmt (k * h.rowBytes) K N + (if rest = 0 then 0 else encodeBound prof fmt (rest * h.rowBytes) K N))
      * h.dim2 * h.dim3
  else
    let m := pieceMax fmt
    let rest := h.rowBytes % m
    (h.rowBytes / m * encodeBound prof fmt m K N + (if rest = 0 then 0 else encodeBound prof fmt rest K N)) * h.rows * h.dim2 * h.dim3

/-! ## Channel descriptors (R65) -/

/-- The reserved bits of descriptor words 0 to 5 are clear, and words 6 to 15 are zero (R65, R77). -/
def descReservedOk (ws : List Word) : Bool :=
  let w := fun i => ws.getD i 0
  !(outside (w 0) (maskAt 24 5 ||| maskAt 16 5 ||| maskAt 0 11)) && !(outside (w 1) (maskAt 0 52)) && !(outside (w 2) (maskAt 0 52))
  && !(outside (w 5) (maskAt 17 2 ||| maskAt 8 8 ||| maskAt 4 2 ||| maskAt 0 3)) && (ws.drop 6).all (· == 0)

/-- VALID (R65). -/
def descValid (ws : List Word) : Bool := bitAt (ws.getD 0 0) 0

/-- A channel as its descriptor words 0 to 5 give it (R65). -/
def descChan (ws : List Word) : Chan :=
  let w := fun i => ws.getD i 0
  { cached := true, ringLog2 := (w 0).extractLsb' 16 5, cplLog2 := (w 0).extractLsb' 24 5, irqOnError := bitAt (w 0) 10,
    parish := (w 0).extractLsb' 4 6, prio := (w 0).extractLsb' 1 3, ringBase := (w 1).extractLsb' 0 52, cplBase := (w 2).extractLsb' 0 52,
    head := (w 3).extractLsb' 32 32, tail := (w 3).extractLsb' 0 32, cplHead := (w 4).extractLsb' 32 32, cplTail := (w 4).extractLsb' 0 32,
    recNext := (w 4).extractLsb' 0 32, errMark := bitAt (w 5) 18, ovfQueued := bitAt (w 5) 17, parkReason := (w 5).extractLsb' 8 8,
    blockCause := 0, state := .parked, fetched := (w 3).extractLsb' 32 32 }

/-- The code of a channel state (R73). -/
def chCode : ChState → Nat
  | .disabled => 0
  | .parked => 1
  | .idle => 2
  | .running => 3
  | .blocked => 4
  | .parking => 5
  | .stopped => 6

/-- Descriptor words 3 to 5 as the controller writes them back (R65, R75). -/
def chanWords (c : Chan) : List Word :=
  [place c.head.toNat 32 32 ||| place c.tail.toNat 0 32, place c.cplHead.toNat 32 32 ||| place c.cplTail.toNat 0 32,
   flag c.errMark 18 ||| flag c.ovfQueued 17 ||| place c.parkReason.toNat 8 8 ||| place c.blockCause.toNat 4 2 ||| place (chCode c.state) 0 3]

/-! ## Transactions -/

/-- KIND codes (R197). -/
def kPutData : Nat := 0x01
def kRputSum : Nat := 0x02
def kRputMax : Nat := 0x03
def kRputMin : Nat := 0x04
def kRputWsum : Nat := 0x05
def kGetRequest : Nat := 0x06
def kGetResponse : Nat := 0x07
def kAmo : Nat := 0x08
def kAmof : Nat := 0x09
def kSignal : Nat := 0x0A
def kLoad : Nat := 0x0B
def kStore : Nat := 0x0C
def kLoadData : Nat := 0x0D
def kAmofResult : Nat := 0x0E
def kAck : Nat := 0x10
def kRefuse : Nat := 0x11
def kAmoDone : Nat := 0x12
def kSignalDone : Nat := 0x13
def kQuery : Nat := 0x14
def kQueryReply : Nat := 0x15
def kStoreDone : Nat := 0x16

/-- The kind is an answer or query: uncharged (R197, R233). -/
def txAnswer (t : Txn) : Bool := decide (0x10 ≤ t.kind.toNat)

/-- The kind carries a length in BYTES or a shape (R197). -/
def txSized (t : Txn) : Bool :=
  let k := t.kind.toNat
  decide (1 ≤ k) && decide (k ≤ 7) || k == kLoad || k == kStore || k == kLoadData

/-- The kind carries payload slots. -/
def txPayload (t : Txn) : Bool := txSized t && t.kind.toNat != kGetRequest && t.kind.toNat != kLoad

/-- Rows of a transaction at the target. -/
def txRows (t : Txn) : Nat := if t.shaped then t.rows.toNat + 1 else 1

/-- Bytes before coding (R197, R198). -/
def txBytes (t : Txn) : Nat :=
  if !txSized t then 0 else if t.shaped then (t.rows.toNat + 1) * (t.rowBytes.toNat + 1) else t.bytes.toNat + 1

/-- The runs (window offset, length) a transaction addresses. -/
def txRuns (t : Txn) : List (Nat × Nat) :=
  if t.kind.toNat = kAmo ∨ t.kind.toNat = kAmof then [] else
  if t.shaped then (List.range (t.rows.toNat + 1)).map fun r => (t.offset.toNat + r * t.peerStride.toNat, t.rowBytes.toNat + 1)
  else [(t.offset.toNat, t.bytes.toNat + 1)]

/-- Lines charged: ⌈LEN ÷ 2⌉ (R233). -/
def txLines (t : Txn) : Nat := ceilDiv t.len 2

/-- Slots a kind word announces before the payload of a coded transaction is known (R198). -/
def txAnnounced (t : Txn) : Nat :=
  let k := t.kind.toNat
  1 + (if t.arg then 1 else 0) + (if k = kAmo ∨ k = kAmof ∨ k = kSignal ∨ t.coded then 1 else 0)
  + (if k = kRputWsum then ceilDiv (txRows t) 8 else 0)
  + (if txPayload t then (if t.coded then 1 else ceilDiv (txBytes t) 32) else 0)

/-- Slots of a transaction as this device builds it, tag slot included when `sealed`. -/
def txSlotCount (t : Txn) (sealed : Bool) : Nat :=
  let k := t.kind.toNat
  1 + (if t.arg then 1 else 0) + (if k = kAmo ∨ k = kAmof ∨ k = kSignal ∨ t.coded then 1 else 0)
  + ceilDiv t.weights.length 8 + ceilDiv t.payload.length 32 + (if sealed then 1 else 0)

/-- Four words as one slot. -/
def slot4 (a b c d : Word) : BitVec 256 := d ++ c ++ b ++ a

/-- The routing word (R193, R243). -/
def routingWord (t : Txn) : Word :=
  flag t.gv 63 ||| place t.grant.toNat 31 32 ||| place t.len 21 9 ||| place t.cast.toNat 19 2 ||| place t.epoch.toNat 18 1
  ||| place t.src.toNat 9 9 ||| place t.dest.toNat 0 9

/-- The target word (R196). -/
def targetWord (t : Txn) : Word := place t.ptag.toNat 48 16 ||| place t.offset.toNat 0 48

/-- The kind word (R197). -/
def kindWord (t : Txn) : Word :=
  let rel := flag t.rv 16 ||| place t.releaseTag.toNat 0 16
  if txAnswer t then place t.kind.toNat 59 5 ||| place t.status.toNat 51 8 ||| rel
  else place t.kind.toNat 59 5 ||| place t.format.toNat 54 5 ||| flag t.arg 53 ||| flag t.coded 52 ||| flag t.signalled 51
    ||| flag t.shaped 50 ||| place t.window.toNat 30 20 ||| place t.bytes.toNat 18 12 ||| rel

/-- The stripe word (R244). A request carries STRIPE 0; its Txn holds the number of the stripe it asks for, which its answer carries: how the target comes
to know it no rule says. DESIGN CHOICE: log entry 120. -/
def stripeWord (t : Txn) : Word :=
  flag t.signal 57 ||| flag t.answer 56 ||| place (if t.kind.toNat = kGetRequest then 0 else t.stripe.toNat) 16 40 ||| place t.tag.toNat 0 16

/-- Word 1 of the header slot: target word, multicast mask, old value, or zero for an answer (R196). -/
def headerWord1 (t : Txn) : Word :=
  if t.cast ≠ 0 then t.mask
  else if t.kind.toNat = kAmofResult then t.oldValue
  else if txAnswer t then 0 else targetWord t

/-- The header slot (R196). -/
def headerSlot (t : Txn) : BitVec 256 := slot4 (routingWord t) (headerWord1 t) (kindWord t) (stripeWord t)

/-- The argument slot (R198). -/
def argSlot (t : Txn) : BitVec 256 :=
  slot4 (if t.cast ≠ 0 then targetWord t else 0)
    (place t.peerStride.toNat 32 32 ||| place t.rows.toNat 16 12 ||| place t.rowBytes.toNat 0 12)
    (place t.count.toNat 4 5 ||| place t.rank.toNat 0 4) 0

/-- The kind's own slot: operand, signal or coding (R198). -/
def ownSlot (t : Txn) : List (BitVec 256) :=
  let k := t.kind.toNat
  if k = kAmo ∨ k = kAmof then [slot4 t.operand t.compare (place t.subop.toNat 0 8) 0]
  else if k = kSignal then [slot4 t.sigCtl t.sigValue (place t.expected.toNat 0 40) 0]
  else if t.coded then [slot4 t.coding 0 0 0] else []

/-- Bytes as slots of 32, the last padded with zeros; `n` of them. -/
def bytesSlots : Nat → List Byte → List (BitVec 256)
  | 0, _ => []
  | n + 1, bs => BitVec.ofNat 256 (ofLE (bs.take 32)) :: bytesSlots n (bs.drop 32)

/-- The 32 bytes of a slot. -/
def slotBytes (x : BitVec 256) : List Byte := leBytes 32 x.toNat

/-- The tag slot (R354) or answer tag slot (R358). -/
def tagSlot (t : Txn) (g : SealTag) : BitVec 256 :=
  let last : Word := if txAnswer t then g.answered else place g.gen.toNat 0 8
  (last ++ g.ctr) ++ g.tag

/-- The slots of a transaction in order (R198). -/
def txSlots (t : Txn) : List (BitVec 256) :=
  [headerSlot t] ++ (if t.arg then [argSlot t] else []) ++ ownSlot t
  ++ bytesSlots (ceilDiv t.weights.length 8) (t.weights.flatMap fun w => leBytes 4 w.toNat)
  ++ bytesSlots (ceilDiv t.payload.length 32) t.payload
  ++ (match t.sealSlot with
    | none => []
    | some g => [tagSlot t g])

end Sys2Proof.Machine
end

