-- ==== Sys2Proof/Machine/Flags.lean ====
section
/-! DEFINITION. Status codes (R481), the decision between failures (R58, R129, R50) and the interrupt vectors (R91, R92, R340). -/

namespace Sys2Proof.Machine

/-! ## Status codes (R481) -/

def stOk : BitVec 8 := 0x00
def stOkPartial : BitVec 8 := 0x01
def stBadCommand : BitVec 8 := 0x02
def stUnitAbsent : BitVec 8 := 0x03
def stBusy : BitVec 8 := 0x04
def stFenced : BitVec 8 := 0x05
def stLinkDown : BitVec 8 := 0x06
def stTimeout : BitVec 8 := 0x07
def stUnknown : BitVec 8 := 0x08
def stNoWindow : BitVec 8 := 0x09
def stBounds : BitVec 8 := 0x0A
def stAccess : BitVec 8 := 0x0B
def stIntegrity : BitVec 8 := 0x0C
def stOverrun : BitVec 8 := 0x0D
def stData : BitVec 8 := 0x0E
def stCheck : BitVec 8 := 0x0F
def stAborted : BitVec 8 := 0x10
def stStopped : BitVec 8 := 0x11
def stHalted : BitVec 8 := 0x12

/-- A status that leaves ERR_MARK unset: OK or OK_PARTIAL (R78). -/
def stGood (st : BitVec 8) : Bool := st == stOk || st == stOkPartial

/-! ## The status of a command with failures (R129) -/

/-- The failure of the lowest-numbered stripe (R129 group 1). -/
def lowestFail : List (Nat × BitVec 8 × BitVec 9) → Option (Nat × BitVec 8 × BitVec 9)
  | [] => none
  | f :: fs => match lowestFail fs with
    | none => some f
    | some g => if g.1 < f.1 then some g else some f

/-- What a status of R57 or R58 comes to among several: an atomic or a signal of unknown fate tells software to read back (R62), so it
stands before the others; else the first. -/
def unknownFirst (l : List (BitVec 8)) : Option (BitVec 8) := if l.contains stUnknown then some stUnknown else l.head?

/-- The status of a command under R129: the lowest-numbered stripe's failure, then a status of R58, then a timeout, then OK. The
device concerned comes with it. -/
def decideStatus (c : Cmd) : BitVec 8 × BitVec 9 :=
  match lowestFail c.fails with
  | some (_, st, d) => (st, d)
  | none => match unknownFirst c.lost with
    | some st => (st, c.device)
    | none => match unknownFirst c.late with
      | some st => (st, c.device)
      | none => (stOk, 0)

/-- A member counts as delivered: all of its data acknowledged and its signal, if any, applied (R50). A signal is applied only once all of its
data is; without one, every stripe must have been presented. -/
def memberDone (c : Cmd) (t : Target) : Bool :=
  !t.stopped && !t.lost && !t.dropped
  && (t.sig == .applied || (t.sig == .none && !pkSignalled c.pkt && decide (stripeCount (pkFormat c.pkt) (shapeOf c.pkt) ≤ c.next)))

/-- The delivered-member bitmap in MEMBER_MASK positions (R50, R122). -/
def delivered (c : Cmd) : Word := (c.targets.filter (memberDone c)).foldl (fun m t => m ||| BitVec.ofNat 64 (2 ^ t.memberBit)) 0

/-- The status of an MPUT: a refusal or failure of group 1 of R129 first, a fence apart (R273); OK when every member is delivered,
OK_PARTIAL when some are; else that of a failure, FENCED when members were only fenced, LINK_DOWN when they were left out for want of a plane
(R50, R176). -/
def decideMput (c : Cmd) : BitVec 8 × BitVec 9 :=
  match lowestFail (c.fails.filter fun f => f.2.1 != stFenced) with
  | some (_, st, d) => (st, d)
  | none =>
    let n := (c.targets.filter (memberDone c)).length
    if n = c.targets.length then (stOk, 0)
    else if 0 < n then (stOkPartial, c.device)
    else match decideStatus c with
      | (st, d) => if st ≠ stOk then (st, d) else match c.targets.find? fun t => t.stopped with
        | some t => (stFenced, t.dev)
        | none => (stLinkDown, d)

/-! ## Interrupt vectors -/

/-- Entries have been pending for HOLDOFF µs, or NOTIFY_OVF is set, and MASK is 0 (R91, R471). -/
def notifyVector (n : Notify) (ovf : Bool) : Bool :=
  !(bitAt n.ctl 8) && ((n.since.isSome && (bits n.ctl 16 10 == 0 || n.holdDone)) || ovf)

/-- Parish vector q (R91, R477); isolation holds every vector deasserted while PWR_OK is low (R440). -/
def parishVector (s : State) (q : Nat) : Bool :=
  let p := parish s q
  s.pins.pwrOk && (notifyVector p.notify p.ovf || (p.soft && !(bitAt p.notify.ctl 8)))

/-- An unmasked bit of GBL_EVENT_STATUS in [lo, lo + len) is set (R473). -/
def eventVector (s : State) (lo len : Nat) : Bool := (s.gbl.eventStatus &&& ~~~s.gbl.eventMask) &&& maskAt lo len != 0

/-- A ring holds unread entries. -/
def unread (x : Ring) : Bool := x.head != x.tail

/-- Operator vector v (R92): 0 notifications, 1 faults (R400, R408), 2 Terrier records, 3 links, 4 power, 5 comparators (R377), 6 Curfew and
hangs, 7 Steward's log (R474): what of vector 7 the mailbox causes no rule says, and the model asserts it for the log ring alone. DESIGN CHOICE: log
entry 171. -/
def operatorVector (s : State) (v : Nat) : Bool :=
  if !s.pins.pwrOk then false
  else if v = 0 then notifyVector s.gbl.notify (bitAt s.gbl.eventStatus 20)
  else if v = 1 then s.flt.first || s.flt.ringLost || unread s.flt.ring || s.flt.safe
  else if v = 2 then unread s.gbl.terRing
  else if v = 3 then eventVector s 0 4
  else if v = 4 then eventVector s 8 5
  else if v = 5 then s.alm.fired &&& 0xFF00 != 0
  else if v = 6 then eventVector s 16 3
  else unread s.stw.ring

/-- The Reeve vector (R340). -/
def reeveVector (s : State) : Bool := s.pins.pwrOk && !s.ree.notes.isEmpty

end Sys2Proof.Machine
end

