-- ==== Sys2Proof/Machine/Terrier.lean ====
section
/-! DEFINITION. The Terrier (R148-R165): lookup, walks, fault records and the translation of a command's spans. -/

namespace Sys2Proof.Machine

/-! ## Lookup (R148, R151, R152) -/

/-- What a virtual address translates to: a range up to `upto`, a fault kind up to `upto`, or no cached answer. -/
inductive Found
  | resident (pa upto : Nat)
  | bad (kind : Nat) (upto : Nat)
  | miss
  deriving DecidableEq, Repr

/-- Fault kinds of R155. -/
def tAway : Nat := 1
def tUnmapped : Nat := 2
def tFragmented : Nat := 3
def tTableError : Nat := 4

/-- The end of the 2 MiB granule that holds `va`. -/
def granuleEnd (va : Nat) : Nat := (va / 2 ^ 21 + 1) * 2 ^ 21

/-- The cached range that holds `va`. -/
def cached? (s : State) (q : BitVec 6) (va : Nat) : Option CacheEnt :=
  s.ter.cache.find? fun e => e.parish == q && decide (e.va ≤ va) && decide (va < e.va + e.len)

/-- PAR_TER_CTL.MODE (R148). -/
def terMode (s : State) (q : BitVec 6) : Nat := (parish s q.toNat).terMode.toNat

/-- PAGES with bits [20:11] of ROOT set: every translation gives TABLE_ERROR (R148). -/
def badRoot (s : State) (q : BitVec 6) : Bool := terMode s q == 2 && bits (parish s q.toNat).terRoot 11 10 != 0

/-- A read is a walk of parish `q` through the granule of `va`, not stale. -/
def isWalk (q : BitVec 6) (va : Nat) (r : ReadReq) : Bool :=
  match r.use with
  | .walk q' va' _ _ stale _ => q' == q && decide (va' / 2 ^ 21 = va / 2 ^ 21) && !stale
  | _ => false

/-- Translate `va` of parish `q` from the range cache and MODE. No range reaches past the 2^57 bytes of the parish. A request whose walk is in
progress waits for that walk's answer: a write of MODE or ROOT affects only walks that start later (R148). -/
def lookup (s : State) (q : BitVec 6) (va : Nat) : Found :=
  if va ≥ 2 ^ 57 then .bad tUnmapped (granuleEnd va)
  else if (cached? s q va).isNone && s.memp.reads.any (isWalk q va) then .miss
  else if badRoot s q then .bad tTableError (granuleEnd va)
  else match cached? s q va with
    | some e =>
      match e.state with
      | .resident => .resident (e.pa + (va - e.va)) (min (e.va + e.len) (2 ^ 57))
      | .away => .bad tAway (min (e.va + e.len) (granuleEnd va))
      | .hole => .bad tUnmapped (min (e.va + e.len) (granuleEnd va))
      | .error => .bad tTableError (min (e.va + e.len) (granuleEnd va))
    | none =>
      if terMode s q = 0 then .bad tUnmapped (granuleEnd va)
      else if terMode s q = 2 ∧ va ≥ 2 ^ 48 then .bad tUnmapped (granuleEnd va)
      else .miss

/-- A hit makes its entry the most recently used (R152). -/
def touchCache (q : BitVec 6) (va : Nat) (s : State) : State :=
  match cached? s q va with
  | none => s
  | some e => { s with ter := { s.ter with cache := e :: s.ter.cache.erase e } }

/-- Install a range; the least recently used of 32,768 is replaced (R152). -/
def install (e : CacheEnt) (s : State) : State := { s with ter := { s.ter with cache := (e :: s.ter.cache).take 32768 } }

/-! ## Walks (R149, R151, R152) -/

/-- The walks in progress, by pool. -/
def walksIn (s : State) (ingress : Bool) : List (BitVec 6) :=
  s.memp.reads.filterMap fun r => match r.use with
    | .walk q _ _ ing _ _ => if ing == ingress then some q else none
    | _ => none

/-- A walker is free: 8 for ingress; 24 for engines, the front end and Mill staging, at most 12 of them for one parish (R152). -/
def walkerFree (s : State) (q : BitVec 6) (ingress : Bool) : Bool :=
  let ws := walksIn s ingress
  if ingress then decide (ws.length < 8) else decide (ws.length < 24) && decide ((ws.filter (· == q)).length < 12)

/-- The read of the first node, or of the page entry (R149, R151). -/
def walkRead (s : State) (q : BitVec 6) (va : Nat) : Nat × Nat :=
  let root := (parish s q.toNat).terRoot.toNat
  if terMode s q = 2 then (root + 8 * (va / 2 ^ 30 % 2 ^ 18), 8) else (root, 2048)

/-- A walk starts; it reads the table in the form MODE gives it now (R148). -/
def beginWalk (w : WalkReq) (s : State) : State :=
  issueRead (.walk w.parish w.va 1 w.ingress false (terMode s w.parish == 2)) [walkRead s w.parish w.va] (if w.ingress then 1 else 3) none none s

/-- A request for a walk: nothing where one through its granule is in progress or the cache answers by now; a walker where one is free; else
it waits (R152). -/
def offerWalk (s : State) (w : WalkReq) : State :=
  if s.memp.reads.any (isWalk w.parish w.va) || lookup s w.parish w.va != .miss then s
  else if walkerFree s w.parish w.ingress then beginWalk w s
  else { s with ter := { s.ter with walkq := s.ter.walkq ++ [w] } }

/-- Walkers that have come free go to the requests that wait, in arrival order; a request whose parish has its 12 walkers is passed over
(R152). -/
def pumpWalks (s : State) : State := s.ter.walkq.foldl offerWalk { s with ter := { s.ter with walkq := [] } }

/-- Two requests of one parish for one granule share a walk, waiting or running; one for ingress does not wait for the other walkers
(R152). -/
def sharesWait (w x : WalkReq) : Bool := x.parish == w.parish && decide (x.va / 2 ^ 21 = w.va / 2 ^ 21) && x.ingress == w.ingress

/-- Start a walk for `va`, or join the one through its granule, or wait for a walker (R152). -/
def startWalk (q : BitVec 6) (va : Nat) (ingress : Bool) (s : State) : State :=
  let w : WalkReq := { parish := q, va := va, ingress := ingress }
  if s.ter.walkq.any (sharesWait w) then s else offerWalk s w

/-- Slot k, word w of a node. -/
def nodeWord (ws : List Word) (k w : Nat) : Word := ws.getD (4 * k + w) 0

/-- The header and the reserved bits of the entries a node holds, and its keys strictly increasing (R149). -/
def nodeOk (ws : List Word) : Bool :=
  let h := nodeWord ws 0 0
  let n := bits h 8 6
  let leaf := bitAt h 0
  !(outside h (maskAt 8 6 ||| maskAt 0 1)) && nodeWord ws 0 1 == 0 && nodeWord ws 0 2 == 0 && nodeWord ws 0 3 == 0 && decide (1 ≤ n)
  && (List.range n).all (fun i =>
      let w := nodeWord ws (i + 1)
      !(outside (w 0) (maskAt 0 57))
      && (if leaf then
            bits (w 0) 0 12 == 0 && !(outside (w 1) (maskAt 0 57)) && bits (w 1) 0 12 == 0 && w 1 != 0
            && !(outside (w 2) (maskAt 0 52)) && bits (w 2) 0 12 == 0 && !(outside (w 3) (maskAt 0 2))
          else w 1 == 0 && w 3 == 0 && !(outside (w 2) (maskAt 11 41)))
      && (i == 0 || decide ((nodeWord ws i 0).toNat < (w 0).toNat)))

/-- The last entry whose key is at most `va`. -/
def nodeEntry (ws : List Word) (va : Nat) : Option Nat :=
  ((List.range (bits (nodeWord ws 0 0) 8 6)).filter fun i => decide ((nodeWord ws (i + 1) 0).toNat ≤ va)).getLast?

/-- What one node read of a walk gives. -/
inductive WalkStep
  | child (node : Nat)
  | range (va len pa : Nat) (st : RangeState)
  | bad (kind : Nat)
  deriving DecidableEq, Repr

/-- One step of the walk of R149 at depth `d`. -/
def walkNode (ws : List Word) (va d : Nat) : WalkStep :=
  if !nodeOk ws then .bad tTableError
  else match nodeEntry ws va with
    | none => .bad tUnmapped
    | some i =>
      let w := nodeWord ws (i + 1)
      if bitAt (nodeWord ws 0 0) 0 then
        let st := bits (w 3) 0 2
        if va ≥ (w 0).toNat + (w 1).toNat then .bad tUnmapped
        else if st = 0 then .bad tUnmapped
        else if st = 1 then .range (w 0).toNat (w 1).toNat (w 2).toNat .resident
        else if st = 2 ∧ (w 0).toNat % 2 ^ 21 = 0 ∧ (w 1).toNat % 2 ^ 21 = 0 then .range (w 0).toNat (w 1).toNat (w 2).toNat .away
        else .bad tTableError
      else if d ≥ 4 then .bad tTableError else .child (w 2).toNat

/-- The page entry of PAGES mode (R151). -/
def walkPage (w : Word) (va : Nat) : WalkStep :=
  if outside w (maskAt 30 22 ||| maskAt 0 1) then .bad tTableError
  else if bitAt w 0 then .range (va / 2 ^ 30 * 2 ^ 30) (2 ^ 30) (bits w 30 22 * 2 ^ 30) .resident
  else .bad tUnmapped

/-! ## Fault records (R155-R159) -/

/-- The words of a record without PHASE (R157). -/
def terWords (r : TerRec) : List Word :=
  [place r.kind.toNat 48 8 ||| place r.parish.toNat 42 6 ||| place r.waiters.length 32 10 ||| place r.seq.toNat 0 32,
   BitVec.ofNat 64 (r.granule * 2 ^ 21), BitVec.ofNat 64 r.firstVa, place r.layer.toNat 48 16 ||| place r.time.toNat 0 48]

/-- A record as it is now: an open one with the requesters that have joined it since (R157). One that has closed before its entry freed keeps the count of
its opening. DESIGN CHOICE: log entry 175. -/
def recNow (s : State) (r : TerRec) : TerRec := (s.ter.recs.find? fun x => x.seq == r.seq).getD r

/-- Records held on the block are written as entries free (R156). -/
def terFlush : Nat → State → State
  | 0, s => s
  | n + 1, s =>
    match s.ter.unwritten with
    | [] => s
    | r :: rest =>
      if ringEn .terrier s && ringRoom .terrier s then
        terFlush n (ringPut .terrier (terWords (recNow s r)) { s with ter := { s.ter with unwritten := rest } })
      else s

/-- A record is written to the Terrier fault ring, or held until an entry frees (R156). -/
def terWrite (r : TerRec) (s : State) : State :=
  let s := { s with ter := { s.ter with unwritten := s.ter.unwritten ++ [r] } }
  terFlush s.ter.unwritten.length s

/-- The next record number is taken. -/
def terSeq (s : State) : State := { s with ter := { s.ter with nextSeq := bump32 s.ter.nextSeq } }

/-- GBL_TER_FAULT_CTL.EN. -/
def terEn (s : State) : Bool := bitAt s.gbl.terCtl 5

/-- An open record has this fault's key (R155). -/
def sameKey (f : TerFault) (r : TerRec) : Bool :=
  r.parish == f.parish && decide (r.kind.toNat = f.kind) && decide (r.granule = f.firstVa / 2 ^ 21)

/-- A new record with one requester. -/
def newRec (f : TerFault) (w : List Requester) (s : State) : TerRec :=
  { seq := s.ter.nextSeq, parish := f.parish, kind := BitVec.ofNat 8 f.kind, granule := f.firstVa / 2 ^ 21, firstVa := f.firstVa,
    layer := f.layer, time := now s, waiters := w }

/-- A TABLE_ERROR that opens a record is counted by the fault collector (R396). -/
def countTable (f : TerFault) (s : State) : State := if f.kind = tTableError then raise srcTerrier kTableError f.firstVa [] (some f.parish) s else s

/-- Join the open record with the fault's key, or open one where fewer than 1,024 are open (R156). -/
def takeRecord (w : Requester) (s : State) (f : TerFault) : State :=
  if s.ter.recs.any (sameKey f) then
    { s with ter := { s.ter with recs := modFirst (sameKey f) (fun r => { r with waiters := r.waiters ++ [w] }) s.ter.recs } }
  else if s.ter.recs.length < 1024 then
    let r := newRec f [w] s
    terWrite r (terSeq (countTable f { s with ter := { s.ter with recs := s.ter.recs ++ [r] } }))
  else s

/-- The numbers of the open records a requester has joined. -/
def joined (s : State) (w : Requester) : List (BitVec 32) := (s.ter.recs.filter fun r => r.waiters.contains w).map fun r => r.seq

/-- A requester waits for a record (R156). -/
def waitsRecord (s : State) (w : Requester) : Bool := s.ter.noRec.any fun x => x.1 == w

/-- A requester's faults, in increasing address, join or open records; one for which none is left waits for a record (R156). -/
def openRecords (fs : List TerFault) (w : Requester) (s : State) : State :=
  let s := fs.foldl (takeRecord w) s
  match fs with
  | f :: _ => if (joined s w).isEmpty then { s with ter := { s.ter with noRec := s.ter.noRec ++ [(w, f)] } } else s
  | [] => s

/-- A requester that waits for a record takes one if it can (R156). -/
def seatOne (s : State) (x : Requester × TerFault) : State :=
  let s := takeRecord x.1 s x.2
  if (joined s x.1).isEmpty then { s with ter := { s.ter with noRec := s.ter.noRec ++ [x] } } else s

/-- Requesters that wait without a record are given one as records free, in order of arrival (R156). -/
def seatWaiting (s : State) : State := s.ter.noRec.foldl seatOne { s with ter := { s.ter with noRec := [] } }

/-- A requester leaves every record (R158). -/
def leaveRecords (w : Requester) (s : State) : State :=
  { s with ter := { s.ter with recs := s.ter.recs.map (fun r => { r with waiters := r.waiters.filter (· ≠ w) }),
                               noRec := s.ter.noRec.filter (fun x => x.1 ≠ w) } }

/-! ## Spans -/

/-- What translating spans from the cache has come to: every span translated; a walk needed at an address; or sixteen faults. -/
structure XlState where
  spans  : List Span
  ranges : List Range
  bads   : List (Nat × Nat)
  miss   : Option Nat
  deriving DecidableEq, Repr

/-- A piece of a span that one cached range translates is one range of the command. -/
def addRange (va len pa : Nat) (rs : List Range) : List Range := rs ++ [{ va := va, len := len, pa := pa }]

/-- The first faulting byte of a granule is kept, of up to 16 granules (R155, R156). -/
def addBad (va kind : Nat) (bs : List (Nat × Nat)) : List (Nat × Nat) :=
  if bs.any (fun b => b.1 / 2 ^ 21 == va / 2 ^ 21) then bs else bs ++ [(va, kind)]

/-- Translate spans from the cache, in order, until a walk is needed or 16 granules have faulted (R153, R154, R156). -/
def translate (s : State) (q : BitVec 6) : Nat → XlState → XlState
  | 0, x => x
  | n + 1, x =>
    if x.bads.length ≥ 16 then { x with spans := [], miss := none }
    else match x.spans with
    | [] => x
    | sp :: rest =>
      if sp.len = 0 then translate s q n { x with spans := rest }
      else match lookup s q sp.va with
        | .miss => { x with miss := some sp.va }
        | .resident pa upto =>
          let k := min sp.len (upto - sp.va)
          translate s q n { x with spans := { va := sp.va + k, len := sp.len - k } :: rest, ranges := addRange sp.va k pa x.ranges }
        | .bad kind upto =>
          let k := min sp.len (upto - sp.va)
          translate s q n { x with spans := { va := sp.va + k, len := sp.len - k } :: rest, bads := addBad sp.va kind x.bads }

/-- Put an item in its place by a key. -/
def insertBy {α : Type} (key : α → Nat) (x : α) : List α → List α
  | [] => [x]
  | y :: ys => if key x ≤ key y then x :: y :: ys else y :: insertBy key x ys

/-- A list in the order of a key. -/
def sortBy {α : Type} (key : α → Nat) (xs : List α) : List α := xs.foldr (insertBy key) []

/-- Steps enough for every cached range and sixteen faults in every span. -/
def xlFuel (s : State) (spans : List Span) : Nat := (s.ter.cache.length + 20) * (spans.length + 1)

/-- The physical pieces of `len` bytes at `va` under a command's ranges (R15). -/
def physOf (rs : List Range) : Nat → Nat → Nat → List (Nat × Nat)
  | 0, _, _ => []
  | n + 1, va, len =>
    if len = 0 then []
    else match rs.find? (fun r => decide (r.va ≤ va) && decide (va < r.va + r.len)) with
      | none => []
      | some r =>
        let k := min len (r.va + r.len - va)
        (r.pa + (va - r.va), k) :: physOf rs n (va + k) (len - k)

/-- The physical pieces of a list of virtual pieces. -/
def physAll (rs : List Range) (pieces : List (Nat × Nat)) : List (Nat × Nat) :=
  pieces.flatMap fun p => physOf rs (rs.length + 1) p.1 p.2

/-- A range overlaps [lo, hi). -/
def rangeOver (lo hi : Nat) (r : Range) : Bool := decide (r.va < hi) && decide (lo < r.va + r.len)

end Sys2Proof.Machine
end

