-- ==== Sys2Proof/Machine/Routes.lean ====
section
/-! DEFINITION. Reading the route, fence and pair-slot tables: route entries (R170), active masks (R171), fences (R182), pair slots
(R350), and the effective timeout (R57). -/

namespace Sys2Proof.Machine

/-! ## Route entries (R170) -/

/-- An entry's fields. -/
def reValid (e : BitVec 128) : Bool := e.getLsbD 127
def reMapEn (e : BitVec 128) : Bool := e.getLsbD 126
def reMapIndex (e : BitVec 128) : Nat := (e.extractLsb' 114 12).toNat
def reRack (e : BitVec 128) : Nat := (e.extractLsb' 111 3).toNat
def reSlot (e : BitVec 128) : Nat := (e.extractLsb' 105 6).toNat
def reLinks (e : BitVec 128) : Nat := (e.extractLsb' 97 7).toNat
def reMask (e : BitVec 128) : BitVec 96 := e.extractLsb' 0 96

/-- LEVEL: at system level two banks and the epoch bit are in use (R168). -/
def systemLevel (s : State) : Bool := bitAt s.route.ctl 0

/-- The bank in use: at rack level bank 0, at system level the one EPOCH names (R178, R179). -/
def activeBank (s : State) : Bool := systemLevel s && s.route.epoch

/-- A bank of the route table. -/
def bankOf (s : State) (b : Bool) : List (Nat × BitVec 128) := if b then s.route.bank1 else s.route.bank0

/-- The entry of destination `d` in the bank in use (R178, R179). -/
def routeEntry (s : State) (d : BitVec 9) : BitVec 128 := Tab.get 0 (bankOf s (activeBank s)) d.toNat

/-- `d` may be named as a destination: it has a valid entry or is the device itself (R111). -/
def destOk (s : State) (d : BitVec 9) : Bool := d == ownId s || reValid (routeEntry s d)

/-- The active plane mask of `d`: its PLANE_MASK, where its entry is valid (R172), the link-up mask, not the drain mask (R171), nor a link that drains to park (R227). -/
def activeMask (s : State) (d : BitVec 9) : BitVec 96 :=
  (if reValid (routeEntry s d) then reMask (routeEntry s d) else 0) &&& s.route.linkUp &&& ~~~(s.route.drain ||| s.route.parkDrain)

/-- Number of planes in the active mask of `d`: A of R174. -/
def planeCount (s : State) (d : BitVec 9) : Nat := (bitsSet (activeMask s d)).length

/-- The state with the route tables and masks `r`: a destination whose number of planes changes has its cursor at 0 again (R174). -/
def withRoute (r : Route) (s : State) : State :=
  let t := { s with route := r }
  let kept := r.cursors.filter fun c => decide (512 ≤ c.1) || planeCount t (BitVec.ofNat 9 c.1) == planeCount s (BitVec.ofNat 9 c.1)
  { t with route := { r with cursors := kept } }

/-- The epoch bit of packets: the active bank at system level, 0 at rack level (R178, R179). -/
def epochBit (s : State) : BitVec 1 := if activeBank s then 1 else 0

/-! ## Fences and seals -/

/-- Traffic between local parish `q` and remote `d` is blocked (R182). -/
def fenced (s : State) (q d : Nat) : Bool := (fence s d).device || memb (fence s d).parishes q

/-- Parish `q` is sealed. -/
def parSealed (s : State) (q : BitVec 6) : Bool := (parish s q.toNat).sealed

/-- The pair slots of (parish, peer), by number. -/
def slotsOf (s : State) (q : BitVec 6) (d : BitVec 9) : List (Nat × PairSlot) :=
  s.ree.slots.filter fun e => e.2.state != .free && e.2.parish == q && e.2.peer == d

/-- A slot seals new transactions: ACTIVE and neither counter at 2^63 (R351). -/
def slotSeals (p : PairSlot) : Bool := p.state == .active && decide (p.txCtr.toNat < 2 ^ 63) && decide (p.ansCtr.toNat < 2 ^ 63)

/-- The slot with which parish `q` seals towards `d`. -/
def sealSlot? (s : State) (q : BitVec 6) (d : BitVec 9) : Option (Nat × PairSlot) := (slotsOf s q d).find? fun e => slotSeals e.2

/-! ## The effective timeout (R57) -/

/-- The largest DOWN_TIME among the links with EN = 1, in µs (R469). -/
def downTime (s : State) : Nat := (s.lnk.links.filter fun e => e.2.en && hasLink s e.1).foldl (fun m e => max m e.2.downTime.toNat) 0

/-- The effective GBL_TXN_TIMEOUT in units: max(GBL_TXN_TIMEOUT, 2 × LNK_DOWN_TIME) (R57). -/
def effTimeout (s : State) : Nat := max (s.gbl.txnMs.toNat * msUnits) (2 * downTime s * usUnits)

/-- When a wait that begins now passes the effective timeout: a later change of it moves no wait that runs (R57, R469). -/
def waitEnd (s : State) : Time := later s.alm.now (effTimeout s)

end Sys2Proof.Machine
end

