-- ==== Sys2Proof/Machine/Admission.lean ====
section
/-! DEFINITION. The checks at admission: steps 1 to 6 of R114 for data commands, R483 for management commands. -/

namespace Sys2Proof.Machine

/-! ## Step 1: opcode, form, channel, reserved fields -/

/-- A parish management opcode that a chapter assigns (R93, R140, R278, R280, R315, R316, R424, R427). -/
def opParish (op : Nat) : Bool := [0x40, 0x41, 0x44, 0x45, 0x46, 0x47, 0x48, 0x49].contains op

/-- An operator management opcode that a chapter assigns: 0x80 to 0x97 but 0x8F. -/
def opOperator (op : Nat) : Bool := decide (0x80 ≤ op) && decide (op ≤ 0x97) && op != 0x8F

/-- A front-end opcode (R100). -/
def opFront (op : Nat) : Bool := op == 0x00 || op == 0x0C || op == 0x0D || op == 0x0E

/-- An opcode an engine executes (R100). -/
def opEngine (op : Nat) : Bool := (decide (1 ≤ op) && decide (op ≤ 9)) || op == opXform

/-- The opcode is assigned and allowed on the channel (R93, R100). -/
def opAllowed (chan0 : Bool) (op : Nat) : Bool :=
  if chan0 then opFront op || opOperator op else opFront op || opEngine op || opParish op

/-- The packet size is one the Forms column allows (R100). -/
def formOk (pkt : List Word) : Bool :=
  let op := pkOp pkt
  if op = opMput ∨ op = opIput ∨ op = opIget ∨ op = opXform then pkExt pkt
  else if op = opPut ∨ op = opGet ∨ op = opCopy then true
  else if op = opRput then pkExt pkt || !(pkFlag1 pkt || pkWsum pkt)
  else !pkExt pkt

/-- flags[5:0] an opcode may set (R99). -/
def flagMask (op : Nat) : Nat := if op = opRput then 3 else if op = 0x0D ∨ op = 0x0E then 1 else 0

/-- Bits of SUBOP an opcode gives a meaning. -/
def subopMask (op : Nat) : Nat :=
  if op = opPut ∨ op = opGet ∨ op = opIput ∨ op = opIget then 0x0F
  else if op = opCopy ∨ op = opMput then 0x1F
  else if op = opRput then 0x3F
  else if op = opAmo ∨ op = opAmof ∨ op = 0x0C then 0xFF
  else if op = opXform then 0x03
  else if op = 0x46 ∨ op = 0x48 ∨ op = 0x49 ∨ op = 0x87 ∨ op = 0x88 ∨ op = 0x89 ∨ op = 0x8A ∨ op = 0x8B ∨ op = 0x90 ∨ op = 0x91
    ∨ op = 0x93 ∨ op = 0x94 ∨ op = 0x95 ∨ op = 0x97 then 0x01
  else if op = 0x8C ∨ op = 0x8E then 0x03
  else if op = 0x96 then 0x0F
  else 0

/-- All bits of a word. -/
def allBits : Word := ~~~(0 : Word)

/-- The bits of the TARGET word (R103). -/
def targetMask : Word := maskAt 16 20 ||| maskAt 0 9

/-- The bits of words 1 to 7 an opcode gives a meaning (R107, R126, R131, R133, R134, and the management chapters). -/
def wordMasks (pkt : List Word) : List Word :=
  let op := pkOp pkt
  let off := maskAt 0 48 ||| (if pkOrdered pkt then maskAt 48 9 else 0)
  let sig := [maskAt 3 61, allBits]
  if op = opPut ∨ op = opRput ∨ op = opMput ∨ op = opIput then [allBits, targetMask, off, allBits, allBits] ++ sig
  else if op = opGet ∨ op = opIget then [allBits, targetMask, off, allBits, allBits, 0, 0]
  else if op = opCopy then [allBits, allBits, 0, allBits, allBits, 0, 0]
  else if op = opAmo then [0, targetMask, off, allBits, allBits, 0, 0]
  else if op = opAmof then [allBits, targetMask, off, allBits, allBits, 0, 0]
  else if op = 0x0C then [allBits, allBits, allBits, 0, 0, 0, 0]
  else if op = 0x0E then [maskAt 0 32, 0, 0, 0, 0, 0, 0]
  else if op = opXform then [allBits, allBits, allBits, allBits, allBits, maskAt 4 1 ||| maskAt 0 3, 0]
  else if op = 0x40 then [maskAt 0 57, maskAt 0 48, maskAt 0 4, allBits, 0, 0, 0]
  else if op = 0x41 then [maskAt 0 20, 0, 0, 0, 0, 0, 0]
  else if op = 0x44 then [maskAt 0 4, allBits, 0, 0, 0, 0, 0]
  else if op = 0x45 then [maskAt 0 2, allBits, 0, 0, 0, 0, 0]
  else if op = 0x46 then [maskAt 0 8, maskAt 0 57, maskAt 0 32, 0, 0, 0, 0]
  else if op = 0x47 then [maskAt 0 57, maskAt 0 57, 0, 0, 0, 0, 0]
  else if op = 0x48 then [maskAt 0 6, maskAt 0 57, maskAt 0 57, maskAt 63 1 ||| maskAt 32 20 ||| maskAt 8 4 ||| maskAt 0 3, 0, 0, 0]
  else if op = 0x49 then [maskAt 0 5, maskAt 0 21, maskAt 0 7, 0, 0, 0, 0]
  else if op = 0x80 then [maskAt 16 17 ||| maskAt 0 6, 0, 0, 0, 0, 0, 0]
  else if op = 0x81 then [maskAt 0 6, maskAt 40 8 ||| maskAt 32 3 ||| maskAt 16 11 ||| maskAt 0 11, maskAt 0 21, 0, 0, 0, 0]
  else if op = 0x82 then [maskAt 0 6, 0, 0, 0, 0, 0, 0]
  else if op = 0x84 then [maskAt 32 1 ||| maskAt 16 10 ||| maskAt 0 9, maskAt 0 52, 0, 0, 0, 0, 0]
  else if op = 0x86 then [maskAt 0 12, maskAt 0 52, 0, 0, 0, 0, 0]
  else if op = 0x87 then [maskAt 0 7, 0, 0, 0, 0, 0, 0]
  else if op = 0x88 ∨ op = 0x89 then [maskAt 0 9, allBits, 0, 0, 0, 0, 0]
  else if op = 0x8A then [maskAt 0 52, 0, 0, 0, 0, 0, 0]
  else if op = 0x8B then [maskAt 16 6 ||| maskAt 0 9, 0, 0, 0, 0, 0, 0]
  else if op = 0x8C then [maskAt 0 52, maskAt 0 16, 0, 0, 0, 0, 0]
  else if op = 0x8D ∨ op = 0x8E ∨ op = 0x94 then [allBits, 0, 0, 0, 0, 0, 0]
  else if op = 0x90 then [maskAt 0 57, maskAt 0 57, maskAt 0 6, 0, 0, 0, 0]
  else if op = 0x91 then [maskAt 0 32, 0, 0, 0, 0, 0, 0]
  else if op = 0x92 then
    [maskAt 12 40, maskAt 0 41, targetMask, maskAt 0 48, maskAt 16 12 ||| maskAt 10 6 ||| maskAt 8 1 ||| maskAt 0 2, 0, 0]
  else if op = 0x93 then
    [maskAt 0 6, maskAt 0 57, maskAt 0 57, maskAt 63 1 ||| maskAt 32 20 ||| maskAt 16 6 ||| maskAt 8 4 ||| maskAt 0 3, 0, 0, 0]
  else if op = 0x95 then [maskAt 0 52, maskAt 0 32, 0, 0, 0, 0, 0]
  else if op = 0x96 then [maskAt 0 6, 0, 0, 0, 0, 0, 0]
  else if op = 0x97 then [maskAt 0 32, 0, 0, 0, 0, 0, 0]
  else [0, 0, 0, 0, 0, 0, 0]

/-- The bits of words 8 to 15 of a 128-B packet (R105, R107, R119, R122). -/
def extMasks (pkt : List Word) : List Word :=
  let op := pkOp pkt
  let w13 : Word := if op = opMput ∨ pkWsum pkt then allBits else 0
  if op = opXform then [0, 0, 0, 0, 0, 0, 0, 0]
  else if pkIndexed pkt then [allBits, 0, 0, 0, 0, w13, 0, 0]
  else [allBits, maskAt 0 48, maskAt 0 48, maskAt 0 48, maskAt 0 48, w13, 0, 0]

/-- Every reserved field and flag is zero (R12, R107, R483). -/
def reservedOk (pkt : List Word) : Bool :=
  let op := pkOp pkt
  let ms := wordMasks pkt ++ (if pkExt pkt then extMasks pkt else [])
  decide (pkFlags pkt &&& flagMask op = pkFlags pkt)
  && decide (pkSubop pkt &&& subopMask op = pkSubop pkt)
  && (List.range ms.length).all (fun i => !(outside (pw pkt (i + 1)) (ms.getD i 0)))

/-- SIG_OP is one that R106 lists; without a signal both words are zero (R106). -/
def signalOk (pkt : List Word) : Bool :=
  let op := pkOp pkt
  if op = opPut ∨ op = opRput ∨ op = opMput ∨ op = opIput then
    decide (bits (pkSigCtl pkt) 60 4 ≤ 4) && (bits (pkSigCtl pkt) 60 4 != 0 || (pkSigCtl pkt == 0 && pkSigValue pkt == 0))
  else true

/-- FORMAT of a management opcode: 0x00, but BF16 or FP16 for MATRIX_SET (R316, R483). -/
def mgmtFormatOk (pkt : List Word) : Bool :=
  if pkOp pkt = 0x46 then pkFormat pkt == 1 || pkFormat pkt == 2 else pkFormat pkt == 0

/-- Step 1 of R114 and of R483. -/
def step1Ok (chan0 : Bool) (pkt : List Word) : Bool :=
  opAllowed chan0 (pkOp pkt) && formOk pkt && reservedOk pkt && signalOk pkt && (decide (pkOp pkt < 0x40) || mgmtFormatOk pkt)

/-! ## Step 2: units (R114, R483) -/

/-- The opcode or its flags need a unit the part lacks. -/
def unitAbsent (s : State) (pkt : List Word) : Bool :=
  let op := pkOp pkt
  (op == 0x0E && pkFlag0 pkt && !s.part.t) || (op == opXform && !s.part.m) || (op == 0x45 && !s.part.c)
  || ((op == 0x46 || op == 0x47) && !s.part.m) || (op == 0x49 && !s.part.t)

/-! ## Step 3: format, sub-operation, profile, alignment, limits -/

/-- The coding profile a command selects (R108): 0 for profile 0, none for one never written. -/
def profileOf (s : State) (q : BitVec 6) (pkt : List Word) : Option Word :=
  let n := pkSubop pkt % 16
  if n = 0 then some 0 else Tab.get none (parish s q.toNat).profiles n

/-- The registered matrix of a parish under a MATRIX_ID (R316). -/
def regOf (s : State) (q : BitVec 6) (ident : Nat) : Option Reg :=
  s.mil.regs.find? fun r => r.parish == q && decide (r.ident.toNat = ident)

/-- The checks of R102 and R281 on a coded profile: BYTES data takes none. -/
def profileFits (s : State) (q : BitVec 6) (pkt : List Word) (prof : Word) : Bool :=
  let f := pkFormat pkt
  let rb := (shapeOf pkt).rowBytes
  f != 0 && (profMode prof != 1 || [1, 2, 3, 6, 7, 8].contains f)
  && (profMode prof != 2 || [1, 2, 3].contains f)
  && (profRot prof != 1 || ((fmtUnit f).isSome && rb % (hadPoints (profHsize prof) * elemSize f) == 0))
  && (profRot prof != 2 || ((f == 1 || f == 2) && match regOf s q (profMatrix prof) with
      | none => false
      | some r => rb % (r.k.toNat * elemSize f) == 0))

/-- The sub-operation and FORMAT an opcode accepts (R101, R102, R118, R126, R131, R134). -/
def kindOk (pkt : List Word) : Bool :=
  let op := pkOp pkt
  let f := pkFormat pkt
  if op = opRput then
    (if pkReduce pkt = 3 then [1, 2, 3, 4, 5].contains f || fmtMx f else [1, 2, 3, 4, 5, 6].contains f || fmtMx f)
    && !(pkFlag0 pkt && pkFlag1 pkt)
  else if op = opAmo ∨ op = opAmof then f == 0 && decide (pkSubop pkt ≤ 0x15)
  else if op = 0x0C then f == 0 && decide (pkSubop pkt ≤ 5)
  else if op = 0x0D ∨ op = 0x0E ∨ op = 0x00 then f == 0
  else if op = opXform then [1, 2, 4, 5].contains f && decide (pkSubop pkt % 4 ≤ 2)
  else (fmtUnit f).isSome

/-- The profile rules of R108, R117, R281 and R305. -/
def profOk (s : State) (q : BitVec 6) (pkt : List Word) : Bool :=
  let op := pkOp pkt
  let h := shapeOf pkt
  if 1 ≤ op ∧ op ≤ 7 then
    match profileOf s q pkt with
    | none => false
    | some prof =>
      let coded := pkSubop pkt % 16 != 0
      (!coded || profileFits s q pkt prof)
      && (op != opCopy || (if coded then
            (if pkSubop pkt / 16 % 2 = 0 then h.pstride == 0 && h.ps2 == 0 && h.ps3 == 0 else h.lstride == 0 && h.ls2 == 0 && h.ls3 == 0)
          else pkSubop pkt / 16 % 2 == 0))
  else true

/-- Width in bytes of an atomic (R126). -/
def amoWidth (subop : Nat) : Nat :=
  if subop = 0x02 then 2 else if subop = 0x03 then 4 else if subop % 2 = 0 then 4 else 8

/-- The alignments of R102. -/
def alignOk (pkt : List Word) : Bool :=
  let op := pkOp pkt
  let u := elemSize (pkFormat pkt)
  let h := shapeOf pkt
  let al := fun (n k : Nat) => n % k == 0
  if 1 ≤ op ∧ op ≤ 7 then
    al h.rowBytes u && al h.pstride u && al h.lstride u && al h.ls2 u && al h.ps2 u && al h.ls3 u && al h.ps3 u
    && al (pw pkt 1).toNat u && (if op = opCopy then al (pw pkt 2).toNat u else al (pkOffset pkt) u)
    && (!pkIndexed pkt || al (pw pkt 8).toNat 8) && (!pkWsum pkt || al (pw pkt 13).toNat 4)
  else if op = opAmo ∨ op = opAmof then
    al (pkOffset pkt) (amoWidth (pkSubop pkt)) && (op == opAmo || al (pw pkt 1).toNat 8)
  else if op = 0x0C then al (pw pkt 1).toNat 8
  else if op = opXform then
    al (pw pkt 1).toNat u && al (pw pkt 2).toNat u && al (pw pkt 3).toNat u && al (bits (pw pkt 5) 0 32) u && al (bits (pw pkt 5) 32 32) u
  else true

/-- The depth and width of a gang (R134, R308). -/
def gangDims : Nat → Nat × Nat
  | 0 => (128, 128)
  | 1 => (128, 256)
  | 2 => (256, 128)
  | 3 => (256, 256)
  | 4 => (512, 256)
  | 5 => (32, 512)
  | 6 => (512, 32)
  | _ => (0, 0)

/-- MPUT's members (R122): device and bit of MEMBER_MASK. -/
def mputMembers (pkt : List Word) : List (BitVec 9 × Nat) :=
  let d := pkDev pkt
  (bitsSet (pw pkt 13)).map fun i =>
    if pkSubop pkt / 16 % 2 = 0 then ((d.extractLsb' 6 3) ++ (BitVec.ofNat 6 i), i) else ((BitVec.ofNat 3 i) ++ (d.extractLsb' 0 6), i)

/-- MPUT's own rules (R122, R270, R352). -/
def mputOk (s : State) (q : BitVec 6) (pkt : List Word) : Bool :=
  let d := pkDev pkt
  let row := pkSubop pkt / 16 % 2 = 0
  pw pkt 13 != 0 && !parSealed s q
  && (if row then d.extractLsb' 0 6 == 0 else d.extractLsb' 6 3 == 0 && !(outside (pw pkt 13) (maskAt 0 8)))
  && (systemLevel s || (row && d.extractLsb' 6 3 == (ownId s).extractLsb' 6 3))
  && (mputMembers pkt).all fun m => destOk s m.1

/-- The limits of R111, R126, R127, R134, R310. -/
def limitsOk (s : State) (q : BitVec 6) (pkt : List Word) : Bool :=
  let op := pkOp pkt
  let h := shapeOf pkt
  if 1 ≤ op ∧ op ≤ 7 then
    decide (h.total ≤ 2 ^ 40)
    && (op == opCopy || pkIndexed pkt || decide (pkOffset pkt + h.peerExtent ≤ 2 ^ 48))
    && (!pkExt pkt || pkIndexed pkt || (decide (1 ≤ h.dim2) && decide (1 ≤ h.dim3)))
    && (!pkOrdered pkt || (decide (1 ≤ pkCount pkt) && decide (pkCount pkt ≤ 16) && decide (pkRank pkt < pkCount pkt)))
    && (if op = opCopy then true
        else if pkIndexed pkt then pkDev pkt == 0
        else if op = opMput then mputOk s q pkt
        else destOk s (pkDev pkt))
  else if op = opAmo ∨ op = opAmof then
    let w := amoWidth (pkSubop pkt)
    destOk s (pkDev pkt) && decide (pkOffset pkt + w ≤ 2 ^ 48) && decide ((pw pkt 4).toNat < 2 ^ (8 * w))
    && (pkSubop pkt == 4 || pkSubop pkt == 5 || pw pkt 5 == 0)
  else if op = opXform then
    let g := bits (pw pkt 6) 0 3
    let k := bits (pw pkt 4) 16 16
    let n := bits (pw pkt 4) 0 16
    decide (g ≤ 6) && decide (1 ≤ bits (pw pkt 4) 32 32) && decide (1 ≤ k) && decide (k ≤ (gangDims g).1) && decide (1 ≤ n)
    && decide (n ≤ (gangDims g).2) && !(bitAt (pw pkt 6) 4 && decide (5 ≤ g))
  else true

/-- Steps 1 to 3 of R114 for a command of a parish channel or of channel 0; management opcodes make their further checks in their
own meanings (R483). -/
def early (s : State) (chan0 : Bool) (q : BitVec 6) (pkt : List Word) : Option (BitVec 8) :=
  if !step1Ok chan0 pkt then some stBadCommand
  else if unitAbsent s pkt then some stUnitAbsent
  else if pkOp pkt < 0x40 && !(kindOk pkt && profOk s q pkt && alignOk pkt && limitsOk s q pkt) then some stBadCommand
  else none

/-! ## Steps 4 to 6: destinations -/

/-- Steps 4 to 6 of R114 for one remote device. -/
def destCheck (s : State) (q : BitVec 6) (d : BitVec 9) : Option (BitVec 8) :=
  if d = ownId s then none
  else if fenced s q.toNat d.toNat then some stFenced
  else if parSealed s q && (sealSlot? s q d).isNone then some stIntegrity
  else if activeMask s d = 0 then some stLinkDown
  else none

/-- A remote member is on the wire: not fenced for the parish, its active mask not empty (R269). -/
def onWire (s : State) (q : BitVec 6) (d : BitVec 9) : Bool :=
  d != ownId s && !(fenced s q.toNat d.toNat) && activeMask s d != 0

/-- The planes common to devices. -/
def commonMask (s : State) (ds : List (BitVec 9)) : BitVec 96 := ds.foldl (fun m d => m &&& activeMask s d) (~~~(0 : BitVec 96))

/-- Steps 4 and 6 of R114 for an MPUT. -/
def mputCheck (s : State) (q : BitVec 6) (pkt : List Word) : Option (BitVec 8) :=
  let ms := (mputMembers pkt).map fun m => m.1
  if ms.contains (ownId s) then none
  else if ms.all (fun d => fenced s q.toNat d.toNat) then some stFenced
  else
    let live := ms.filter (onWire s q)
    if live.isEmpty || commonMask s live == 0 then some stLinkDown else none

/-- Steps 4 to 6 of R114 for a data command. -/
def destinations (s : State) (q : BitVec 6) (pkt : List Word) : Option (BitVec 8) :=
  let op := pkOp pkt
  if op = opMput then mputCheck s q pkt
  else if op = opCopy ∨ op = opXform ∨ pkIndexed pkt ∨ !(opEngine op) then none
  else destCheck s q (pkDev pkt)

/-! ## Step 7: the spans of a command (R153, R305) -/

/-- K and N of the matrix a profile names. -/
def profDims (s : State) (q : BitVec 6) (prof : Word) : Nat × Nat :=
  match regOf s q (profMatrix prof) with
  | some r => (r.k.toNat, r.n.toNat)
  | none => (0, 0)

/-- The spans of every _VA field of a command under the profile it was admitted with, in packet order, and of an egress rotation's
matrix (R153, R316). -/
def spansWith (s : State) (q : BitVec 6) (pkt : List Word) (prof : Word) : List Span :=
  let op := pkOp pkt
  let h := shapeOf pkt
  let (k, n) := profDims s q prof
  let mat := if 1 ≤ op ∧ op ≤ 7 ∧ op ≠ opGet ∧ op ≠ opIget ∧ profRot prof = 2 ∧ h.total ≠ 0 then match regOf s q (profMatrix prof) with
    | some r => [{ va := r.va, len := k * n * 2 }]
    | none => [] else []
  let enc := encodeTotal prof (pkFormat pkt) h k n
  (if op = opCopy then
     if pkSubop pkt % 16 = 0 then spanOf (pw pkt 1) h.localExtent ++ spanOf (pw pkt 2) h.peerExtent
     else if pkSubop pkt / 16 % 2 = 0 then spanOf (pw pkt 1) h.localExtent ++ spanOf (pw pkt 2) enc
     else spanOf (pw pkt 1) enc ++ spanOf (pw pkt 2) h.peerExtent
   else if 1 ≤ op ∧ op ≤ 7 then
     spanOf (pw pkt 1) h.localExtent ++ (if pkIndexed pkt then spanOf (pw pkt 8) (8 * h.rows) else [])
     ++ (if pkWsum pkt && h.total != 0 then spanOf (pw pkt 13) (4 * (h.rows * h.dim2 * h.dim3)) else [])
   else if op = opAmof then spanOf (pw pkt 1) 8
   else if op = opXform then
     let rows := bits (pw pkt 4) 32 32
     let K := bits (pw pkt 4) 16 16
     let N := bits (pw pkt 4) 0 16
     let es := elemSize (pkFormat pkt)
     let os := if pkSubop pkt % 4 = 0 then 4 else 2
     let inw := if bitAt (pw pkt 6) 4 then N else K
     let outw := if bitAt (pw pkt 6) 4 then K else N
     spanOf (pw pkt 1) ((rows - 1) * bits (pw pkt 5) 0 32 + inw * es) ++ spanOf (pw pkt 2) ((rows - 1) * bits (pw pkt 5) 32 32 + outw * os)
     ++ spanOf (pw pkt 3) (K * N * es)
   else []) ++ mat

end Sys2Proof.Machine
end

