-- ==== Sys2Proof/Machine/Coding.lean ====
section
/-! DEFINITION. Stripes under a coding profile (R277-R299), and the products of the Mill with their checks (R307, R318, R319). -/

namespace Sys2Proof.Machine

/-! ## Elements as values -/

/-- The values of elements of a FORMAT without blocks, widened exactly (R257). -/
def valuesOf (fmt : Nat) (bs : List Byte) : List Fp :=
  match fmtFp fmt with
  | some f => (elements (f.width / 8) bs).map (fpDecode f)
  | none => []

/-- The same with subnormals of FORMAT flushed to a zero of their sign (R294). -/
def flushedOf (fmt : Nat) (bs : List Byte) : List Fp :=
  match fmtFp fmt with
  | some f => (elements (f.width / 8) bs).map fun x => if fpSubnormal f x then .fin (x.testBit (f.width - 1)) 0 0 else fpDecode f x
  | none => []

/-- Values narrowed to FORMAT (R257). -/
def narrowed (fmt : Nat) (vs : List Fp) : List Byte :=
  match fmtFp fmt with
  | some f => elemBytes (f.width / 8) (vs.map (fpEncode f))
  | none => []

/-! ## The Mill's products (R307, R310) -/

/-- A matrix as rows of values. -/
abbrev Rows := List (List Fp)

/-- The rows of a K × N matrix stored row-major in FORMAT, as element codes. -/
def matrixCodes (fmt k n : Nat) (bs : List Byte) : List (List Nat) := chunks n k (elements (elemSize fmt) bs)

/-- The transpose of a matrix of `n` columns. -/
def transposed (n : Nat) (m : Rows) : Rows := (List.range n).map fun j => m.map fun r => r.getD j (.fin false 0 0)

/-- A sum of products in FP32: each product formed exactly or rounded once, one rounding after every addition, from +0 (R307). -/
def dot32 (xs ws : List Fp) : Fp := (xs.zip ws).foldl (fun a p => add32 a (mul32 p.1 p.2)) (.fin false 0 0)

/-- A NaN result is the positive canonical one (R307). -/
def millNan : Fp → Fp
  | .nan _ => .nan false
  | x => x

/-- One row through a matrix given by its columns: output j is Σ x · column j. -/
def millRow (cols : Rows) (x : List Fp) : List Fp := cols.map fun c => millNan (dot32 x c)

/-- The absolute value. -/
def fpAbs : Fp → Fp
  | .nan n => .nan n
  | .inf _ => .inf false
  | .fin _ m e => .fin false m e

/-- An FP32 sum in increasing index (R318, R319). -/
def sum32 (xs : List Fp) : Fp := xs.foldl add32 (.fin false 0 0)

/-- What the drain decides of one row and one column of stones (R319). -/
inductive RowCheck
  | pass | fail | unchecked
  deriving DecidableEq, Repr

/-- The check of R319: outputs `ys` against the checksums of the cell rows `rows`, which meet the operands `xs`; a path is `k` long. -/
def streamCheck (k : Nat) (xs : List Fp) (rows : Rows) (ys : List Fp) : RowCheck :=
  let c := dot32 xs (rows.map sum32)
  let m := dot32 (xs.map fpAbs) (rows.map fun r => sum32 (r.map fpAbs))
  let sum := sum32 ys
  if xs.all fpFinite && fpFinite m then
    let tau := fpMul (.fin false (2 * k + 2 * ys.length + 8) (-24)) m
    let d := fpAbs (fpAdd sum (fpNeg c))
    if fpFinite sum && fpFinite c && !(fpLess tau d) then .pass else .fail
  else .unchecked

/-- The check of the outputs `ys` of the columns `cols` for the input `x`: a cell row holds a row of the matrix. -/
def rowCheck (cols : Rows) (x ys : List Fp) : RowCheck := streamCheck x.length x (transposed x.length cols) ys

/-- The check in fold 32 × 512: a cell row holds one segment of 128 columns of a row of the matrix, and every segment meets the whole input
(R309, R318). -/
def foldCheck (cols : Rows) (x ys : List Fp) : RowCheck :=
  let segs := chunks 128 ((cols.length + 127) / 128) cols
  streamCheck x.length (segs.flatMap fun _ => x) (segs.flatMap (transposed x.length)) ys

/-- The outputs of a gang by column of stones: 128 to each, all of a fold's to its one stone (R308, R309, R319). -/
def stoneCols (gang : Nat) (cols : Rows) : List Rows := if 5 ≤ gang then [cols] else chunks 128 ((cols.length + 127) / 128) cols

/-- A row's results and the decision of each column of stones. -/
def millChecked (gang : Nat) (cols : Rows) (x : List Fp) : List Fp × List RowCheck :=
  (millRow cols x, if gang = 5 then [foldCheck cols x (millRow cols x)] else (stoneCols gang cols).map fun c => rowCheck c x (millRow c x))

/-! ## Encoding a stripe (R282-R296) -/

/-- Elements per Hadamard group and its transform over a stripe. -/
def hadAll (prof : Word) (inverse : Bool) (vs : List Fp) : List Fp :=
  let h := profHsize prof
  byGroups (hadPoints h) (if inverse then hadInverse h (profSeed prof) else hadForward h (profSeed prof)) vs

/-- The input values of a rotation, or of an MX encoding: flushed for MX (R294), exact otherwise. -/
def codingInput (prof : Word) (fmt : Nat) (bs : List Byte) : List Fp :=
  if profMode prof = 2 then flushedOf fmt bs else valuesOf fmt bs

/-- The coded payload of rotated or plain values: MX blocks, or elements in FORMAT (R279, R299). -/
def codeValues (prof : Word) (fmt : Nat) (vs : List Fp) : List Byte :=
  if profMode prof = 2 then mxStream (profElem prof) vs else narrowed fmt vs

/-- The payload of a mode-L stripe (R290). -/
def codeL (fmt : Nat) (tables : List Word) (bs : List Byte) : List Byte :=
  match lFmt fmt with
  | some f => lStream f tables (elements (f.width / 8) bs)
  | none => bs

/-- The coding word of R282: the profile with FORMAT in bits [4:0]. -/
def codingWord (prof : Word) (fmt : Nat) : Word := (prof &&& ~~~(maskAt 0 11)) ||| place fmt 0 5

/-- FORMAT of a coding word. -/
def codingFmt (w : Word) : Nat := bits w 0 5

/-- The profile part of a coding word. -/
def codingProf (w : Word) : Word := w &&& ~~~(maskAt 0 11)

/-- A Hadamard rotation of elements in a FORMAT that R257 does not convert. -/
def openRot (w : Word) : Bool := profRot w == 1 && (fmtFp (codingFmt w)).isNone

/-- The coded payload of a stripe under a profile without a dense rotation. -/
def codeStripe (prof : Word) (fmt : Nat) (tables : List Word) (bs : List Byte) : List Byte :=
  if profMode prof = 1 then codeL fmt tables bs
  else if openRot (codingWord prof fmt) then (List.range bs.length).map (Config.openRotation false (codingWord prof fmt) bs)
  else
    let vs := codingInput prof fmt bs
    codeValues prof fmt (if profRot prof = 1 then hadAll prof false vs else vs)

/-- The groups of K values that a dense rotation takes as rows (R297). -/
def denseRows (k : Nat) (vs : List Fp) : Rows := if k = 0 then [] else chunks k (vs.length / k) vs

/-- A stripe goes coded unless its coding slot and payload would take more slots than it does uncoded (R283). -/
def worthCoding (raw coded : List Byte) : Bool := decide (1 + ceilDiv coded.length 32 ≤ ceilDiv raw.length 32)

/-! ## Decoding a stripe (R284, R285, R295) -/

/-- A coding word that carries a reserved code, or codes BYTES (R102, R284). -/
def codingReserved (w : Word) : Bool :=
  !(profileOk (codingProf w)) || bits w 5 6 != 0 || codingFmt w == 0
  || (profMode w == 1 && !([1, 2, 3, 6, 7, 8].contains (codingFmt w)))
  || (profMode w == 2 && !([1, 2, 3].contains (codingFmt w)))
  || (profRot w == 1 && (fmtUnit (codingFmt w)).isNone)
  || (profRot w == 2 && !([1, 2].contains (codingFmt w)))

/-- A payload is `len` bytes and zeros up to its slot boundary: fewer bytes end inside a field, and a whole further slot holds elements that the header
slot does not give (R285). -/
def fillsSlots (len : Nat) (payload : List Byte) : Bool :=
  decide (len ≤ payload.length) && decide (payload.length < len + 32) && (payload.drop len).all (· == 0)

/-- The values a coded payload of `n` elements on the wire carries, before any rotation is undone; none where R285 rejects it. -/
def wireValues (w : Word) (n : Nat) (payload : List Byte) : Option (List Fp) :=
  let mx := profMode w == 2
  let len := if mx then mxBlocks n * mxBlock (profElem w) else n * elemSize (codingFmt w)
  if !(fillsSlots len payload) then none
  else if mx then mxUnstream (profElem w) n (payload.take len) else some (valuesOf (codingFmt w) (payload.take len))

/-- Elements in a group of the coding word's rotation: the stripe's element count is a whole number of groups, or the stream decodes to another
count (R285, R297, R299). -/
def groupOf (w : Word) (k : Nat) : Nat := if profRot w = 2 then k else if profRot w = 1 then hadPoints (profHsize w) else 1

/-- The FORMAT bytes of a mode-L payload of `n` elements (R285, R290). -/
def wireL (w : Word) (n : Nat) (payload : List Byte) : Option (List Byte) :=
  match lFmt (codingFmt w) with
  | none => none
  | some f => match lUnstream f n payload with
    | none => none
    | some xs => some (elemBytes (f.width / 8) xs)

/-- A decoded stripe: FORMAT bytes (uncoded or mode L), FP32 values with rotations undone, or rows that wait for the Mill. -/
inductive Decoded
  | bytes (bs : List Byte)
  | values (vs : List Fp)
  | rotated (rows : Rows)
  | bad
  deriving DecidableEq, Repr

/-- Decode a payload of `n` bytes before coding; `k` and `m` are the depth and width of the registered matrix. -/
def decodeStripe (coded : Bool) (w : Word) (n k m : Nat) (payload : List Byte) : Decoded :=
  if !coded then .bytes (payload.take n)
  else
    let e := elemCount (codingFmt w) n
    if n % elemSize (codingFmt w) ≠ 0 ∨ (!(openRot w) && e % groupOf w k != 0) then .bad
    else if profMode w = 1 then match wireL w e payload with
      | some bs => .bytes bs
      | none => .bad
    else if profRot w = 2 then
      match (if k = 0 then none else wireValues w (e / k * m) payload) with
      | some vs => .rotated (denseRows m vs)
      | none => .bad
    else match wireValues w e payload with
      | some vs =>
        if openRot w then .bytes ((List.range n).map (Config.openRotation true w payload))
        else .values (if profRot w = 1 then hadAll w true vs else vs)
      | none => .bad

/-- An ingress inverse takes its inputs in FORMAT when MODE is 0 and in BF16 otherwise (R323). -/
def inverseInput (w : Word) (v : Fp) : Fp := if profMode w = 0 then v else fpDecode bf16 (fpEncode bf16 v)

/-- The FORMAT bytes that decoded values stand for. -/
def decodedBytes (w : Word) : Decoded → List Byte
  | .bytes bs => bs
  | .values vs => narrowed (codingFmt w) vs
  | _ => []

end Sys2Proof.Machine
end

