-- ==== Sys2Proof/Machine/Egress.lean ====
section
/-! DEFINITION. Traffic leaving the device: grants and tallies (R234-R246), placement on planes (R173-R176), sealing (R354), link
queues, uncharged answers (R176, R484). -/

namespace Sys2Proof.Machine

/-! ## The target's grants (R234, R237, R239) -/

/-- EXPOSURE of a tally: ISSUED − FREED below 2^31, else 0 (R234). -/
def exposure (t : TgtTally) : Nat := let d := dist32 t.issued t.freed; if d < 2 ^ 31 then d else 0

/-- The sum of EXPOSURE over all sources (R237). -/
def exposureSum (s : State) : Nat := (s.tal.tgt.map fun e => exposure e.2).foldl (· + ·) 0

/-- Lines of the Barn (R232). -/
def barnLines : Nat := 524288

/-- The plan entry of source `d` (R240). -/
def planOf (s : State) (d : Nat) : Word := Tab.get 0 s.tal.plan d
def planPlanned (w : Word) : Bool := bitAt w 63
def planGrant (w : Word) : Nat := bits w 0 20
def planPreload (w : Word) : Nat := bits w 32 20

/-- Valid route entries without a planned grant, the device's own index apart (R239). -/
def unplanned (s : State) : Nat :=
  ((bankOf s (activeBank s)).filter fun e => reValid e.2 && e.1 != (ownId s).toNat && !planPlanned (planOf s e.1)).length

/-- Σ planned GRANT (R239). -/
def plannedSum (s : State) : Nat := (s.tal.plan.map fun e => if planPlanned e.2 then planGrant e.2 else 0).foldl (· + ·) 0

/-- The default grant (R239). -/
def defaultGrant (s : State) : Nat := let u := unplanned s; if u = 0 then 0 else (barnLines - plannedSum s) / u

/-- G(s), the current grant to source `d`: planned, default, or 0 without a valid route entry (R234, R239, R240). -/
def grantOf (s : State) (d : Nat) : Nat :=
  if !(reValid (routeEntry s (BitVec.ofNat 9 d))) || d == (ownId s).toNat then 0
  else if planPlanned (planOf s d) then planGrant (planOf s d) else defaultGrant s

/-- The rule of R237 for one source: ISSUED moves towards FREED + G as far as the Barn has room; the next turn is then that of the source after
it. -/
def issueGrant (d : Nat) (s : State) : State :=
  let t := tgtTally s d
  let want := t.freed + BitVec.ofNat 32 (grantOf s d)
  let ahead := dist32 want t.issued
  if 1 ≤ ahead ∧ ahead ≤ 2 ^ 31 - 1 then
    let room := barnLines - exposureSum s
    let k := min ahead room
    if k = 0 then s
    else
      let s := modTgtTally d (fun t => { t with issued := t.issued + BitVec.ofNat 32 k, unsentAt := if t.unsentAt.isNone then some s.alm.now else t.unsentAt }) s
      { s with tal := { s.tal with rrNext := (d + 1) % 512 } }
  else s

/-- The numbers of a table's entries, from `k` on and round again. -/
def fromOn {α : Type} (k : Nat) (t : List (Nat × α)) : List Nat :=
  let ks := t.map fun e => e.1
  (ks.filter fun d => decide (k ≤ d)) ++ ks.filter fun d => decide (d < k)

/-- The rule of R237 for every source, in round robin by fabric ID from `rrNext`, which follows the source last served (R237). -/
def issueAll (s : State) : State := (fromOn s.tal.rrNext (bankOf s (activeBank s))).foldl (fun s d => issueGrant d s) s

/-- Credit of the source towards `d` (R235). -/
def credit (s : State) (d : Nat) : Nat := dist32 (srcTally s d).seen (srcTally s d).sent

/-- The current ISSUED for `d` leaves in a header or entry: nothing is unsent any more (R246). -/
def grantSent (d : Nat) (s : State) : State := modTgtTally d (fun t => { t with lastSent := t.issued, unsentAt := none }) s

/-! ## Planes in flight (R173) -/

/-- Lines in flight towards `d` on plane `p`: of charged units that `d` has not answered, their commands ended or not. -/
def inFlight (s : State) (d : BitVec 9) (p : Nat) : Nat :=
  (((s.tx.units ++ s.tx.ghosts).filter fun u => u.charged && u.plane == p && u.owed.contains d).map fun u => u.lines).foldl (· + ·) 0

/-- R173 lets `l` more lines towards `d` on plane `p`: at most 65 in all, or a larger stripe alone; planes under calibration count
as forbidden (R452). -/
def planeRoom (s : State) (d : BitVec 9) (p l : Nat) : Bool :=
  !(memb s.route.calPause p) && (decide (inFlight s d p + l ≤ 65) || (decide (65 < l) && inFlight s d p == 0))

/-! ## Placement (R174-R176) -/

/-- C of R174 for a destination's link count. -/
def windowC (links : Nat) : Nat := if links = 0 then 1 else barnLines / (65 * links)

/-- W of R174: positions of the source's window among `a` planes, towards destinations of which the largest has `links` links. -/
def windowW (s : State) (links a : Nat) : Nat := if systemLevel s then max 1 (min a (windowC links * a / 512)) else a

/-- The most links that a destination of a transaction has. -/
def mostLinks (s : State) (ds : List (BitVec 9)) : Nat := ds.foldl (fun m d => max m (reLinks (routeEntry s d))) 0

/-- The number of a transaction's cursor: its destination's, or the one that transactions to several members share. DESIGN CHOICE: see log
entry 136. -/
def cursorKey : List (BitVec 9) → Nat
  | [d] => d.toNat
  | _ => 512

/-- A cursor; it restarts at 0 when the number of planes it was set for changes (R174). -/
def cursorOf (s : State) (key a : Nat) : Nat := let c := Tab.get (0, 0) s.route.cursors key; if c.2 = a then c.1 else 0

/-- The stripe map that places a transaction: one to a single destination whose valid entry has MAP_EN = 1; an MPUT, `multi`, has none (R175, R176). -/
def mapFor (s : State) (multi : Bool) (ds : List (BitVec 9)) : Option (List Byte) :=
  match multi, ds with
  | false, [d] => let e := routeEntry s d; if reValid e && reMapEn e then some (Tab.get [] s.route.maps (reMapIndex e)) else none
  | _, _ => none

/-- The cursor of a transaction. -/
def cursorFor (multi : Bool) (ds : List (BitVec 9)) : Nat := if multi then cursorKey [] else cursorKey ds

/-- The planes of the positions of the default rotation, from cursor `j` on (R174). -/
def rotationFrom (s : State) (j : Nat) (ds : List (BitVec 9)) (mask : BitVec 96) : List Nat :=
  let planes := bitsSet mask
  let a := planes.length
  let w := windowW s (mostLinks s ds) a
  let base := if a = 0 then 0 else (ownId s).toNat * w % a
  (List.range w).map fun i => planes.getD ((base + (j + i) % w) % a) 127

/-- The default rotation towards destinations, from its current position on (R174, R246). -/
def rotation (s : State) (ds : List (BitVec 9)) (mask : BitVec 96) : List Nat :=
  rotationFrom s (cursorOf s (cursorKey ds) (bitsSet mask).length) ds mask

/-- Positions of a transaction's placement: LEN of its map, or W (R174, R175). -/
def positions (s : State) (multi : Bool) (ds : List (BitVec 9)) (mask : BitVec 96) : Nat :=
  match mapFor s multi ds with
  | some m => (m.headD 0).toNat
  | none => windowW s (mostLinks s ds) (bitsSet mask).length

/-- The planes of the positions, from the cursor on, in the order placement tries them: stripe map or default rotation (R174, R175). -/
def placing (s : State) (multi : Bool) (ds : List (BitVec 9)) (mask : BitVec 96) : List Nat :=
  let w := positions s multi ds mask
  let j := cursorOf s (cursorFor multi ds) (bitsSet mask).length
  match mapFor s multi ds with
  | some m => (List.range w).map fun i => (m.getD (1 + (j + i) % w) 0).toNat % 128
  | none => rotationFrom s j ds mask

/-- The plane a stripe of `l` lines takes towards its destinations, or none when it waits (R173, R174). -/
def choosePlane (s : State) (multi : Bool) (ds : List (BitVec 9)) (mask : BitVec 96) (l : Nat) : Option Nat :=
  (placing s multi ds mask).find? fun p => memb mask p && ds.all fun x => planeRoom s x p l

/-- After a placement the cursor is one further: j := (j + 1) mod W (R174). -/
def advanceCursor (s : State) (multi : Bool) (ds : List (BitVec 9)) (mask : BitVec 96) : State :=
  let a := (bitsSet mask).length
  let w := positions s multi ds mask
  let j := if w = 0 then 0 else (cursorOf s (cursorFor multi ds) a + 1) % w
  { s with route := { s.route with cursors := Tab.put (0, 0) s.route.cursors (cursorFor multi ds) (j, a) } }

/-- The plane the direct access port pins for an aperture: position base + (aperture mod W) of the window (R176). -/
def dapPlane (s : State) (d : BitVec 9) (ap : Nat) : Option Nat :=
  let planes := bitsSet (activeMask s d)
  let a := planes.length
  if a = 0 then none
  else let w := windowW s (reLinks (routeEntry s d)) a; some (planes.getD (((ownId s).toNat * w % a + ap % w) % a) 127)

/-- The lowest-numbered plane of a mask. -/
def lowestPlane (m : BitVec 96) : Option Nat := (bitsSet m).head?

/-! ## Sealing (R354, R358) -/

/-- The IV of R354: source, destination, source's parish, destination's parish, stream, counter. -/
def sealIv (src dest : BitVec 9) (qs qd : BitVec 6) (stream : BitVec 2) (ctr : BitVec 64) : BitVec 96 := src ++ dest ++ qs ++ qd ++ stream ++ ctr

/-- The additional data of R354: header slot, argument and own slots, with GV, GRANT, RV and RELEASE_TAG zeroed. -/
def sealAad (t : Txn) : List Byte :=
  let t := { t with gv := false, grant := 0, rv := false, releaseTag := 0 }
  ([headerSlot t] ++ (if t.arg then [argSlot t] else []) ++ ownSlot t).flatMap slotBytes

/-- The plaintext of R354: weight and payload slots. -/
def sealBody (t : Txn) : List Byte :=
  (bytesSlots (ceilDiv t.weights.length 8) (t.weights.flatMap fun w => leBytes 4 w.toNat)).flatMap slotBytes
  ++ (bytesSlots (ceilDiv t.payload.length 32) t.payload).flatMap slotBytes

/-- Seal a charged transaction of parish `q` with the counter the slot gives (R354). -/
def sealTxn (s : State) (q : BitVec 6) (p : PairSlot) (t : Txn) : Txn :=
  let (_, tag) := Config.gcmSeal p.key (sealIv (ownId s) t.dest q p.peerParish 0 p.txCtr) (sealAad t) (sealBody t)
  { t with sealSlot := some { tag := tag, ctr := p.txCtr, gen := p.gen, answered := 0 } }

/-- The ciphertext that replaces weight and payload slots on the wire (R352). -/
def sealCipher (s : State) (q : BitVec 6) (p : PairSlot) (t : Txn) : List Byte :=
  (Config.gcmSeal p.key (sealIv (ownId s) t.dest q p.peerParish 0 p.txCtr) (sealAad t) (sealBody t)).1

/-! ## Link queues -/

/-- Queue a transaction's slots on link `p`. -/
def queueTxn (p : Nat) (t : Txn) (slots : List (BitVec 256)) (unit : Option Nat) (s : State) : State :=
  modLink p (fun l => { l with txq := l.txq ++ [{ slots := slots, epoch := t.epoch, dest := if t.cast = 0 then some t.dest else none, unit := unit }] }) s

/-- TAL_CTL.REFRESH_US in units. -/
def refreshUnits (s : State) : Nat := bits s.tal.ctl 8 8 * usUnits

/-- A piggybacked release for `d`: the first that no header has carried yet. Where its refreshes are over, this is its last copy (R248). -/
def takeRelease (d : BitVec 9) (s : State) : Option (BitVec 16) × State :=
  match s.tal.releases.find? (fun r => r.1 == d && r.2.2.2) with
  | none => (none, s)
  | some r =>
    if r.2.2.1 = 0 then
      (some r.2.1, { s with
        tal := { s.tal with releases := dropFirst (fun x => x == r) s.tal.releases }
        eng := { s.eng with tagHold := s.eng.tagHold ++ [(r.1, r.2.1, later s.alm.now (3 * refreshUnits s))] } })
    else (some r.2.1, { s with tal := { s.tal with releases := modFirst (fun x => x == r) (fun x => (x.1, x.2.1, x.2.2.1, false)) s.tal.releases } })

/-- A tally entry (R245). -/
def tallyEntry (val : BitVec 32) (kind : Nat) (src dst : BitVec 9) : Word :=
  place val.toNat 32 32 ||| place kind 28 4 ||| place src.toNat 9 9 ||| place dst.toNat 0 9

/-- GRANT entries for `d` that no TALLY flit has taken yet are withdrawn: a header carries the value (R246). -/
def withdrawGrants (d : BitVec 9) (s : State) : State :=
  s.lnk.links.foldl (fun s e =>
    if e.2.tallyq.isEmpty then s
    else modLink e.1 (fun l => { l with tallyq := l.tallyq.filter fun w => !(bits w 28 4 == 1 && bits w 0 9 == d.toNat) }) s) s

/-- A unicast header as it leaves: GV, the current ISSUED for its destination, and the release it carries, if any (R243, R246, R248). -/
def stampHeader (x : BitVec 256) (issued : BitVec 32) (r : Option (BitVec 16)) : BitVec 256 :=
  slot4 ((x.extractLsb' 0 64 &&& ~~~(maskAt 31 33)) ||| flag true 63 ||| place issued.toNat 31 32) (x.extractLsb' 64 64)
    ((x.extractLsb' 128 64 &&& ~~~(maskAt 0 17)) ||| flag r.isSome 16 ||| place (r.getD 0).toNat 0 16) (x.extractLsb' 192 64)

/-- The slots of a DATA flit, each with whether it begins a transaction and the destination of a unicast one: a unicast header that leaves carries the
current grant and a release that is due, and GRANT entries for the same destination are withdrawn (R246, R248). -/
def stampSlots : List (BitVec 256 × Bool × Option (BitVec 9)) → State → List (BitVec 256 × Bool) × State
  | [], s => ([], s)
  | (x, b, none) :: r, s =>
    let (ys, t) := stampSlots r s
    ((x, b) :: ys, t)
  | (x, b, some d) :: r, s =>
    let (rel, t) := takeRelease d s
    let (ys, u) := stampSlots r (withdrawGrants d (grantSent d.toNat t))
    ((stampHeader x (tgtTally s d.toNat).issued rel, b) :: ys, u)

/-- Slots on the wire of a sealed transaction: weight and payload slots are ciphertext (R352). -/
def wireSlots (t : Txn) (cipher : Option (List Byte)) : List (BitVec 256) :=
  match cipher with
  | none => txSlots t
  | some c =>
    [headerSlot t] ++ (if t.arg then [argSlot t] else []) ++ ownSlot t
    ++ bytesSlots (ceilDiv t.weights.length 8 + ceilDiv t.payload.length 32) c
    ++ (match t.sealSlot with
      | none => []
      | some g => [tagSlot t g])

/-! ## Uncharged answers (R176, R358, R484) -/

/-- The plane an uncharged answer takes: the one the answered transaction came by when it is in the mask towards the requester, else
the lowest of that mask (R176). -/
def answerPlane (s : State) (via : Via) (d : BitVec 9) : Option Nat :=
  let m := activeMask s d
  match via with
  | .link p => if memb m p.toNat then some p.toNat else lowestPlane m
  | .self => lowestPlane m

/-- The slot that opened a sealed transaction, by generation (R356). -/
def openSlot? (s : State) (q : BitVec 6) (d : BitVec 9) (gen : BitVec 8) : Option (Nat × PairSlot) := (slotsOf s q d).find? fun e => e.2.gen == gen

/-- A counter of pair slot `n` advances: past 2^40 in an ACTIVE slot Reeve starts a REKEY by itself, unless a job for the pair runs; at
2^63 it writes COUNTER_LIMIT (R341, R351). -/
def advanceCtr (n : Nat) (ans : Bool) (s : State) : State :=
  let s := modSlot n (fun p => if ans then { p with ansCtr := p.ansCtr + 1 } else { p with txCtr := p.txCtr + 1 }) s
  let p := slot s n
  let c := (if ans then p.ansCtr else p.txCtr).toNat
  let runs := s.ree.jobs.any fun j => j.parish == p.parish && j.peer == p.peer
  let s := if c == 2 ^ 40 + 1 && p.state == .active && !runs then
      { s with ree := { s.ree with jobs := s.ree.jobs ++ [{ parish := p.parish, peer := p.peer, rekey := true, start := s.alm.now }] } }
    else s
  if c = 2 ^ 63 then note 0x04 0 p.gen.toNat p.parish p.peer (parish s p.parish.toNat).tag (if ans then 1 else 0) 0 s else s

/-- Authenticate an answer of parish `q` under the slot of generation `gen`: GMAC with the slot's answer counter (R358). -/
def authAnswer (q : BitVec 6) (gen : BitVec 8) (answered : BitVec 64) (t : Txn) (s : State) : Txn × State :=
  match openSlot? s q t.dest gen with
  | none => (t, s)
  | some (n, p) =>
    if 2 ^ 63 ≤ p.ansCtr.toNat then (t, s)
    else
    let t := { t with len := 2 }
    let aad := sealAad t ++ wordBytes answered
    let tag := (Config.gcmSeal p.key (sealIv (ownId s) t.dest q p.peerParish 1 p.ansCtr) aad []).2
    ({ t with sealSlot := some { tag := tag, ctr := p.ansCtr, gen := gen, answered := answered } },
     advanceCtr n true s)

/-- Send an uncharged transaction: to the device itself by its own ingress (R113), else on its plane; with no plane it is not sent. -/
def sendUncharged (via : Via) (t : Txn) (s : State) : State :=
  if t.dest = ownId s then { s with tx := { s.tx with locals := s.tx.locals ++ [t] } }
  else match answerPlane s via t.dest with
    | none => s
    | some p =>
      let t := { t with epoch := epochBit s, gv := true }
      queueTxn p t (txSlots t) none s

/-- The answer of kind `k` with a status to a transaction (R197, R244). -/
def answerTo (s : State) (t : Txn) (k : Nat) (st : BitVec 8) : Txn :=
  { kind := BitVec.ofNat 5 k, len := 1, src := ownId s, dest := t.src, epoch := epochBit s, status := st, tag := t.tag, stripe := t.stripe,
    signal := t.signal || t.kind.toNat == kSignal, answer := true }

/-- Answer a transaction, authenticated when it was sealed (R358, R484). -/
def answer (via : Via) (q : BitVec 6) (t : Txn) (k : Nat) (st : BitVec 8) (s : State) : State :=
  let a := answerTo s t k st
  match t.sealSlot with
  | none => sendUncharged via a s
  | some g => let (a, s) := authAnswer q g.gen g.ctr a s; sendUncharged via a s

/-! ## Units -/

/-- A unit is before another in presentation order: admission order, then stripe number (R174). -/
def unitBefore (a b : Xu) : Bool :=
  match a.use, b.use with
  | .cmd i, .cmd j => decide (i < j) || (i == j && decide (a.id < b.id))
  | _, _ => decide (a.id < b.id)

/-- Put a waiting unit into presentation order among the waiting ones. -/
def insertUnit (u : Xu) : List Xu → List Xu
  | [] => [u]
  | v :: vs => if !v.charged && unitBefore u v && !vs.any (fun w => w.charged) then u :: v :: vs else v :: insertUnit u vs

/-- A new charged transaction of this device waits for credit and placement (R17, R235). -/
def addUnit (use : UnitFor) (dests : List (BitVec 9)) (q : Option (BitVec 6)) (pinned : Option Nat) (t : Txn) (s : State) : State :=
  let sealed := match q with
    | some q => parSealed s q && dests.any (· ≠ ownId s)
    | none => false
  let len := txSlotCount t sealed
  let u : Xu := { id := s.tx.nextId, use := use, dests := dests, owed := dests, txn := { t with len := len }, lines := ceilDiv len 2,
                  pinned := pinned, waitEnd := waitEnd s, parish := q }
  { s with tx := { s.tx with units := insertUnit u s.tx.units, nextId := s.tx.nextId + 1 } }

/-- Sealed transactions of one parish in flight towards `d` (R355). -/
def sealedInFlight (s : State) (q : BitVec 6) (d : BitVec 9) : Nat :=
  ((s.tx.units ++ s.tx.ghosts).filter fun u => u.charged && u.parish == some q && u.owed.contains d).length

/-- The 1,024 sealed transactions in flight towards `d` leave room for the unit (R355). -/
def sealRoom (s : State) (u : Xu) (d : BitVec 9) : Bool :=
  match u.parish with
  | some q => d == ownId s || !(parSealed s q) || decide (sealedInFlight s q d < 1024)
  | none => true

/-- Sealed transactions have ended since `old`: a unit that their number held back comes to the tally check, where its wait for credit begins
(R235, R355). -/
def sealFreed (old s : State) : State :=
  let freed := fun (u : Xu) => !u.charged && u.dests.any fun d => !(sealRoom old u d) && sealRoom s u d
  { s with tx := { s.tx with units := s.tx.units.map fun u => if freed u then { u with waitEnd := waitEnd s } else u } }

/-- Units end with what they carried for. A charged one whose destinations still owe an answer counts in flight on (R173, R250). -/
def dropUnits (hit : Xu → Bool) (s : State) : State :=
  sealFreed s { s with tx := { s.tx with
      units := s.tx.units.filter fun u => !(hit u)
      ghosts := s.tx.ghosts ++ s.tx.units.filter fun u => hit u && u.charged && u.dests != [ownId s] && !u.owed.isEmpty } }

/-- A destination of a ghost has answered, or the ghost is lost towards it. -/
def ghostEnds (g : Xu) (d : BitVec 9) (s : State) : State :=
  sealFreed s { s with tx := { s.tx with
      ghosts := (modFirst (fun u => u.id == g.id && u.owed.contains d) (fun u => { u with owed := u.owed.erase d }) s.tx.ghosts).filter fun u => !u.owed.isEmpty } }

/-- Signalled commands outstanding towards `d`, cancelled ones included (R45). -/
def sigSlots (s : State) (d : Nat) : SigSlots := Tab.get {} s.tal.slots d

/-- The unit's command holds, or may take, a signal slot towards `d` (R45). -/
def sigRoom (s : State) (u : Xu) (d : Nat) : Bool :=
  match u.use with
  | .cmd id => !u.txn.signalled || (sigSlots s d).active.contains id || decide ((sigSlots s d).active.length + (sigSlots s d).cancelled.length < 16)
  | _ => true

/-- Change the signal slots towards `d`. A unit that a slot held back comes to the tally check when one frees: its wait for credit begins
then (R45, R235). -/
def changeSlots (d : Nat) (f : SigSlots → SigSlots) (s : State) : State :=
  let t := { s with tal := { s.tal with slots := Tab.upd {} s.tal.slots d f } }
  let freed := fun (u : Xu) => !u.charged && u.dests.any (fun x => x.toNat == d) && !(sigRoom s u d) && sigRoom t u d
  { t with tx := { t.tx with units := t.tx.units.map fun u => if freed u then { u with waitEnd := waitEnd s } else u } }

/-- A unit stands in line for the tally check: no slot of R45 holds it back. One that the limit of R355 holds back stands there too, before the
check, and holds back those behind it. -/
def inLine (s : State) (u : Xu) : Bool := !u.charged && u.dests.all fun d => sigRoom s u d.toNat

/-- A unit has come to the tally check. -/
def atCheck (s : State) (u : Xu) : Bool := inLine s u && u.dests.all (sealRoom s u)

/-- The unit's command takes a signal slot towards `d`. -/
def takeSigSlot (u : Xu) (d : Nat) (s : State) : State :=
  match u.use with
  | .cmd id =>
    if u.txn.signalled && !(sigSlots s d).active.contains id then
      { s with tal := { s.tal with slots := Tab.upd {} s.tal.slots d fun x => { x with active := x.active ++ [id] } } }
    else s
  | _ => s

/-- New charges towards `d` are held by a reconciliation (R250). -/
def held (s : State) (d : Nat) : Bool := (srcTally s d).hold

/-- The conditions before the tally check (R250, R355) and credit itself (R235) hold towards `d`. -/
def mayCharge (s : State) (u : Xu) (d : BitVec 9) : Bool :=
  !(held s d.toNat) && decide (u.lines ≤ credit s d.toNat)
  && (match u.parish with
    | some q => !(parSealed s q) || ((sealSlot? s q d).isSome && sealRoom s u d)
    | none => true)

/-- The planes a unit may take: its destination's active mask, or the members' common planes (R176). -/
def unitMask (s : State) (u : Xu) : BitVec 96 := match u.dests with
  | [d] => activeMask s d
  | ds => commonMask s ds

/-- The plane a unit is bound to. A response of this device keeps to one only while it stands in the mask. -/
def pinnedTo (s : State) (u : Xu) : Option Nat :=
  match u.use with
  | .answer _ => u.pinned.filter fun p => memb (unitMask s u) p
  | _ => u.pinned

/-- The plane a unit would take now. -/
def unitPlane (s : State) (u : Xu) : Option Nat :=
  match pinnedTo s u, u.dests with
  | some p, ds => if ds.all (fun d => planeRoom s d p u.lines) && memb (unitMask s u) p then some p else none
  | none, [] => none
  | none, ds => choosePlane s (u.txn.cast != 0) ds (unitMask s u) u.lines

/-- No earlier unit in line shares a destination with the unit: transactions towards a destination are charged in order (R45, R235, R355). -/
def firstWaiting (s : State) (u : Xu) : Bool :=
  match s.tx.units.find? (fun v => inLine s v && v.dests.any u.dests.contains) with
  | some v => v.id == u.id
  | none => false

/-- The oldest unit at the tally check towards `d`. -/
def waitingFor (s : State) (d : BitVec 9) : Option Xu := s.tx.units.find? fun u => atCheck s u && u.dests.contains d

/-- Charge, seal, place and queue a unit (R17, R174, R235, R354). -/
def launch (u : Xu) (p : Nat) (s : State) : State :=
  let mask := unitMask s u
  let s := u.dests.foldl (fun s d => takeSigSlot u d.toNat (modSrcTally d.toNat (fun t => { t with sent := t.sent + BitVec.ofNat 32 u.lines }) s)) s
  let t := { u.txn with epoch := epochBit s }
  let slotN := match u.parish, u.dests with
    | some q, [d] => match parSealed s q, sealSlot? s q d with
      | true, some (n, ps) => some (q, n, ps)
      | _, _ => none
    | _, _ => none
  let (t, cipher, ctr) := match slotN with
    | some (q, _, ps) => (sealTxn s q ps t, some (sealCipher s q ps t), ps.txCtr)
    | none => (t, none, 0)
  let s := match slotN with
    | some (_, n, _) => advanceCtr n false s
    | none => s
  let t := { t with gv := t.cast == 0 }
  let s := modUnit u.id (fun v => { v with charged := true, plane := p, txn := t, ctr := ctr, deadline := later s.alm.now (effTimeout s) }) s
  let s := match pinnedTo s u, u.dests with
    | none, _ :: _ => advanceCursor s (u.txn.cast != 0) u.dests mask
    | _, _ => s
  queueTxn p t (wireSlots t cipher) (some u.id) s

/-- A unit addressed to the device itself goes to its own ingress: no tallies, planes or Cipher (R113). -/
def launchSelf (u : Xu) (s : State) : State :=
  let s := u.dests.foldl (fun s d => takeSigSlot u d.toNat s) s
  let s := modUnit u.id (fun v => { v with charged := true, plane := 127, sent := true, deadline := later s.alm.now (effTimeout s) }) s
  { s with tx := { s.tx with locals := s.tx.locals ++ [{ u.txn with dest := ownId s }] } }

end Sys2Proof.Machine
end

