-- ==== Sys2Proof/Machine/Channels.lean ====
section
/-! DEFINITION. Channels: the table, the cache, states, ring fetches, quotas, record writes (R63-R97). -/

namespace Sys2Proof.Machine

/-- A channel the controller holds, if it does: every channel that is neither DISABLED nor PARKED. -/
def chan? (s : State) (ch : BitVec 21) : Option Chan := (s.chn.chans.find? fun e => e.1 == ch.toNat).map fun e => e.2

/-- The state with channel `ch` held as `c`; a channel that becomes BLOCKED is so from now (R435). -/
def putChan (ch : BitVec 21) (c : Chan) (s : State) : State :=
  let was := (chan? s ch).any fun x => x.state == .blocked
  let c := if c.state == .blocked && !was then { c with blockedAt := s.alm.now } else c
  { s with chn := { s.chn with chans := Tab.insert s.chn.chans ch.toNat c } }

/-- The state with channel `ch` no longer held. -/
def dropChan (ch : BitVec 21) (s : State) : State := { s with chn := { s.chn with chans := Tab.erase s.chn.chans ch.toNat } }

/-- The state with a held channel changed by `f`. -/
def modChan (ch : BitVec 21) (f : Chan → Chan) (s : State) : State :=
  match chan? s ch with
  | none => s
  | some c => putChan ch (f c) s

/-- CHN_TABLE_CTL.EN and N = 2^LOG2 (R63). -/
def chnEn (s : State) : Bool := bitAt s.gbl.chnCtl 5
def chnCount (s : State) : Nat := 2 ^ bits s.gbl.chnCtl 0 5

/-- The address of channel n's descriptor, and of the overflow ring's entry i (R63). -/
def descAddr (s : State) (ch : BitVec 21) : Nat := s.gbl.chnBase.toNat + 128 * ch.toNat
def ovfAddr (s : State) (i : Nat) : Nat := s.gbl.chnBase.toNat + 128 * chnCount s + 4 * (i % chnCount s)

/-! ## The block as a whole -/

/-- The block works: powered, out of reset, past the start-up clear (R442), not in the safe state (R408), not stopped by Curfew
(R431), CORE running (R379). -/
def running (s : State) : Bool :=
  s.pins.pwrOk && !s.pins.aonReset && !s.pins.blockReset && (s.gbl.stage == .ready || s.gbl.stage == .calibrating) && !s.flt.safe
  && (s.cur.state == .idle || s.cur.state == .armed) && !s.pwr.gated

/-- An event of the block's own happens only while the block works: a stopped block holds its state (R408, R431). -/
def whileRunning (f : State → State) (s : State) : State := if running s then f s else s

/-- Commands in flight of a channel. -/
def cmdsOf (s : State) (ch : BitVec 21) : List Cmd := s.eng.cmds.filter fun c => c.ch == ch

/-- A command of the channel has started and is not complete. -/
def incomplete (s : State) (ch : BitVec 21) : Bool := (cmdsOf s ch).any fun c => c.phase != .done

/-! ## States (R73, R86) -/

/-- The completion ring has no free slot (R86). -/
def cplFull (c : Chan) : Bool := decide (2 ^ c.cplLog2.toNat ≤ dist32 c.recNext c.cplHead)

/-- A channel parks with RING_ERROR (R72). -/
def ringPark (c : Chan) : Chan :=
  { c with state := .parking, parkWhy := 0x06, blockCause := 0, fetched := c.head, ringError := none }

/-- IDLE, RUNNING or BLOCKED as the indices say. IDLE also where the entries before TAIL are the first half of a 128-B packet, and whether or not
commands of the channel are in flight (DESIGN CHOICE: log entry 165). A SYNC or WAIT that holds the channel goes on holding it (R73, R86). A channel
whose next packet has an entry that could not be read parks (R72). -/
def settle (c : Chan) : Chan :=
  match c.state with
  | .idle | .running | .blocked =>
    if c.ringError = some c.head ∨ (c.half ∧ c.ringError = some (c.head + 1)) then ringPark c
    else if c.head = c.tail ∨ (c.half ∧ dist32 c.tail c.head = 1) then { c with state := .idle, blockCause := 0 }
    else if c.state = .blocked ∧ (c.blockCause = 1 ∨ c.blockCause = 2) then c
    else if cplFull c then { c with state := .blocked, blockCause := 3 }
    else { c with state := .running, blockCause := 0 }
  | _ => c

/-- The packet at HEAD of a channel: its entry or its two entries, as memory has them (R66, R98). -/
def headPkt (s : State) (c : Chan) : List Word :=
  let at_ := fun (i : Nat) => (c.ringBase.toNat + 64 * ((c.head.toNat + i) % 2 ^ c.ringLog2.toNat), 64)
  let w := bytesWords 8 (gather s.mem s.memp.writes [at_ 0])
  if pkExt w then bytesWords 16 (gather s.mem s.memp.writes [at_ 0, at_ 1]) else w

/-- Whether the entry at HEAD, once fetched, is the first of a 128-B packet (R66). -/
def markHalf (s : State) (c : Chan) : Chan := settle { c with half := decide (0 < dist32 c.fetched c.head) && pkExt (headPkt s c) }

/-- What held the channel ends. -/
def unblock (c : Chan) : Chan := if c.state = .blocked then settle { c with state := .running, blockCause := 0 } else c

/-! ## Fetching (R72) -/

/-- Read up to 16 entries of the ring from the first not fetched, one read outstanding at a time (R72). -/
def fetch (ch : BitVec 21) (s : State) : State :=
  match chan? s ch with
  | none => s
  | some c =>
    let busy := s.memp.reads.any fun r => match r.use with
      | .ring x _ _ => x == ch
      | _ => false
    let n := dist32 c.tail c.fetched
    if c.cached && !c.loading && (c.state == .idle || c.state == .running || c.state == .blocked) && n != 0 && !busy && c.ringError.isNone
        && decide (dist32 c.fetched c.head < 2) then
      let k := min n 16
      let size := 2 ^ c.ringLog2.toNat
      issueRead (.ring ch c.fetched k) ((List.range k).map fun i => (c.ringBase.toNat + 64 * ((c.fetched.toNat + i) % size), 64)) 3 (some 48) none s
    else s

/-! ## The cache (R79-R81) -/

/-- Write descriptor words 3 to 5 back (R65, R75, R79). -/
def writeBack (use : WriteFor) (ch : BitVec 21) (c : Chan) (s : State) : State :=
  issueWrite use (cellsAt (descAddr s ch + 24) (wordsBytes (chanWords c))) 3 false none none s

/-- A channel that may be evicted under R79. -/
def victimOk (s : State) (ch : BitVec 21) (c : Chan) : Bool :=
  c.cached && (cmdsOf s ch).isEmpty
  && (c.state == .idle || (c.state == .blocked && c.blockCause == 3)
      || (c.state == .blocked && c.blockCause == 2 && s.chn.waits.any (fun w => w.ch == ch && w.table)))

/-- The least recently started of the channels that satisfy `p`. -/
def leastRecent (p : Nat × Chan → Bool) (l : List (Nat × Chan)) : Option (Nat × Chan) :=
  l.foldl (fun o e => if p e then (match o with
    | none => some e
    | some x => if e.2.lastStart < x.2.lastStart then some e else some x) else o) none

/-- The victim of R79, if there is one. -/
def victim (s : State) : Option (Nat × Chan) := leastRecent (fun e => victimOk s (BitVec.ofNat 21 e.1) e.2) s.chn.chans

/-- Channels in the cache. -/
def cachedCount (s : State) : Nat := (s.chn.chans.filter fun e => e.2.cached).length

/-- The reads of a channel's ring that are outstanding are of no use any more: what it prefetches is discarded (R75). -/
def orphanRing (ch : BitVec 21) (s : State) : State :=
  let ours := fun (r : ReadReq) => match r.use with
    | .ring x _ _ => x == ch
    | _ => false
  { s with memp := { s.memp with reads := s.memp.reads.map fun r => if ours r then { r with use := .dropped } else r } }

/-- The reads of a channel's WAIT word that are outstanding are of no use any more (R75). -/
def orphanWait (ch : BitVec 21) (s : State) : State :=
  { s with memp := { s.memp with reads := s.memp.reads.map fun r => if r.use == .waitWord ch then { r with use := .dropped } else r } }

/-- A channel leaves its cache entry; words 3 to 5 go to memory (R79). -/
def evict (n : Nat) (c : Chan) (s : State) : State :=
  let ch := BitVec.ofNat 21 n
  writeBack (.desc ch) ch c (orphanRing ch (putChan ch { c with cached := false, fetched := c.head, half := false } s))

/-- Append a channel to the overflow ring, once (R80). -/
def queueOverflow (ch : BitVec 21) (s : State) : State :=
  match chan? s ch with
  | none => s
  | some c =>
    if c.ovfQueued then writeBack (.desc ch) ch c s
    else
      let c := { c with ovfQueued := true }
      let s := putChan ch c s
      let s := issueWrite .background (cellsAt (ovfAddr s s.chn.ovfTail) (leBytes 4 ch.toNat)) 3 false none none s
      writeBack (.desc ch) ch c { s with chn := { s.chn with ovf := s.chn.ovf ++ [ch], ovfTail := s.chn.ovfTail + 1 } }

/-- A RUNNING channel that has started 256 commands since it entered the cache and has none in flight is a victim while others wait
(R81). -/
def rotates (s : State) (ch : BitVec 21) (c : Chan) : Bool :=
  c.cached && c.state == .running && !s.chn.ovf.isEmpty && (cmdsOf s ch).isEmpty && decide (256 ≤ c.started)

/-- The victim of R81, if there is one. -/
def rotor (s : State) : Option (Nat × Chan) := leastRecent (fun e => rotates s (BitVec.ofNat 21 e.1) e.2) s.chn.chans

/-- A victim of R81 gives up its entry and joins the overflow ring. -/
def rotateOut (ch : BitVec 21) (c : Chan) (s : State) : State :=
  queueOverflow ch (orphanRing ch (putChan ch { c with cached := false, fetched := c.head, half := false } s))

/-- Room for one more channel in the cache, evicting a victim of R79, or else of R81, if it takes one: none when no victim exists. The
victim of R81 joins the overflow ring. -/
def cacheRoom (s : State) : Option State :=
  if cachedCount s < 16384 then some s
  else match victim s with
    | some (n, c) => some (evict n c s)
    | none => match rotor s with
      | some (n, c) => some (rotateOut (BitVec.ofNat 21 n) c s)
      | none => none

/-- A held channel enters the cache, or is queued for it; one that is queued waits its turn (R79, R80). A channel that has just been rung takes a free
entry, or a victim's, also while others are queued. DESIGN CHOICE: log entry 169. -/
def enterCache (ch : BitVec 21) (s : State) : State :=
  match chan? s ch with
  | none => s
  | some c =>
    if c.cached then s
    else if c.ovfQueued then queueOverflow ch s
    else match cacheRoom s with
      | some s => putChan ch { c with cached := true, started := 0 } s
      | none => queueOverflow ch s

/-- Read a channel's descriptor, one read outstanding at a time (R72). -/
def readDesc (ch : BitVec 21) (s : State) : State :=
  let busy := s.memp.reads.any fun r => r.use == .desc ch
  if busy then s else issueRead (.desc ch) [(descAddr s ch, 128)] 3 (some 48) none s

/-- A held channel that has entered the cache has its descriptor read before its ring (R72). -/
def loadDesc (ch : BitVec 21) (s : State) : State :=
  match chan? s ch with
  | none => s
  | some c => if c.cached then readDesc ch (putChan ch { c with loading := true } s) else s

/-! ## Quotas (R82, R83) -/

/-- Commands that count against a parish: started and not complete, and rejected ones until their record is issued (R83, R86). -/
def parInflight (s : State) (q : BitVec 6) : Nat :=
  (s.eng.cmds.filter fun c => c.parish == some q && (c.phase != .done || c.rejected)).length

/-- Parishes that are not FREE. -/
def parishesUsed (s : State) : List (Nat × Parish) := s.par.filter fun e => e.2.state != .free

/-- ΣRESERVE over all parishes (R83). -/
def reserveSum (s : State) : Nat := (s.par.map fun e => e.2.reserve.toNat).foldl (· + ·) 0

/-- Pool slots in use: commands of each parish beyond its RESERVE (R83). -/
def pooled (s : State) : Nat := (s.par.map fun e => parInflight s (BitVec.ofNat 6 e.1) - e.2.reserve.toNat).foldl (· + ·) 0

/-- A parish may start one more command (R82, R83). -/
def parishRoom (s : State) (q : BitVec 6) : Bool :=
  let p := parish s q.toNat
  let n := parInflight s q
  p.state == .active && decide (n < p.maxInflight.toNat) && (decide (n < p.reserve.toNat) || decide (pooled s < 1536 - reserveSum s))

/-- Bytes queued on an engine: what its commands have still to move (R84). -/
def queuedBytes (s : State) (n : Nat) : Nat :=
  ((s.eng.cmds.filter fun c => c.engine == some n && c.phase != .done).map fun c => payloadBytes c.pkt - c.moved).foldl (· + ·) 0

/-- Commands an engine holds. -/
def engineLoad (s : State) (n : Nat) : Nat := (s.eng.cmds.filter fun c => c.engine == some n && c.phase != .done).length

/-- An engine in service: not removed for self-test and not severe (R85, R400, R448). -/
def engineServes (s : State) (n : Nat) : Bool := let v := Tab.get ({} : Service) s.stw.engines n; !v.removed && !v.severe

/-- The in-service engine with fewer than 32 commands and the fewest queued bytes, the lowest number on a tie (R82, R84). -/
def pickEngine (s : State) : Option Nat :=
  ((List.range 48).filter fun n => engineServes s n && decide (engineLoad s n < 32)).foldl
    (fun o n => match o with
      | none => some n
      | some m => if queuedBytes s n < queuedBytes s m then some n else some m) none

/-- Management commands in flight (R95). -/
def mgmtCmds (s : State) : List Cmd := s.eng.cmds.filter fun c => decide (0x40 ≤ c.op.toNat) && c.phase != .done && !c.rejected

/-- Steward has an intake slot: 16 of 256 are channel 0's, a parish has at most 16, and channel 0 runs one command at a time (R94, R95). -/
def stewardRoom (s : State) (ch : BitVec 21) (q : BitVec 6) : Bool :=
  if ch = 0 then !((cmdsOf s 0).any fun c => c.phase != .done)
  else decide (((mgmtCmds s).filter fun c => c.ch != 0).length < 240)
    && decide (((mgmtCmds s).filter fun c => c.parish == some q).length < 16)

/-- The priority a channel counts at: its PRIO, at most MAX_PRIO of its parish; channel 0 stands above every level (R83, R84). -/
def effPrio (s : State) (ch : BitVec 21) (c : Chan) : Nat :=
  if ch = 0 then 8 else min c.prio.toNat (parish s c.parish.toNat).maxPrio.toNat

/-- A channel is startable as far as its own state and quotas say (R82). -/
def startable (s : State) (ch : BitVec 21) (c : Chan) : Bool :=
  c.cached && c.state == .running && !cplFull c && decide (0 < dist32 c.fetched c.head)
  && (if ch = 0 then !((cmdsOf s 0).any fun x => x.phase != .done) else parishRoom s c.parish && s.pwr.coreAt.isNone)

/-- What runs the packet at HEAD has room for it: an engine, or a Steward slot; neither for one that fails steps 1 to 3 of R114 (R82). A WAIT
whose condition has not ended it, or a SYNC whose channel has commands in flight, is held by its own channel (R36, R37). -/
def headRoom (s : State) (ch : BitVec 21) (c : Chan) : Bool :=
  let pkt := headPkt s c
  let op := pkOp pkt
  if (early s (ch == 0) c.parish pkt).isSome then true
  else if op = 0x0C then s.chn.waits.any fun w => w.ch == ch && w.met.isSome
  else if op = 0x0D then !(incomplete s ch)
  else if op = 0x00 ∨ op = 0x0E then true
  else if op < 0x40 then (pickEngine s).isSome
  else stewardRoom s ch c.parish

/-- The scheduler may start the packet at HEAD of a channel (R82). -/
def ready (s : State) (e : Nat × Chan) : Bool :=
  let ch := BitVec.ofNat 21 e.1
  startable s ch e.2 && decide (pkEntries (headPkt s e.2) ≤ dist32 e.2.fetched e.2.head) && headRoom s ch e.2

/-! ## The scheduler (R84) -/

/-- The highest level with a channel that may start; channel 0 stands above every level. -/
def topLevel (s : State) : Option Nat :=
  ((s.chn.chans.filter (ready s)).map fun e => effPrio s (BitVec.ofNat 21 e.1) e.2).max?

/-- Numbers of a list after `k`, and then those up to it: round robin. -/
def roundFrom (k : Nat) (l : List Nat) : List Nat := (l.filter fun n => decide (k < n)) ++ l.filter fun n => decide (n ≤ k)

/-- Channels of a parish that may start at a level, in number order. -/
def readyAt (s : State) (lvl q : Nat) : List Nat :=
  (s.chn.chans.filter fun e => e.1 != 0 && e.2.parish.toNat == q && effPrio s (BitVec.ofNat 21 e.1) e.2 == lvl && ready s e).map fun e => e.1

/-- Parishes with a channel that may start at a level, in number order. -/
def parishesAt (s : State) (lvl : Nat) : List Nat := (List.range 64).filter fun q => !(readyAt s lvl q).isEmpty

/-- A parish's deficit at a level. -/
def deficitOf (s : State) (lvl q : Nat) : Int := Tab.get (0 : Int) (parish s q).deficit lvl

/-- A round's credit of a parish: SHARE × 4 KiB (R83). -/
def quantum (s : State) (q : Nat) : Nat := (parish s q).share.toNat * 4096

/-- Rounds until a parish's deficit is above zero, at one credit a round, at least one. -/
def roundsFor (s : State) (lvl q : Nat) : Nat :=
  let d := deficitOf s lvl q
  if 0 < d ∨ quantum s q = 0 then 1 else (-d).toNat / quantum s q + 1

/-- The parish whose turn it is at a level, and the credits that the rounds until then have given. The parish served last goes on while its
deficit is above zero; else the turn passes round the parishes in number order, each getting a round's credit as it comes to it, to the
first whose deficit is then above zero. DEDUCED: see log entry 7. -/
def turnAt (s : State) (lvl : Nat) : Option (Nat × List (Nat × Nat)) :=
  let ps := parishesAt s lvl
  let cur := Tab.get 64 s.chn.turns lvl
  if ps.contains cur && decide (0 < deficitOf s lvl cur) then some (cur, [])
  else
    let order := if cur = 64 then ps else roundFrom cur ps
    match (order.map (roundsFor s lvl)).min? with
    | none => none
    | some k => match order.find? fun q => roundsFor s lvl q == k with
      | none => none
      | some q =>
        let before := order.takeWhile fun x => x != q
        some (q, order.map fun x => (x, if x == q || before.contains x then k else k - 1))

/-- The channel that starts next: channel 0 before every other; else, at the highest level, the next of the parish whose turn it is, round
robin (R84). -/
def chosen (s : State) : Option Nat :=
  match topLevel s with
  | none => none
  | some lvl =>
    if lvl = 8 then some 0
    else match turnAt s lvl with
      | none => none
      | some (q, _) => (roundFrom (Tab.get 0 s.chn.lastOf (64 * lvl + q)) (readyAt s lvl q)).head?

/-- The packet at HEAD of channel `ch` may start as far as its own channel, quotas and the levels go: no channel of a higher level may start
(R82, R84). -/
def mayGo (s : State) (ch : BitVec 21) (pkt : List Word) : Bool :=
  match chan? s ch with
  | none => false
  | some c =>
    running s && startable s ch c && decide (pkEntries pkt ≤ dist32 c.fetched c.head)
    && s.chn.chans.all fun e => decide (effPrio s (BitVec.ofNat 21 e.1) e.2 ≤ effPrio s ch c) || !(ready s e)

/-- The packet at HEAD of channel `ch` starts next (R82, R84). -/
def mayStart (s : State) (ch : BitVec 21) (pkt : List Word) : Bool := mayGo s ch pkt && chosen s == some ch.toNat

/-- The credits of the rounds until a start at a level are given, the turn passes to the channel's parish and its round robin to the channel
(R84). -/
def takeTurn (ch : BitVec 21) (q : BitVec 6) (lvl : Nat) (s : State) : State :=
  let credits := match turnAt s lvl with
    | some (_, cs) => cs
    | none => []
  let s := credits.foldl (fun s x => modParish x.1 (fun p =>
    { p with deficit := Tab.put (0 : Int) p.deficit lvl (Tab.get (0 : Int) p.deficit lvl + (p.share.toNat * 4096 * x.2 : Nat)) }) s) s
  { s with chn := { s.chn with turns := Tab.put 64 s.chn.turns lvl q.toNat, lastOf := Tab.put 0 s.chn.lastOf (64 * lvl + q.toNat) ch.toNat } }

/-- The deficit of a parish after a start at a level: less max(payload, 64) (R84). -/
def chargeDeficit (q : BitVec 6) (lvl : Nat) (pkt : List Word) (s : State) : State :=
  modParish q.toNat (fun p =>
    { p with deficit := Tab.put (0 : Int) p.deficit lvl (Tab.get (0 : Int) p.deficit lvl - (max (payloadBytes pkt) 64 : Nat)) }) s

/-- A parish with nothing startable at a level has no deficit there (R84). -/
def tidyDeficits (s : State) : State :=
  s.par.foldl (fun t e =>
    if e.2.deficit.all fun d => !(readyAt s d.1 e.1).isEmpty then t
    else modParish e.1 (fun p => { p with deficit := p.deficit.filter fun d => !(readyAt s d.1 e.1).isEmpty }) t) s

end Sys2Proof.Machine
end

