-- ==== Sys2Proof/Machine/Watch.lean ====
section
/-! DEFINITION. Counters (R415-R421), trace entries (R423-R426), watchpoints (R427, R428) and the arming of Curfew (R429, R430). -/

namespace Sys2Proof.Machine

/-! ## Counters -/

/-- Add to a 64-bit counter, saturating (R415). -/
def satAdd (x : BitVec 64) (n : Nat) : BitVec 64 := if 2 ^ 64 ≤ x.toNat + n then ~~~(0 : BitVec 64) else x + BitVec.ofNat 64 n

/-- Global counter `i` counts `n` more (R417). -/
def count (i n : Nat) (s : State) : State := { s with obs := { s.obs with cnt := Tab.upd 0 s.obs.cnt i fun x => satAdd x n } }

/-- Parish q's counter `i` counts `n` more (R418). -/
def countPar (q : BitVec 6) (i n : Nat) (s : State) : State :=
  { s with obs := { s.obs with parCnt := Tab.upd 0 s.obs.parCnt (64 * q.toNat + i) fun x => satAdd x n } }

/-- A unit is out of service for self-test: a removed engine or croft, or a stone under test (R419). -/
def testing (s : State) : Bool :=
  s.stw.engines.any (fun e => e.2.removed) || s.stw.crofts.any (fun e => e.2.removed) || s.stw.test.any (fun x => x.1 == 1)

/-- The counting mode in force is DIAG (R419). -/
def diagMode (s : State) : Bool :=
  let m := bits s.obs.ctl 0 2
  if m = 1 then false else if m = 2 then true
  else !s.obs.everCreated || testing s || s.obs.diagUntil.isSome

/-- DIAG counting under AUTO lasts 100 ms from a link-down or a promotion (R419). -/
def holdDiag (s : State) : State := { s with obs := { s.obs with diagUntil := some (later (now s) (100 * msUnits)) } }

/-- The row of an opcode in R100. -/
def opRow (op : Nat) : Option Nat :=
  if op ≤ 9 then some op else if op = 0x0C then some 10 else if op = 0x0D then some 11 else if op = 0x0E then some 12
  else if op = opXform then some 13 else none

/-- The row of a format in R101. -/
def fmtRow (f : Nat) : Option Nat := if f ≤ 8 then some f else if 0x10 ≤ f ∧ f ≤ 0x15 then some (f - 0x10 + 9) else none

/-- A command matches a filter (R421). -/
def filterHit (f : Word) (w0 : Word) : Bool :=
  ((bits w0 48 16) &&& (bits f 48 16) == (bits f 32 16) &&& (bits f 48 16)) && ((bits w0 32 16) &&& (bits f 16 16) == (bits f 0 16) &&& (bits f 16 16))

/-- Latency in ns. -/
def latencyNs (c : Cmd) (s : State) : Nat := elapsed s c.start / 16

/-- A filter's four counts of a command (R417), given how a counter is added to and raised. -/
def filterCounts (base bytes ns : Nat) (add : Nat → Nat → State → State) (top : Nat → Nat → State → State) (s : State) : State :=
  top (base + 3) ns (add (base + 2) ns (add (base + 1) bytes (add base 1 s)))

/-- Raise a maximum counter. -/
def countMax (i n : Nat) (s : State) : State :=
  { s with obs := { s.obs with cnt := Tab.upd 0 s.obs.cnt i fun x => if x.toNat < n then BitVec.ofNat 64 n else x } }
def countParMax (q : BitVec 6) (i n : Nat) (s : State) : State :=
  { s with obs := { s.obs with parCnt := Tab.upd 0 s.obs.parCnt (64 * q.toNat + i) fun x => if x.toNat < n then BitVec.ofNat 64 n else x } }

/-- The bytes a command counts: its source bytes before coding, of a COPY that encodes those it has read, or the bytes that it wrote locally (R417). -/
def countBytes (c : Cmd) : Nat :=
  let op := pkOp c.pkt
  if op = opAmof then (if c.status = stOk then 8 else 0)
  else if op = opAmo then 8
  else if op = opXform then c.next * (if bitAt (pw c.pkt 6) 4 then bits (pw c.pkt 4) 0 16 else bits (pw c.pkt 4) 16 16) * elemSize (pkFormat c.pkt)
  else if op = opCopy ∧ pkSubop c.pkt % 16 ≠ 0 ∧ pkSubop c.pkt / 16 % 2 = 0 then c.srcOff
  else if 1 ≤ op ∧ op ≤ 7 then c.moved else 0

/-- The counts taken when a command's record is issued (R417, R418). -/
def countCommand (c : Cmd) (s : State) : State :=
  let bytes := countBytes c
  let ns := latencyNs c s
  let w0 := pw c.pkt 0
  let s := match opRow (pkOp c.pkt), fmtRow (pkFormat c.pkt) with
    | some o, some f => if diagMode s then s else count (0x600 + 32 * o + 2 * f + 1) bytes (count (0x600 + 32 * o + 2 * f) 1 s)
    | _, _ => s
  let s := (List.range 16).foldl (fun s j => if filterHit (Tab.get 0 s.obs.filters j) w0 then filterCounts (0xB00 + 4 * j) bytes ns count countMax s else s) s
  match c.parish with
  | none => s
  | some q =>
    let s := count (0x3C0 + 3 * q.toNat + 2) 1 (countPar q 2 1 s)
    let s := match opRow (pkOp c.pkt) with
      | some o => countPar q (0x11 + o) bytes (countPar q (0x03 + o) 1 s)
      | none => s
    (List.range 4).foldl (fun s j =>
      if filterHit (Tab.get 0 (parish s q.toNat).filters j) w0 then filterCounts (0x20 + 4 * j) bytes ns (countPar q) (countParMax q) s else s) s

/-- BYTES_OUT of a parish (R417). -/
def bytesOut (q : BitVec 6) (n : Nat) (s : State) : State := countPar q 0 n (count (0x3C0 + 3 * q.toNat) n s)

/-- BYTES_IN of a parish (R417). -/
def bytesIn (q : BitVec 6) (n : Nat) (s : State) : State := countPar q 1 n (count (0x3C0 + 3 * q.toNat + 1) n s)

/-! ## Trace (R423, R425) -/

/-- Write an entry to a parish's trace ring: dropped and counted when full; the next entry written is then LOST with that count. -/
def tracePut (q : BitVec 6) (ws : List Word) (s : State) : State :=
  let r := RingId.trace q
  if !s.part.t || !(ringEn r s) then s
  else if !(ringRoom r s) then modParish q.toNat (fun p => { p with traceLost := p.traceLost + 1 }) s
  else
    let lost := (parish s q.toNat).traceLost
    if lost = 0 then ringPut r ws s
    else
      let s := ringPut r [place 3 60 3 ||| place lost 0 32, 0, 0, now s] (modParish q.toNat (fun p => { p with traceLost := 0 }) s)
      if ringRoom r s then ringPut r ws s else modParish q.toNat (fun p => { p with traceLost := 1 }) s

/-- The MARK entry of a MARK with TRACE (R133, R425). -/
def traceMark (q : BitVec 6) (ch : BitVec 21) (ix : BitVec 32) (pkt : List Word) (s : State) : State :=
  tracePut q [place 1 60 3 ||| place ch.toNat 32 21 ||| place ix.toNat 0 32,
    place (bits (pw pkt 0) 48 16) 48 16 ||| place (bits (pw pkt 0) 32 16) 32 16 ||| place (bits (pw pkt 1) 0 32) 0 32, 0, now s] s

/-! ## Curfew requests (R429, R430) -/

/-- The lead of a request, in units. -/
def curLead (s : State) (fabric : Bool) : Nat := 16 * (if fabric then bits s.cur.ctl 48 16 else bits s.cur.ctl 32 16)

/-- Time `a` is earlier than `b`. -/
def earlier (a b : Time) : Bool := a != b && decide ((b - a).toNat < 2 ^ 63)

/-- A link takes part in fabric flits: it is joined, and up or in LPI, from which a flit wakes it (R171, R227). -/
def linkLive (l : Link) : Bool := (l.state == .up || l.state == .lpi) && l.joined

/-- Queue the CURFEW flit on every link that is up (R430). -/
def curfewFlits (stop : Time) (origin : BitVec 9) (cid : BitVec 32) (s : State) : State :=
  (List.range s.part.links).foldl (fun s p =>
    if linkLive (link s p) then modLink p (fun l => { l with curfewq := l.curfewq ++ [(stop, place cid.toNat 16 32 ||| place origin.toNat 0 9)] }) s else s) s

/-- Arm Curfew at a stop time; `flit` is the (ORIGIN, CURFEW_ID) of a received flit. An earlier stop time replaces the armed one; a
fabric Curfew stays one, and sends its flits at every arming (R430). -/
def armCurfew (stop : Time) (fabric : Bool) (kind : Nat) (flit : Option (BitVec 9 × BitVec 32)) (s : State) : State :=
  if s.cur.state == .idle || (s.cur.state == .armed && earlier stop s.cur.stopTime) then
    let fab := fabric || (s.cur.state == .armed && s.cur.fabric)
    let n := if fab && flit.isNone then s.cur.count + 1 else s.cur.count
    let (org, cid) := flit.getD (ownId s, n)
    let s := { cmpAt 1 stop s with cur := { s.cur with
      state := .armed, stopTime := stop, origin := org, originKind := BitVec.ofNat 3 kind, fabric := fab, lateNs := 0, done := false
      count := n, curfewId := if fab then cid else s.cur.curfewId } }
    if fab then curfewFlits stop org cid s else s
  else if s.cur.state == .armed then s
  else { s with cur := { s.cur with ignored := if s.cur.ignored = 255 then 255 else s.cur.ignored + 1 } }

/-! ## Watchpoints (R427, R428) -/

/-- READ, WRITE, ATOMIC, REDUCE as bits of CLASSES. -/
def wRead : Nat := 0
def wWrite : Nat := 1
def wAtomic : Nat := 2
def wReduce : Nat := 3

/-- The actions of a matching unit at watchpoint `n` (R428). -/
def watchHit (n : Nat) (w : Watch) (q : BitVec 6) (first src cls : Nat) (s : State) : State :=
  let upd := fun (f : Watch → Watch) (s : State) => { s with obs := { s.obs with watches := Tab.upd {} s.obs.watches n f } }
  let s := if w.actions.getLsbD 0 then upd (fun w => { w with count := satAdd w.count 1 }) s else s
  let s := if w.actions.getLsbD 1 then
      tracePut q [place 2 60 3 ||| (if w.window then place src 16 9 else 0) ||| place n 0 6, place (2 ^ cls) 0 4, BitVec.ofNat 64 first, now s] s else s
  if w.actions.getLsbD 2 then
    let fabric := bitAt s.cur.ctl 1
    armCurfew (later (now s) (curLead s fabric)) fabric 2 none (upd (fun w => { w with actions := w.actions &&& 3 }) s)
  else s

/-- The first byte of a unit's runs that lies in [lo, hi). -/
def firstIn (lo hi : Nat) (runs : List (Nat × Nat)) : Option Nat :=
  (runs.find? fun r => decide (max r.1 lo < min (r.1 + r.2) hi)).map fun r => max r.1 lo

/-- Test a unit of issue, given as runs of bytes, against every watchpoint (R428). -/
def watchTest (hit : Watch → Bool) (cls src : Nat) (runs : List (Nat × Nat)) (s : State) : State :=
  s.obs.watches.foldl (fun s e =>
    let w := e.2
    match w.owner, firstIn w.start.toNat (w.start.toNat + w.length.toNat) runs with
    | some q, some first => if hit w && w.classes.getLsbD cls then watchHit e.1 w q first src cls s else s
    | _, _ => s) s

/-- A unit of issue on a parish's own address space. -/
def watchLocal (q : BitVec 6) (cls : Nat) (runs : List (Nat × Nat)) (s : State) : State :=
  watchTest (fun w => !w.window && w.owner == some q) cls 0 runs s

/-- A unit of issue on a window. -/
def watchWindow (h : BitVec 20) (cls src : Nat) (runs : List (Nat × Nat)) (s : State) : State :=
  watchTest (fun w => w.window && w.handle == h) cls src runs s

end Sys2Proof.Machine
end

