-- ==== Sys2Proof/Machine/Cmds.lean ====
section
/-! DEFINITION. Commands in flight: start, translation, tags, stripes, signals, completion, records (R32-R36, R58, R82-R88, R109-R130,
R153-R159). -/

namespace Sys2Proof.Machine

/-! ## Parts of a command -/

/-- The parish a command runs for; channel 0's own count as parish 0 where a number is needed. -/
def Cmd.q (c : Cmd) : BitVec 6 := c.parish.getD 0

/-- The agent of a command for invalidations: its engine, or the Mill's staging area (R162). -/
def Cmd.agent (c : Cmd) : Option (BitVec 6) := if c.op.toNat = opXform then some 51 else c.engine.map (BitVec.ofNat 6)

/-- The stripes of an index list that has been cut at its failing entry. -/
def ixAll (c : Cmd) : List Plan :=
  (ixPlans (pkFormat c.pkt) (shapeOf c.pkt) (pw c.pkt 1).toNat (pkOffset c.pkt) (fun _ => true) 0 (c.index.getD []) []).1.reverse

/-- The peer base of a command's stripes: the window offset, or the destination of COPY. -/
def peerBase (pkt : List Word) : Nat := if pkOp pkt = opCopy then (pw pkt 2).toNat else pkOffset pkt

/-- The number of data stripes or requests of a command (R109, R124). -/
def planCount (c : Cmd) : Nat :=
  if pkIndexed c.pkt then (ixAll c).length
  else if pkOp c.pkt = opAmo ∨ pkOp c.pkt = opAmof then 1
  else if pkOp c.pkt = opXform then 0
  else stripeCount (pkFormat c.pkt) (shapeOf c.pkt)

/-- Stripe `n` of a command. -/
def planAt (c : Cmd) (n : Nat) : Plan :=
  if pkIndexed c.pkt then (ixAll c).getD n { dev := 0, off := 0, rows := 0, rowBytes := 0, pstride := 0, pieces := [] }
  else stripeAt (pkFormat c.pkt) (shapeOf c.pkt) (pkDev c.pkt) (pw c.pkt 1).toNat (peerBase c.pkt) n

/-- A target still receives stripes. -/
def Target.live (t : Target) : Bool := !t.stopped && !t.lost && !t.dropped

/-- Some target of stripe `n` still receives stripes. -/
def stripeLive (c : Cmd) (n : Nat) : Bool :=
  if c.targets.isEmpty then true
  else if pkIndexed c.pkt then c.targets.any fun t => t.dev == (planAt c n).dev && t.live
  else c.targets.any Target.live

/-- The next stripe to present, if the command issues more. -/
def nextStripe (c : Cmd) : Option Nat :=
  if c.halt || !(stripeLive c c.next || c.targets.any Target.live) then none
  else firstFrom (stripeLive c) (planCount c - c.next) c.next

/-- Units of a command. -/
def unitsOf (s : State) (id : Nat) : List Xu := s.tx.units.filter fun u => u.use == .cmd id

/-- Something the command issued has not ended: transactions, queries, memory accesses, responses landed for it. -/
def outstanding (s : State) (id : Nat) : Bool :=
  !(unitsOf s id).isEmpty || s.tx.queries.any (fun q => q.cmd == id) || s.brn.arrivals.any (fun a => a.cmd == some id)
  || (match cmd? s id with
    | some c => c.reading || c.writing != 0
    | none => false)

/-! ## Ending a command -/

/-- A tag may not be taken: in use, on hold (R48), or its releases are still being sent (R248). -/
def tagBusy (s : State) (n : Nat) : Bool :=
  s.eng.tagsUsed.contains (BitVec.ofNat 16 n) || s.eng.tagHold.any (fun h => h.2.1.toNat == n && !(reached s h.2.2))
  || s.tal.releases.any (fun r => r.2.1.toNat == n)

/-- The lowest free tag of the 65,536. DESIGN CHOICE: see log entry 12. -/
def freeTag (s : State) : Option Nat := firstBelow 65536 fun n => !(tagBusy s n)

/-- A command holds the tag of a target: it waits for it no more (R110). -/
def Cmd.holds (c : Cmd) (t : Target) : Bool := if pkOp c.pkt = opMput then c.needTags.isEmpty else !(c.needTags.contains t.dev)

/-- The tags of an ended command free, but one whose answers have not all arrived is kept for the timeout (R48, R110), and so is one that
keys an entry cancelled at the target (R45). -/
def endTags (c : Cmd) (s : State) : State :=
  let owing := (unitsOf s c.id).flatMap fun u => if u.charged then u.owed else []
  let kept := (c.targets.filter c.holds).filter fun t => t.lost || owing.contains t.dev || (pkSignalled c.pkt && t.sig != .applied && t.sig != .toSend)
  let t := later (now s) (effTimeout s)
  { s with eng := { s.eng with
      tagsUsed := s.eng.tagsUsed.filter fun x => !((c.targets.filter c.holds).any fun t => t.tag == x)
      tagHold := (s.eng.tagHold.filter fun h => !(reached s h.2.2)) ++ kept.map fun x => (x.dev, x.tag, t) } }

/-- An ended command's signalled-command slots free (R45). -/
def endSlots (id : Nat) (s : State) : State :=
  s.tal.slots.foldl (fun s e =>
    if e.2.active.contains id then changeSlots e.1 (fun x => { x with active := x.active.erase id }) s else s) s

/-- Stones that worked for what `mine` names are free again, and serve the pool they are assigned to: a load not ended or a matrix to be dropped
leaves no matrix (R315, R321, R322). -/
def freeStones (mine : MillWork → Bool) (s : State) : State :=
  let s := (List.range 8).foldl (fun s n =>
    if (stone s n).work.any mine then
      modStone n (fun x => { x with work := none, loading := false, dropAfter := false, frozen := false, oldPool := none, lastWork := now s,
                                    matrix := if x.loading || x.dropAfter then none else x.matrix }) s
    else s) s
  { s with mil := { s.mil with loads := s.mil.loads.filter (fun n => (stone s n).loading), held := s.mil.held.filter fun w => !(mine w.work) } }

/-- Discard the matrices that `hit` names: at once from an idle stone, at the end of its work from another (R315). -/
def dropMatrices (hit : Matrix → Bool) (s : State) : State :=
  (List.range 8).foldl (fun s n =>
    if (stone s n).matrix.any hit then
      modStone n (fun x => if x.work.isSome then { x with dropAfter := true } else { x with matrix := none }) s
    else s) s

/-- What the Mill holds or keeps waiting for a command goes (R322, R324). -/
def endMill (id : Nat) (s : State) : State :=
  let mine := fun (w : MillWork) => w == .job id || w == .egress id
  freeStones mine { s with mil := { s.mil with waiting := s.mil.waiting.filter fun w => !(mine w.work) } }

/-- The Mill gives up the work of an arrival. -/
def leaveMill (id : Nat) (s : State) : State :=
  let mine := fun (w : MillWork) => w == .ingress id
  freeStones mine { s with mil := { s.mil with waiting := s.mil.waiting.filter fun w => !(mine w.work) } }

/-- A channel held by a SYNC goes on once nothing earlier is incomplete (R36). -/
def endSync (ch : BitVec 21) (s : State) : State :=
  match chan? s ch with
  | some c => if c.state == .blocked && c.blockCause == 1 && !(incomplete s ch) then putChan ch (unblock c) s else s
  | none => s

/-- A command stopped with its parish is counted for the log entry of the retirement (R474). -/
def countStopped (st : BitVec 8) (q : Option (BitVec 6)) (s : State) : State :=
  match q with
  | some q => if st = stStopped then modParish q.toNat (fun p => { p with stoppedCmds := p.stoppedCmds + 1 }) s else s
  | none => s

/-- A command completes (R32, R78, R87, R135). -/
def finish (id : Nat) (st : BitVec 8) (dev : BitVec 9) (result : Word) (s : State) : State :=
  match cmd? s id with
  | none => s
  | some c =>
    if c.phase == .done then s
    else
      let s := dropUnits (fun u => u.use == .cmd id) (endMill id (endSlots id (endTags c (leaveRecords (.cmd id) s))))
      let s := { s with
        tx := { s.tx with queries := s.tx.queries.filter fun q => q.cmd != id }
        eng := { s.eng with tagWait := s.eng.tagWait.erase id } }
      let s := modCmd id (fun c => { c with
        phase := .done, status := st, device := dev, result := if stGood st then result else 0, doneAt := now s, reading := false, writing := 0 }) s
      let s := if stGood st then s else modChan c.ch (fun x => { x with errMark := true }) s
      endSync c.ch (countStopped st c.parish s)

/-- A write that a command made locally is not acknowledged yet: its own, or that of a response landed for it (R42). -/
def ownWrites (s : State) (id : Nat) : Bool :=
  s.memp.writes.any fun w => match w.use with
    | .command n _ => n == id
    | .mgmt n => n == id
    | .commit a => (arrival? s a).any fun x => x.cmd == some id
    | _ => false

/-- A command drops what waits for it: records, tags, its place at the Mill (R158, R322). -/
def unqueue (id : Nat) (s : State) : State :=
  let s := endMill id (leaveRecords (.cmd id) s)
  { s with eng := { s.eng with tagWait := s.eng.tagWait.erase id } }

/-- A command is stopped where it stands, with a status. It completes at once, or, where a write of its own is unacknowledged, once that has
ended (R32, R42). -/
def endStopped (id : Nat) (st : BitVec 8) (s : State) : State :=
  if !(ownWrites s id) then finish id st 0 0 s
  else
    let owing := (unitsOf s id).flatMap fun u => if u.charged then u.owed else []
    let s := dropUnits (fun u => u.use == .cmd id) (unqueue id s)
    let s := { s with tx := { s.tx with queries := s.tx.queries.filter fun q => q.cmd != id } }
    modCmd id (fun c => { c with
      phase := .active, halt := true, reading := false, redo := false, staged := [], outw := none, fails := (0, st, 0) :: c.fails, lost := [], late := []
      targets := c.targets.map fun t => { t with lost := t.lost || owing.contains t.dev } }) s

/-! ## Results (R135) -/

/-- Rows sent or written by an indexed command: one for each entry of its list that is not SKIP (R124, R135). -/
def ixRows (c : Cmd) : Nat := if (shapeOf c.pkt).rowBytes = 0 then 0 else ((c.index.getD []).filter fun e => !ixSkip e).length

/-- RESULT on success. -/
def resultOf (c : Cmd) : Word :=
  let op := pkOp c.pkt
  if op = opMput then delivered c
  else if op = opAmof then c.result
  else if op = opAmo then 0
  else if op = opXform then BitVec.ofNat 64 c.next
  else if op = opCopy then BitVec.ofNat 64 c.moved
  else if pkIndexed c.pkt then BitVec.ofNat 64 (ixRows c)
  else BitVec.ofNat 64 (shapeOf c.pkt).total

/-! ## Lost commands (R58, R59) -/

/-- A target's signal still needs a resolution. -/
def unresolved (t : Target) : Bool :=
  !t.stopped && !t.dropped && (t.sig == .toSend || t.sig == .sent)

/-- A command may await the resolution of its signal at a device: it counts there already, or a slot is free (R45). -/
def queryRoom (s : State) (id : Nat) (d : Nat) : Bool :=
  (sigSlots s d).active.contains id || decide ((sigSlots s d).active.length + (sigSlots s d).cancelled.length < 16)

/-- A command counts at a device (R45). -/
def takeQuerySlot (id d : Nat) (s : State) : State :=
  if (sigSlots s d).active.contains id then s
  else { s with tal := { s.tal with slots := Tab.upd {} s.tal.slots d fun x => { x with active := x.active ++ [id] } } }

/-- A sealed parish's resolution query is authenticated under its pair's slot (R358). -/
def authQuery (id : Nat) (d : BitVec 9) (q : Txn) (s : State) : Txn × State :=
  let par := ((cmd? s id).map Cmd.q).getD 0
  if d != ownId s && parSealed s par then match sealSlot? s par d with
    | some x => authAnswer par x.2.gen 0 q s
    | none => (q, s)
  else (q, s)

/-- Set the fate of a command's signal at a device. -/
def setFate (id : Nat) (d : BitVec 9) (f : SigFate) (s : State) : State :=
  modCmd id (fun c => { c with targets := c.targets.map fun x => if x.dev == d then { x with sig := f } else x }) s

/-- A resolution query is outstanding, and goes out (R59, R176). -/
def postQuery (id : Nat) (t : Target) (q : Txn) (s : State) : State :=
  sendUncharged .self q { s with tx := { s.tx with
    queries := s.tx.queries ++ [{ id := s.tx.nextId, cmd := id, dev := t.dev, tag := t.tag, deadline := later (now s) (effTimeout s), auth := q.sealSlot }]
    nextId := s.tx.nextId + 1 } }

/-- Ask one target for the fate of its signal, on the lowest plane of its mask; with none it stays unknown (R59, R176). The command counts there from
then on, and waits to ask where 16 do already (R45). -/
def sendQuery (id : Nat) (t : Target) (s : State) : State :=
  let q : Txn := { kind := BitVec.ofNat 5 kQuery, len := 1, src := ownId s, dest := t.dev, epoch := epochBit s, tag := t.tag, signal := true, answer := true }
  if t.dev != ownId s && activeMask s t.dev == 0 then setFate id t.dev .unknown s
  else if !(queryRoom s id t.dev.toNat) then s
  else
    let r := authQuery id t.dev q (takeQuerySlot id t.dev.toNat s)
    postQuery id t r.1 (setFate id t.dev .querying r.2)

/-- The status a lost command takes from the table of R58 once nothing of it is outstanding. A member of an MPUT whose fate stays open decides
before one that proved CANCELLED (R274). -/
def lostStatus (c : Cmd) : List (BitVec 8) :=
  if c.lost.isEmpty then []
  else if pkSignalled c.pkt then
    let ts := c.targets.filter fun t => !t.stopped && !t.dropped
    if ts.all (fun t => t.sig == .applied) then []
    else if c.op.toNat = opMput then (if ts.all (fun t => t.sig == .applied || t.sig == .notApplied) then [stLinkDown] else [stUnknown])
    else if ts.any (fun t => t.sig == .notApplied) then [stLinkDown]
    else [stUnknown]
  else c.lost

/-- A member whose signal proved applied counts as delivered whatever was lost (R58, R59). -/
def provedApplied (c : Cmd) : Cmd :=
  { c with targets := c.targets.map fun t => if t.sig == .applied then { t with lost := false } else t }

/-- The command issues nothing more: no stripe left, or halted. -/
def issued (c : Cmd) : Bool := (nextStripe c).isNone && (c.op.toNat != opXform || c.halt || decide (bits (pw c.pkt 4) 32 32 ≤ c.next))

/-- Complete a command when every item it issued has ended; resolve the signals of a lost one first (R32, R46, R58, R59, R128). -/
def checkDone (id : Nat) (s : State) : State :=
  match cmd? s id with
  | none => s
  | some c =>
    if c.phase != .active || outstanding s id || !(issued c) then s
    else
      let open_ := if c.lost.isEmpty || !(pkSignalled c.pkt) then [] else c.targets.filter unresolved
      let s := open_.foldl (fun s t => sendQuery id t s) s
      if outstanding s id then s
      else match cmd? s id with
        | none => s
        | some c =>
          if !c.lost.isEmpty && pkSignalled c.pkt && c.targets.any unresolved then s
          else
          let c := provedApplied { c with lost := lostStatus c }
          let (st, d) := if c.op.toNat = opMput then decideMput c else decideStatus c
          finish id st d (resultOf c) s

/-- Lost commands that wait to ask a target for the fate of their signals ask again (R45, R59). -/
def retryQueries (s : State) : State :=
  (s.eng.cmds.filter fun c => c.phase == .active && !c.lost.isEmpty && pkSignalled c.pkt && c.targets.any unresolved).foldl (fun s c => checkDone c.id s) s

/-! ## Failures of items -/

/-- A failure of group 1 of R129 at a target: the source issues no more to it; its signal counts as resolved (R128-R130). -/
def failItem (id key : Nat) (st : BitVec 8) (dev : BitVec 9) (s : State) : State :=
  modCmd id (fun c => { c with
    fails := c.fails ++ [(key, st, dev)]
    device := dev
    targets := c.targets.map fun t => if t.dev == dev then { t with stopped := true, sig := if t.sig == .applied then .applied else .refused } else t }) s

/-- A failure the source finds itself, at the stripe it stops: the command issues no more (R129). -/
def failSelf (id key : Nat) (st : BitVec 8) (s : State) : State :=
  modCmd id (fun c => { c with fails := c.fails ++ [(key, st, 0)], halt := true }) s

/-- An item towards `dev` is lost with its plane: the command issues no more (R56, R58). -/
def loseItem (id : Nat) (st : BitVec 8) (dev : BitVec 9) (plane : Nat) (s : State) : State :=
  modCmd id (fun c => { c with
    lost := c.lost ++ [st]
    halt := true
    device := dev
    plane := BitVec.ofNat 7 plane
    targets := c.targets.map fun t => if t.dev == dev then { t with lost := true } else t }) s

/-- A command fails as a whole, keyed by a stripe: it issues no more and completes once what it has issued has ended, failures at lower
stripes deciding first (R129). One that has issued nothing completes at once. -/
def failWhole (id key : Nat) (st : BitVec 8) (s : State) : State :=
  match cmd? s id with
  | none => s
  | some c =>
    if c.phase == .done then s
    else if !c.admitted && c.targets.isEmpty then endStopped id st s
    else
      let s := unqueue id s
      checkDone id (modCmd id (fun c => { c with phase := .active, halt := true, redo := false, staged := [], outw := none, fails := (key, st, 0) :: c.fails }) s)

/-- A unit ends towards a device; the unit of a signal stays while some target's fate is open (R46, R57). -/
def unitEnds (uid : Nat) (d : BitVec 9) (s : State) : State :=
  match unit? s uid with
  | none => s
  | some u =>
    let u := { u with owed := u.owed.erase d }
    let waits := u.await && (match u.use with
      | .cmd id => match cmd? s id with
        | some c => c.targets.any fun t => u.dests.contains t.dev && t.sig == .sent
        | none => false
      | _ => false)
    sealFreed s (if u.owed.isEmpty && !waits then { s with tx := { s.tx with units := s.tx.units.filter fun v => v.id != uid } }
      else modUnit uid (fun _ => u) s)

/-- Uncharged units lose a destination: it leaves their wire mask; a unit without destinations goes (R128, R235, R273). -/
def unitsLeave (id : Nat) (d : BitVec 9) (s : State) : State :=
  let cut := fun (u : Xu) => if u.use == .cmd id && !u.charged && u.dests.contains d then
      { u with dests := u.dests.erase d, owed := u.owed.erase d,
               txn := if u.txn.cast = 0 then u.txn
                 else { u.txn with mask := setBit u.txn.mask (if u.txn.cast = 1 then (d.extractLsb' 0 6).toNat else (d.extractLsb' 6 3).toNat) false } }
    else u
  { s with tx := { s.tx with units := (s.tx.units.map cut).filter fun u => !(u.use == .cmd id && !u.charged && u.dests.isEmpty) } }

/-- A signal is resolved at a device: a signal transaction that has been acknowledged and waits for nobody else goes (R46). -/
def signalResolved (id : Nat) (s : State) : State :=
  let open_ := fun (d : BitVec 9) => match cmd? s id with
    | some c => c.targets.any fun t => t.dev == d && t.sig == .sent
    | none => false
  { s with tx := { s.tx with units := s.tx.units.filter fun u => !(u.use == .cmd id && u.await && u.charged && u.owed.isEmpty && !(u.dests.any open_)) } }

/-! ## Transactions of a command (R115-R127, R193-R199) -/

/-- The parish tag a command's transactions carry (R103). -/
def parTag (s : State) (q : BitVec 6) : BitVec 16 := (parish s q.toNat).tag

/-- The tag a command holds towards a device: one for all members of an MPUT. -/
def tagOf (c : Cmd) (d : BitVec 9) : BitVec 16 := ((c.targets.find? fun t => pkOp c.pkt == opMput || t.dev == d).map fun t => t.tag).getD 0

/-- The kind of a command's data stripes. -/
def dataKind (pkt : List Word) : Nat := if pkOp pkt = opRput then kRputSum + pkReduce pkt else kPutData

/-- A stripe's rows form one run at the target (R199). -/
def oneRun (p : Plan) : Bool := decide (p.rows ≤ 1) || p.pstride == p.rowBytes

/-- The header and argument fields of a stripe or request to one device (R196-R199). -/
def stripeTxn (s : State) (c : Cmd) (kind : Nat) (d : BitVec 9) (n : Nat) (p : Plan) : Txn :=
  let shaped := !(oneRun p) || (kind == kRputWsum && decide (1 < p.rows))
  let t : Txn := {
    kind := BitVec.ofNat 5 kind, len := 1, src := ownId s, dest := d, ptag := parTag s c.q, offset := BitVec.ofNat 48 p.off,
    format := BitVec.ofNat 5 (pkFormat c.pkt), arg := shaped || pkOrdered c.pkt, signalled := pkSignalled c.pkt, shaped := shaped,
    window := pkWindow c.pkt, tag := tagOf c d, stripe := BitVec.ofNat 40 n }
  let t := if shaped then { t with peerStride := BitVec.ofNat 32 p.pstride, rows := BitVec.ofNat 12 (p.rows - 1), rowBytes := BitVec.ofNat 12 (p.rowBytes - 1) }
    else { t with bytes := BitVec.ofNat 12 (p.bytes - 1) }
  if pkOrdered c.pkt then { t with count := BitVec.ofNat 5 (pkCount c.pkt), rank := BitVec.ofNat 4 (pkRank c.pkt) } else t

/-- Address a transaction to the remote members of an MPUT: row or column, wire mask, argument slot (R193, R199, R269). -/
def toMembers (pkt : List Word) (ms : List (BitVec 9 × Nat)) (t : Txn) : Txn :=
  { t with cast := if pkSubop pkt / 16 % 2 = 0 then 1 else 2, dest := pkDev pkt, arg := true,
           mask := ms.foldl (fun m x => m ||| BitVec.ofNat 64 (2 ^ x.2)) 0 }

/-- Present a transaction: to the command's one device, or to an MPUT's live members, the device itself served apart (R113, R269). -/
def presentTxn (id : Nat) (c : Cmd) (d : BitVec 9) (t : Txn) (s : State) : State :=
  if pkOp c.pkt = opMput then
    let live := (c.targets.filter Target.live).map fun x => (x.dev, x.memberBit)
    let wire := live.filter fun x => x.1 != ownId s
    let s := if wire.isEmpty then s else addUnit (.cmd id) (wire.map fun x => x.1) c.parish none (toMembers c.pkt wire t) s
    if live.any fun x => x.1 == ownId s then addUnit (.cmd id) [ownId s] c.parish none { t with dest := ownId s } s else s
  else addUnit (.cmd id) [d] c.parish none { t with dest := d } s

/-- Count a stripe presented at each target it goes to (R44). -/
def countPlanned (pkt : List Word) (d : BitVec 9) (ts : List Target) : List Target :=
  ts.map fun t => if t.live && (pkOp pkt == opMput || t.dev == d) then { t with planned := t.planned + 1 } else t

/-- The weights of a stripe's rows: a weight per source row, repeated for each piece of a long row (R119). -/
def weightPieces (c : Cmd) (p : Plan) : List (Nat × Nat) :=
  if pkWsum c.pkt then p.src.map fun r => ((pw c.pkt 13).toNat + 4 * r, 4) else []

/-- A data stripe leaves its engine: coded as its profile says and where that pays (R282, R283), with its weights (R119). `coded` is
the coded payload. -/
def emitStripe (id : Nat) (raw : List Byte) (coded : Option (List Byte)) (weights : List Byte) (s : State) : State :=
  match cmd? s id with
  | none => s
  | some c =>
    let n := c.next
    let p := planAt c n
    let t := { stripeTxn s c (dataKind c.pkt) p.dev n p with weights := (chunks 4 (weights.length / 4) weights).map fun b => BitVec.ofNat 32 (ofLE b) }
    let t := match coded with
      | some b => if worthCoding raw b then { t with coded := true, coding := codingWord c.profile (pkFormat c.pkt), payload := b } else { t with payload := raw }
      | none => { t with payload := raw }
    let s := presentTxn id c p.dev t s
    let s := bytesOut c.q p.bytes s
    modCmd id (fun c => { c with next := n + 1, moved := c.moved + p.bytes, staged := [], targets := countPlanned c.pkt p.dev c.targets }) s

/-- A request of GET or IGET for stripe `n` (R116, R125, R282). -/
def emitGet (id : Nat) (c : Cmd) (n : Nat) (s : State) : State :=
  let p := planAt c n
  let t := stripeTxn s c kGetRequest p.dev n p
  let t := if pkSubop c.pkt % 16 = 0 then t else { t with coded := true, coding := codingWord c.profile (pkFormat c.pkt) }
  let s := presentTxn id c p.dev t s
  modCmd id (fun c => { c with next := n + 1, targets := countPlanned c.pkt p.dev c.targets }) s

/-- The request of an AMO or AMOF (R126, R127). -/
def emitAmo (id : Nat) (c : Cmd) (s : State) : State :=
  let d := pkDev c.pkt
  let t : Txn := {
    kind := BitVec.ofNat 5 (if pkOp c.pkt = opAmo then kAmo else kAmof), len := 1, src := ownId s, dest := d, ptag := parTag s c.q,
    offset := BitVec.ofNat 48 (pkOffset c.pkt), window := pkWindow c.pkt, tag := tagOf c d, operand := pw c.pkt 4, compare := pw c.pkt 5,
    subop := BitVec.ofNat 8 (pkSubop c.pkt) }
  let s := presentTxn id c d t s
  modCmd id (fun c => { c with next := 1, targets := countPlanned c.pkt d c.targets }) s

/-- The signal transaction of a command to one target, or to an MPUT's members (R44, R106). EXPECTED is the stripes sent to it. -/
def emitSignal (id : Nat) (c : Cmd) (x : Target) (s : State) : State :=
  let t : Txn := {
    kind := BitVec.ofNat 5 kSignal, len := 1, src := ownId s, dest := x.dev, ptag := parTag s c.q,
    offset := BitVec.ofNat 48 (bits (pkSigCtl c.pkt) 3 37 * 8), format := BitVec.ofNat 5 (pkFormat c.pkt), signalled := true, tag := x.tag,
    signal := true, sigCtl := pkSigCtl c.pkt, sigValue := pkSigValue c.pkt, expected := BitVec.ofNat 40 x.planned }
  let n := s.tx.nextId
  let s := presentTxn id c x.dev t s
  let s := { s with tx := { s.tx with units := s.tx.units.map fun u => if n ≤ u.id then { u with await := true } else u } }
  let mine := fun (y : Target) => y.live && (pkOp c.pkt == opMput || y.dev == x.dev)
  modCmd id (fun c => { c with targets := c.targets.map fun y => if mine y then { y with sig := .sent } else y }) s

/-- Every data stripe has been presented: the signal transactions follow, one per target, one for all members of an MPUT (R44). -/
def emitSignals (id : Nat) (s : State) : State :=
  match cmd? s id with
  | none => s
  | some c =>
    if !(pkSignalled c.pkt) || c.halt then s
    else
      let due := c.targets.filter fun t => t.live && t.sig == .toSend
      (if pkOp c.pkt = opMput then due.take 1 else due).foldl (fun s t => emitSignal id c t s) s

/-! ## Waiting for the Mill (R322-R324) -/

/-- The gang a dense rotation takes, by K and N (R323). -/
def rotGang (k n : Nat) : Nat := if k ≤ 128 then 0 else if n ≤ 128 then 2 else 3

/-- The stones of a gang at an aligned position, by shape (R309). -/
def gangStones (gang : Nat) : List (List Nat) :=
  if gang = 1 ∨ gang = 2 then [[0, 1], [2, 3], [4, 5], [6, 7]]
  else if gang = 3 then [[0, 1, 2, 3], [4, 5, 6, 7]]
  else if gang = 4 then [[0, 1, 2, 3, 4, 5, 6, 7]]
  else [[0], [1], [2], [3], [4], [5], [6], [7]]

/-- The pool a stone is assigned to: 0 TRANSFER, 1 JOB, 2 OUT_OF_SERVICE (R321); an automatic removal counts as 2 (R330). -/
def poolSet (s : State) (n : Nat) : Nat :=
  if memb s.mil.autoOos n then 2 else (s.mil.pool.toNat / 4 ^ n) % 4

/-- The pool a stone serves: while it works, the one its work was taken under (R321). -/
def poolOf (s : State) (n : Nat) : Nat := ((stone s n).oldPool).getD (poolSet s n)

/-- A pool's in-service stones can form a gang shape (R322, R324). -/
def canForm (s : State) (pool gang : Nat) : Bool := (gangStones gang).any fun g => g.all fun n => poolOf s n == pool

/-- The matrix shape as MILL_POOL_SHAPE gives it: K [31:16], N [15:0] (R396). -/
def shapeAddr (k n : Nat) : Nat := k * 65536 + n

/-- Work joins those that wait for a gang; MILL_POOL_SHAPE when a rotation is the first to wait for a shape that the TRANSFER pool
cannot form (R324). -/
def millWait (w : MillWork) (gang shape : Nat) (s : State) : State :=
  let isJob := fun (x : MillWork) => match x with
    | .job _ => true
    | _ => false
  let first := !(isJob w) && !(canForm s 0 gang) && !(s.mil.waiting.any fun x => !(isJob x.work) && x.gang == gang)
  let s := { s with mil := { s.mil with
    waiting := s.mil.waiting ++ [{ id := s.mil.nextId, work := w, gang := gang, waitEnd := waitEnd s }], nextId := s.mil.nextId + 1 } }
  if first then raise srcMill kMillPoolShape shape [] none s else s

/-! ## Gangs at work (R310, R314, R326) -/

/-- The stones that work for something. -/
def workStones (s : State) (w : MillWork) : List Nat := (List.range 8).filter fun n => (stone s n).work == some w

/-- The gang of some work runs: it has stones, all RUNNING and loaded (R314, R326). -/
def gangReady (s : State) (w : MillWork) : Bool :=
  let g := workStones s w
  !g.isEmpty && g.all fun n => (stone s n).running && !(stone s n).loading && (stone s n).matrix.isSome

/-- The rows of an XFORM: how many, their elements, and the bytes of an input and an output row (R134, R310). -/
structure XfShape where
  rows : Nat
  k    : Nat
  n    : Nat
  trans : Bool
  inEl : Nat
  inBytes : Nat
  outFmt : Nat
  outBytes : Nat
  deriving DecidableEq, Repr

/-- An XFORM's shape. -/
def xfShape (pkt : List Word) : XfShape :=
  let k := bits (pw pkt 4) 16 16
  let n := bits (pw pkt 4) 0 16
  let t := bitAt (pw pkt 6) 4
  let outFmt := if pkSubop pkt % 4 = 0 then 3 else if pkSubop pkt % 4 = 1 then 1 else 2
  { rows := bits (pw pkt 4) 32 32, k := k, n := n, trans := t, inEl := if t then n else k, inBytes := (if t then n else k) * elemSize (pkFormat pkt),
    outFmt := outFmt, outBytes := (if t then k else n) * elemSize outFmt }

/-- The pieces of rows `r` to `r + m` of an XFORM's input, or of its output. -/
def xfRows (pkt : List Word) (output : Bool) (r m : Nat) : List (Nat × Nat) :=
  let x := xfShape pkt
  let base := if output then (pw pkt 2).toNat else (pw pkt 1).toNat
  let stride := if output then bits (pw pkt 5) 32 32 else bits (pw pkt 5) 0 32
  (List.range m).map fun i => (base + (r + i) * stride, if output then x.outBytes else x.inBytes)

/-- Rows of the next staged block: at most 16 (R162). -/
def xfBlock (c : Cmd) : Nat := min 16 ((xfShape c.pkt).rows - c.next)

/-! ## Local reads and writes -/

/-- The physical pieces of a command's virtual pieces. -/
def Cmd.phys (c : Cmd) (pieces : List (Nat × Nat)) : List (Nat × Nat) := physAll c.ranges pieces

/-- The address range of pieces, for invalidations (R162). -/
def spanUse (q : BitVec 6) (ps : List (Nat × Nat)) : Option (BitVec 6 × Nat × Nat) :=
  match ps with
  | [] => none
  | p :: rest =>
    let lo := rest.foldl (fun m x => min m x.1) p.1
    let hi := rest.foldl (fun m x => max m (x.1 + x.2)) (p.1 + p.2)
    some (q, lo, hi - lo)

/-- Read local memory for a command, piece by piece of its address space (R162, R428). -/
def readFor (use : ReadFor) (c : Cmd) (pieces : List (Nat × Nat)) (s : State) : State :=
  let s := issueRead use (c.phys pieces) 3 c.agent (spanUse c.q pieces) s
  watchLocal c.q wRead pieces s

/-- Write local memory for a command, in a class of R28. -/
def writeFor (use : WriteFor) (c : Cmd) (pieces : List (Nat × Nat)) (cells : List (Nat × Byte)) (cls : BitVec 3) (s : State) : State :=
  let s := issueWrite use cells cls true c.agent (spanUse c.q pieces) s
  watchLocal c.q wWrite pieces s

/-! ## COPY (R117, R305) -/

/-- A physical byte lies in pieces. -/
def inPieces (a : Nat) (ps : List (Nat × Nat)) : Bool := ps.any fun p => decide (p.1 ≤ a) && decide (a < p.1 + p.2)

/-- A byte of destination that the spec leaves unspecified: its 8-B word holds a byte that is both source and destination (R117,
R310). -/
def clash (src dst : List (Nat × Nat)) (a : Nat) : Bool :=
  (List.range 8).any fun i => inPieces (a / 8 * 8 + i) src && inPieces (a / 8 * 8 + i) dst

/-- Cells whose overlapped bytes are free values. -/
def freedCells (src dst : List (Nat × Nat)) (cells : List (Nat × Byte)) (s : State) : List (Nat × Byte) × State :=
  (cells.foldl (fun (r : List (Nat × Byte) × Nat) x => if clash src dst x.1 then (r.1 ++ [(x.1, Config.freeByte r.2)], r.2 + 1) else (r.1 ++ [x], r.2)) ([], s.free)
    |> fun r => (r.1, { s with free := r.2 }))

/-- Every input and output byte of an XFORM, where it translates to now and where it did (R310). -/
def xfSides (c : Cmd) : List (Nat × Nat) × List (Nat × Nat) :=
  let rows := (xfShape c.pkt).rows
  (c.phys (xfRows c.pkt false 0 rows) ++ physAll c.was (xfRows c.pkt false 0 rows), c.phys (xfRows c.pkt true 0 rows) ++ physAll c.was (xfRows c.pkt true 0 rows))

/-- Every source and destination byte of a COPY: the shape on its FORMAT side, a stream on a coded side. -/
def copySides (s : State) (c : Cmd) : List (Nat × Nat) × List (Nat × Nat) :=
  let h := shapeOf c.pkt
  let ps := (List.range (planCount c)).map (planAt c)
  let rowsAt := fun (p : Plan) => (List.range p.rows).map fun i => (p.off + i * p.pstride, p.rowBytes)
  let (k, m) := profDims s c.q c.profile
  let enc := encodeTotal c.profile (pkFormat c.pkt) h k m
  let coded := pkSubop c.pkt % 16 != 0
  let decode := pkSubop c.pkt / 16 % 2 == 1
  let src := if coded && decode then [((pw c.pkt 1).toNat, enc)] else ps.flatMap fun p => p.pieces
  let dst := if coded && !decode then [((pw c.pkt 2).toNat, enc)] else ps.flatMap rowsAt
  (c.phys src ++ physAll c.was src, c.phys dst ++ physAll c.was dst)

/-- Source bytes that a write of a COPY covers, as they are now: what later stripes read stays what the source held (R117). -/
def keepSource (s : State) (src : List (Nat × Nat)) (cells : List (Nat × Byte)) (kept : List (Nat × Byte)) : List (Nat × Byte) :=
  kept ++ ((cells.filter fun x => inPieces x.1 src && !(kept.any fun k => k.1 == x.1)).map fun x => (x.1, readOver s.mem s.memp.writes x.1))

/-- The bytes of pieces with those that the command itself has covered put back (R117). -/
def sourceOf (c : Cmd) (pieces : List (Nat × Nat)) (bs : List Byte) : List Byte :=
  (cellsOver (c.phys pieces) bs).map fun x => ((c.kept.find? fun k => k.1 == x.1).map fun k => k.2).getD x.2

/-- The stripe of a COPY DECODE as a segment of its stream: the bytes to read at the running source offset (R305). -/
def copySegment (s : State) (c : Cmd) (p : Plan) : Nat :=
  let (k, m) := profDims s c.q c.profile
  encodeBound c.profile (pkFormat c.pkt) p.bytes k m

/-- What a COPY reads for stripe `n`. -/
def copyPieces (s : State) (c : Cmd) (n : Nat) : List (Nat × Nat) :=
  if pkSubop c.pkt % 16 != 0 && pkSubop c.pkt / 16 % 2 == 1 then [((pw c.pkt 1).toNat + c.srcOff, copySegment s c (planAt c n))]
  else (planAt c n).pieces

/-- Write a COPY's bytes for stripe `n`: under the peer strides, or at the end of the stream written so far. Where an invalidation has withdrawn the
destination meanwhile, they are kept until it is translated again (R15, R163). -/
def copyOut (id : Nat) (bs : List Byte) (s : State) : State :=
  match cmd? s id with
  | none => s
  | some c =>
    if c.redo then modCmd id (fun c => { c with outw := some bs, staged := [] }) s
    else
    let p := planAt c c.next
    let stream := pkSubop c.pkt % 16 != 0 && pkSubop c.pkt / 16 % 2 == 0
    let pieces := if stream then [((pw c.pkt 2).toNat + c.moved, bs.length)] else (List.range p.rows).map fun i => (p.off + i * p.pstride, p.rowBytes)
    let sides := copySides s c
    let (cells, s) := freedCells sides.1 sides.2 (cellsOver (c.phys pieces) bs) s
    let kept := keepSource s sides.1 cells c.kept
    let s := writeFor (.command id c.next) c pieces cells 3 s
    modCmd id (fun c => { c with next := c.next + 1, moved := c.moved + bs.length, srcOff := if stream then c.srcOff + p.bytes else c.srcOff, writing := c.writing + 1, staged := [], kept := kept, outw := none }) s

/-- Write an XFORM's output rows from the next one on; they are kept as a COPY's stripe is where their destination has been withdrawn (R15, R163, R310). -/
def rowsOut (id : Nat) (bs : List Byte) (s : State) : State :=
  match cmd? s id with
  | none => s
  | some c =>
    if c.redo then modCmd id (fun c => { c with outw := some bs, staged := [] }) s
    else
      let rows := bs.length / (xfShape c.pkt).outBytes
      let pieces := xfRows c.pkt true c.next rows
      let sides := xfSides c
      let (cells, s) := freedCells sides.1 sides.2 (cellsOver (c.phys pieces) bs) s
      let kept := keepSource s sides.1 cells c.kept
      let s := writeFor (.command id c.next) c pieces cells 3 s
      modCmd id (fun c => { c with next := c.next + rows, writing := c.writing + 1, staged := [], kept := kept, outw := none }) s

/-- A mode-L segment: header, payload, padding to 32 B (R305). Its payload ends with zero bits up to a slot boundary, as R290 has it. RAW is 1
where the stream would take as many slots with its coding slot as the elements themselves, the test of R283. DESIGN CHOICE: see log entry
142. -/
def segmentL (raw payload : List Byte) : List Byte :=
  let useRaw := decide (ceilDiv raw.length 32 < 1 + ceilDiv payload.length 32)
  let body := if useRaw then raw else payload ++ List.replicate (32 * ceilDiv payload.length 32 - payload.length) 0
  let all := leBytes 8 (body.length + (if useRaw then 2 ^ 32 else 0)) ++ body
  all ++ List.replicate (32 * ceilDiv all.length 32 - all.length) 0

/-- Read a mode-L segment for a stripe of `n` bytes: its bytes and length; none where R305 or R285 rejects it. -/
def readSegment (prof : Word) (fmt n : Nat) (bs : List Byte) : Option (List Byte × Nat) :=
  let head := ofLE (bs.take 8)
  let len := head % 2 ^ 32
  let size := 32 * ceilDiv (8 + len) 32
  let body := (bs.drop 8).take len
  let pad := (bs.take size).drop (8 + len)
  if 2 ^ 33 ≤ head ∨ bs.length < size ∨ pad.any (· != 0) then none
  else if 2 ^ 32 ≤ head then (if len = n then some (body, size) else none)
  else match wireL (codingWord prof fmt) (elemCount fmt n) body with
    | some out => some (out, size)
    | none => none

/-- A COPY has its source bytes for stripe `next`: code, decode or pass on; a dense rotation waits for a gang (R117, R299, R305). -/
def copyStripe (id : Nat) (bs : List Byte) (s : State) : State :=
  match cmd? s id with
  | none => s
  | some c =>
    let fmt := pkFormat c.pkt
    let p := planAt c c.next
    let (k, m) := profDims s c.q c.profile
    let bs := sourceOf c (copyPieces s c c.next) bs
    if pkSubop c.pkt % 16 = 0 then copyOut id bs s
    else if profRot c.profile = 2 then
      millWait (.egress id) (rotGang k m) (shapeAddr k m) (modCmd id (fun c => { c with staged := bs, phase := .gang }) s)
    else if pkSubop c.pkt / 16 % 2 = 0 then
      copyOut id (if profMode c.profile = 1 then segmentL bs (codeL fmt c.tables bs) else codeStripe c.profile fmt c.tables bs) s
    else if profMode c.profile = 1 then match readSegment c.profile fmt p.bytes bs with
      | some (out, size) => copyOut id out (modCmd id (fun c => { c with srcOff := c.srcOff + size }) s)
      | none => failSelf id c.next stData s
    else
      let w := codingWord c.profile fmt
      match decodeStripe true w p.bytes k m bs with
      | .bad => failSelf id c.next stData s
      | d => copyOut id (decodedBytes w d) (modCmd id (fun c => { c with srcOff := c.srcOff + bs.length }) s)

/-! ## Presenting stripes -/

/-- A command has a transaction that waits for credit or placement. -/
def hasWaiting (s : State) (id : Nat) : Bool := (unitsOf s id).any fun u => !u.charged

/-! ## What a command has not issued (R15, R162) -/

/-- The span around pieces, from their lowest to their highest byte (R153). -/
def spanAround (ps : List (Nat × Nat)) : List Span :=
  match spanUse 0 (ps.filter fun p => p.2 != 0) with
  | some (_, lo, len) => [{ va := lo, len := len }]
  | none => []

/-- Stripes from the `n`th on. -/
def plansFrom (c : Cmd) (n : Nat) : List Plan := (List.range (planCount c - n)).map fun i => planAt c (n + i)

/-- The first stripe, or row, whose source is still to be read. -/
def unread_ (c : Cmd) : Nat := if c.reading || !c.staged.isEmpty || c.outw.isSome then c.next + (if pkOp c.pkt = opXform then xfBlock c else 1) else c.next

/-- The destination rows of a COPY's stripe. -/
def copyRows (p : Plan) : List (Nat × Nat) := (List.range p.rows).map fun i => (p.off + i * p.pstride, p.rowBytes)

/-- A response stripe of a GET or IGET is still to be written: not requested yet, requested, or landed (R165). -/
def unwritten (s : State) (c : Cmd) (n : Nat) : Bool :=
  decide (c.next ≤ n) || (unitsOf s c.id).any (fun u => u.txn.stripe.toNat == n)
  || s.brn.arrivals.any (fun a => a.cmd == some c.id && a.state != .writing && a.txn.stripe.toNat == n)

/-- The matrix of an egress rotation is still to be loaded for a stripe. -/
def rotationLeft (s : State) (c : Cmd) : Bool :=
  profRot c.profile == 2 && decide (c.next + (if (workStones s (.egress c.id)).isEmpty then 0 else 1) < planCount c)

/-- The spans of what an admitted command has not issued: the source of stripes not read, the destination of stripes not written, the matrix of
rotations and jobs that hold no gang (R15, R162, R165). -/
def leftSpans (s : State) (c : Cmd) : List Span :=
  let op := pkOp c.pkt
  let h := shapeOf c.pkt
  let (k, m) := profDims s c.q c.profile
  let enc := encodeTotal c.profile (pkFormat c.pkt) h k m
  let coded := pkSubop c.pkt % 16 != 0
  let decode := pkSubop c.pkt / 16 % 2 == 1
  let mat := if 1 ≤ op ∧ op ≤ 7 ∧ op ≠ opGet ∧ op ≠ opIget ∧ rotationLeft s c then match regOf s c.q (profMatrix c.profile) with
      | some r => spanAround [(r.va, k * m * 2)]
      | none => []
    else []
  if op = opGet ∨ op = opIget then
    spanAround (((List.range (planCount c)).filter (unwritten s c)).flatMap fun n => (planAt c n).pieces)
  else if op = opAmof then (if unwritten s c 0 then spanAround [((pw c.pkt 1).toNat, 8)] else [])
  else if c.halt then match c.outw with
    | some bs => if op = opXform then spanAround (xfRows c.pkt true c.next (bs.length / (xfShape c.pkt).outBytes)) else []
    | none => []
  else if op = opXform then
    let rows := (xfShape c.pkt).rows
    spanAround (xfRows c.pkt false (unread_ c) (rows - unread_ c)) ++ spanAround (xfRows c.pkt true c.next (rows - c.next))
    ++ (if (workStones s (.job c.id)).isEmpty then spanAround [((pw c.pkt 3).toNat, (xfShape c.pkt).k * (xfShape c.pkt).n * elemSize (pkFormat c.pkt))] else [])
  else if op = opCopy then
    (if coded && decode then spanAround (if (plansFrom c (unread_ c)).isEmpty then [] else [((pw c.pkt 1).toNat + c.srcOff, enc - c.srcOff)])
     else spanAround ((plansFrom c (unread_ c)).flatMap fun p => p.pieces))
    ++ (if coded && !decode then spanAround (if (plansFrom c c.next).isEmpty then [] else [((pw c.pkt 2).toNat + c.moved, enc - c.moved)])
        else spanAround ((plansFrom c c.next).flatMap copyRows))
    ++ mat
  else
    spanAround ((plansFrom c (unread_ c)).flatMap fun p => p.pieces) ++ spanAround ((plansFrom c (unread_ c)).flatMap (weightPieces c)) ++ mat

/-! ## Translation that an invalidation asks for, and the next work (R15, R109, R162) -/

/-- A command that has issued nothing to anyone yet, or has work of its own to issue, translates: the spans of an admitted command are those
of what it has not issued (R15, R153, R158). -/
def startXlate (s : State) (c : Cmd) : Cmd :=
  let spans := if c.admitted then leftSpans s c else spansWith s c.q c.pkt c.profile
  { c with phase := .translating, spans := sortBy (fun p => p.va) spans, ranges := [], was := c.was ++ c.ranges, bads := [], recs := [],
           noRecord := false, redo := false }

/-- A command that has failed and issues nothing more waits for no translation. -/
def noMoreXlate (id : Nat) (s : State) : State :=
  match cmd? s id with
  | none => s
  | some c =>
    if c.admitted && c.halt && (c.phase == .translating || c.phase == .parked) && (leftSpans s c).isEmpty then
      leaveRecords (.cmd id) (modCmd id (fun c => { c with phase := .active }) s)
    else s

/-- The next work of an active command whose translation stands: the read of its next stripe, its next request, then its signals, then
completion. One stripe waits for credit at a time; a COPY writes one stripe at a time. An XFORM reads its next block of rows once the last is
written. A command that an invalidation has reached translates what is left again first (`resumeXlate`). -/
def feed (id : Nat) (s0 : State) : State :=
  let s := noMoreXlate id s0
  match cmd? s id with
  | none => s
  | some c =>
    let op := pkOp c.pkt
    if c.phase != .active || c.reading || hasWaiting s id || (op == opCopy && c.writing != 0) || (c.redo && !(leftSpans s c).isEmpty) then s
    else if op = opXform then
      if c.writing != 0 || !(c.staged.isEmpty) then s
      else if c.outw.isSome then rowsOut id (c.outw.getD []) s
      else if issued c then checkDone id s
      else if gangReady s (.job id) then
        readFor (.source id) c (xfRows c.pkt false c.next (xfBlock c)) (modCmd id (fun c => { c with reading := true }) s)
      else s
    else match nextStripe c with
      | none => checkDone id (emitSignals id s)
      | some n =>
        let s := modCmd id (fun c => { c with next := n }) s
        if op = opGet ∨ op = opIget then emitGet id c n s
        else if op = opAmo ∨ op = opAmof then emitAmo id c s
        else match c.outw with
        | some bs => copyOut id bs s
        | none =>
          let pieces := if op = opCopy then copyPieces s c n else (planAt c n).pieces ++ weightPieces c (planAt c n)
          readFor (.source id) c pieces (modCmd id (fun c => { c with reading := true }) s)

/-! ## Tags (R110) -/

/-- A command holds its tags, or needs none: it becomes active; an XFORM waits for a gang (R322). -/
def activate (id : Nat) (s : State) : State :=
  match cmd? s id with
  | none => s
  | some c =>
    if pkOp c.pkt = opXform then
      millWait (.job id) (bits (pw c.pkt 6) 0 3) 0 (modCmd id (fun c => { c with phase := .gang, admitted := true }) s)
    else feed id (modCmd id (fun c => { c with phase := .active, admitted := true }) s)

/-- A command holds every tag it needs. It becomes active, unless an invalidation makes it translate again first. -/
def hasTags (id : Nat) (s : State) : State :=
  match cmd? s id with
  | none => s
  | some c => if c.phase == .tags then activate id s else s

/-- Give one free tag to the command that has waited longest: for its next target, or for all members of an MPUT. -/
def grantOne (s : State) : Option State :=
  match s.eng.tagWait with
  | [] => none
  | id :: rest =>
    match cmd? s id with
    | none => some { s with eng := { s.eng with tagWait := rest } }
    | some c =>
      match c.needTags, freeTag s with
      | [], _ => some (hasTags id { s with eng := { s.eng with tagWait := rest } })
      | _, none => none
      | d :: ds, some n =>
        let tag := BitVec.ofNat 16 n
        let s := { s with eng := { s.eng with tagsUsed := s.eng.tagsUsed ++ [tag] } }
        let s := modCmd id (fun c => { c with
          needTags := ds
          targets := c.targets.map fun t => if pkOp c.pkt == opMput || t.dev == d then { t with tag := tag } else t }) s
        if ds.isEmpty then some (hasTags id { s with eng := { s.eng with tagWait := rest } }) else some s

/-- Give free tags out in the order in which commands began to wait. -/
def giveTags : Nat → State → State
  | 0, s => s
  | n + 1, s => match grantOne s with
    | none => s
    | some s => giveTags n s

/-- Grants enough for every waiting command. -/
def tagFuel (s : State) : Nat := (s.eng.tagWait.map fun id => 1 + ((cmd? s id).map fun c => c.needTags.length).getD 0).foldl (· + ·) 0

/-- A command begins to wait for its tags, and gets them at once where they are free and no other waits. -/
def seekTags (id : Nat) (s : State) : State :=
  let s := { s with eng := { s.eng with tagWait := s.eng.tagWait ++ [id] } }
  giveTags (tagFuel s) s

/-! ## Targets -/

/-- A target when the command reaches it. A member of an MPUT that is fenced by then counts as refused, and one that no plane reaches is left out
(R269, R273). -/
def newTarget (s : State) (c : Cmd) (d : BitVec 9) (bit : Nat) : Target :=
  let sig : SigFate := if pkSignalled c.pkt then .toSend else .none
  if pkOp c.pkt = opMput then
    let out := d != ownId s && fenced s c.q.toNat d.toNat
    { dev := d, tag := 0, sig := if out then .refused else sig, memberBit := bit, stopped := out, dropped := !out && d != ownId s && !(onWire s c.q d) }
  else { dev := d, tag := 0, sig := sig, memberBit := bit }

/-- The targets of a command, each once. -/
def targetsOf (s : State) (c : Cmd) : List Target :=
  let op := pkOp c.pkt
  if op = opCopy ∨ op = opXform then []
  else if op = opMput then
    let ms := (mputMembers c.pkt).map fun m => newTarget s c m.1 m.2
    let remote := (ms.filter fun t => t.live && t.dev != ownId s).map fun t => t.dev
    if commonMask s remote = 0 then ms.map fun t => if t.dev == ownId s || t.stopped then t else { t with dropped := true } else ms
  else if pkIndexed c.pkt then (ixDevs (c.index.getD [])).map fun d => newTarget s c d 0
  else [newTarget s c (pkDev c.pkt) 0]

/-- The first stripe towards a device. -/
def firstTo (c : Cmd) (d : BitVec 9) : Nat := ((firstFrom (fun n => (planAt c n).dev == d) (planCount c) 0).getD 0)

/-- Apply steps 4 to 6 of R114 to each indexed target (R128). -/
def checkIndexed (id : Nat) (s : State) : State :=
  match cmd? s id with
  | none => s
  | some c => c.targets.foldl (fun s t => match destCheck s c.q t.dev with
      | some st => failItem id (firstTo c t.dev) st t.dev s
      | none => s) s

/-- Translated, and its index list read: the command takes its targets and their tags. -/
def takeTargets (id : Nat) (s : State) : State :=
  match cmd? s id with
  | none => s
  | some c =>
    let ts := targetsOf s c
    let s := modCmd id (fun c => { c with phase := .tags, targets := ts, needTags := if pkOp c.pkt = opMput then [ownId s] else ts.map fun t => t.dev }) s
    let s := if pkIndexed c.pkt then checkIndexed id s else s
    if ts.isEmpty then activate id s else seekTags id s

/-! ## Translation (R153-R159) -/

/-- A record opened while GBL_TER_FAULT_CTL.EN is 0 takes a number and is aborted at once (R159). -/
def abortedSeq (s : State) : BitVec 32 × State := (s.ter.nextSeq, terSeq s)

/-- The faults of a command that has translated its spans: one record per granule, in increasing address, at most 16 (R156). With EN = 0 its
record is aborted at once (R159). -/
def openFaults (c : Cmd) (faults : List (Nat × Nat)) (s : State) : State :=
  let fs : List TerFault := ((sortBy (fun f => f.1) faults).take 16).map fun f => { parish := c.q, kind := f.2, firstVa := f.1 % 2 ^ 57, layer := pkLayer c.pkt }
  if terEn s then
    let s := openRecords fs (.cmd c.id) s
    modCmd c.id (fun x => { x with phase := .parked, spans := [], recs := joined s (.cmd c.id), noRecord := waitsRecord s (.cmd c.id) }) s
  else
    let (seq, s) := abortedSeq (fs.head?.elim s fun f => countTable f s)
    failWhole c.id c.next stAborted (modCmd c.id (fun x => { x with faultSeq := seq }) s)

/-- The destination of an admitted GET or IGET no longer translates RESIDENT: a record of the kind found takes a number, is written
with no waiters and closed, and the command fails with LOCAL_FAULT_ABORTED (R165). Its fault record is that of the first byte. -/
def abortGet (c : Cmd) (faults : List (Nat × Nat)) (s : State) : State :=
  match sortBy (fun f => f.1) faults with
  | [] => s
  | (va, k) :: _ =>
    let r := newRec { parish := c.q, kind := k, firstVa := va % 2 ^ 57, layer := pkLayer c.pkt } [] s
    let s := countTable { parish := c.q, kind := k, firstVa := va % 2 ^ 57, layer := pkLayer c.pkt } s
    let s := if terEn s then terWrite r s else s
    let s := terSeq s
    checkDone c.id (failSelf c.id c.next stAborted (modCmd c.id (fun x => { x with phase := .active, faultSeq := r.seq }) s))

/-- Read the next 64 B of a command's index list (R136). -/
def readIndex (id : Nat) (s : State) : State :=
  match cmd? s id with
  | none => s
  | some c =>
    let done_ := c.staged.length
    readFor (.index id) c [((pw c.pkt 8).toNat + done_, min 64 (8 * (shapeOf c.pkt).rows - done_))] (modCmd id (fun c => { c with reading := true }) s)

/-- A command waits at the Mill, or has a gang. -/
def atMill (s : State) (id : Nat) : Bool :=
  s.mil.waiting.any (fun w => w.work == .job id || w.work == .egress id) || !(workStones s (.egress id)).isEmpty

/-- Every span translates: an admitted command goes on where it stood; a new one reads its index list or takes its tags, or goes on waiting
for them. -/
def translated (id : Nat) (s : State) : State :=
  match cmd? s id with
  | none => s
  | some c =>
    if c.admitted then
      (if atMill s id then modCmd id (fun c => { c with phase := .gang }) s else feed id (modCmd id (fun c => { c with phase := .active }) s))
    else if pkIndexed c.pkt && c.index.isNone then readIndex id s
    else if c.targets.isEmpty then takeTargets id s
    else if c.needTags.isEmpty then activate id s
    else modCmd id (fun c => { c with phase := .tags }) s

/-- The first byte of a command's first span (R155). -/
def firstByte (s : State) (c : Cmd) : Nat := (((spansWith s c.q c.pkt c.profile).head?).map fun p => p.va).getD 0

/-- Translate what is left of a command's spans from the cache; start a walk, open fault records, or go on (R153, R154). -/
def xlate (id : Nat) (s : State) : State :=
  match cmd? s id with
  | none => s
  | some c =>
    if c.phase != .translating || c.reading then s
    else
      let x := translate s c.q (xlFuel s c.spans) { spans := c.spans, ranges := c.ranges, bads := c.bads.map (fun b => (b.1, b.2.toNat)), miss := none }
      let s := x.ranges.foldl (fun s r => touchCache c.q r.va s) s
      let s := modCmd id (fun c => { c with spans := x.spans, ranges := x.ranges, bads := x.bads.map fun b => (b.1, BitVec.ofNat 8 b.2) }) s
      match x.miss with
      | some va => startWalk c.q va false s
      | none =>
        if !x.bads.isEmpty then
          let s := modCmd id (fun c => { c with bads := [] }) s
          if c.admitted && (pkOp c.pkt == opGet || pkOp c.pkt == opIget) then abortGet c x.bads s else openFaults c x.bads s
        else if x.ranges.length > 32 then
          openFaults c [(firstByte s c, tFragmented)] s
        else translated id s

/-- A command translates anew, the lowest byte first, so that it finds its 16 lowest faults (R156, R158, R165). -/
def retranslate (id : Nat) (s : State) : State := xlate id (modCmd id (startXlate s) s)

/-- An invalidation reaches a command that holds an overlapping range: it translates again what it has not issued; where a read of its own is
outstanding, or its stripe has a gang, that goes on first (R15, R162, R163). -/
def invalidated (id : Nat) (s : State) : State :=
  match cmd? s id with
  | none => s
  | some c =>
    if c.reading || !(workStones s (.egress id)).isEmpty then modCmd id (fun c => { c with redo := true }) s
    else if c.admitted && (leftSpans s c).isEmpty then s
    else retranslate id s

/-- What held up a command that an invalidation has reached is over: it translates what is left again. -/
def resumeXlate (id : Nat) (s : State) : State :=
  match cmd? s id with
  | none => s
  | some c =>
    if !c.redo || c.reading || (c.phase != .active && c.phase != .gang && c.phase != .translating) then s
    else if c.admitted && (leftSpans s c).isEmpty then feed id (modCmd id (fun c => { c with redo := false }) s)
    else retranslate id s

/-- The source bytes of a stripe are back: code it and present it; a dense rotation waits for a gang (R299). -/
def sourceBack (id : Nat) (bs : List Byte) (s : State) : State := resumeXlate id <|
  match cmd? s id with
  | none => s
  | some c =>
    let s := modCmd id (fun c => { c with reading := false }) s
    if c.phase != .active then s
    else if c.halt || !(stripeLive c c.next) then feed id s
    else if pkOp c.pkt = opCopy then feed id (copyStripe id bs s)
    else
      let raw := bs.take (planAt c c.next).bytes
      let ws := bs.drop (planAt c c.next).bytes
      if pkSubop c.pkt % 16 = 0 then feed id (emitStripe id raw none ws s)
      else if profRot c.profile = 2 then
        let (k, m) := profDims s c.q c.profile
        millWait (.egress id) (rotGang k m) (shapeAddr k m) (modCmd id (fun c => { c with staged := bs, phase := .gang }) s)
      else feed id (emitStripe id raw (some (codeStripe c.profile (pkFormat c.pkt) c.tables raw)) ws s)

/-- The whole index list is back: entries from the first bad one on are cut off, and fail the command keyed by the stripe it would have
joined; no signal is sent then (R44, R123). -/
def indexRead (id : Nat) (bs : List Byte) (s : State) : State :=
  match cmd? s id with
  | none => s
  | some c =>
    let ws := bytesWords (bs.length / 8) bs
    let (_, bad) := ixPlans (pkFormat c.pkt) (shapeOf c.pkt) (pw c.pkt 1).toNat (pkOffset c.pkt) (destOk s) 0 ws []
    let goodLen := (firstFrom (fun n => (ixPlans (pkFormat c.pkt) (shapeOf c.pkt) (pw c.pkt 1).toNat (pkOffset c.pkt) (destOk s) 0 (ws.take (n + 1)) []).2.isSome)
      ws.length 0).getD ws.length
    let s := modCmd id (fun c => { c with staged := [], index := some (ws.take goodLen) }) s
    let s := match bad with
      | none => s
      | some key => modCmd id (fun c => { c with fails := c.fails ++ [(key, stBadCommand, 0)], pkt := c.pkt.set 6 0 |>.set 7 0 }) s
    if c.redo then retranslate id s else takeTargets id s

/-- 64 B of an index list are back: the next are read, until the list is whole (R136). -/
def indexBack (id : Nat) (bs : List Byte) (s : State) : State :=
  match cmd? s id with
  | none => s
  | some c =>
    let got := c.staged ++ bs
    let s := modCmd id (fun c => { c with reading := false, staged := got }) s
    if c.phase != .translating then checkDone id s
    else if got.length < 8 * (shapeOf c.pkt).rows then (if c.redo then retranslate id s else readIndex id s)
    else indexRead id got s

/-! ## Starting (R34, R82, R86, R114) -/

/-- A command starts: it takes its record index, HEAD moves past its packet, its parish is charged (R66, R84, R86). -/
def begin_ (ch : BitVec 21) (pkt : List Word) (engine : Option Nat) (rejected : Bool) (s : State) : State :=
  match chan? s ch with
  | none => s
  | some c =>
    let par := if ch = 0 then none else some c.parish
    let lvl := effPrio s ch c
    let s := if ch ≠ 0 ∧ chosen s = some ch.toNat then takeTurn ch c.parish lvl s else s
    let k : Cmd := { id := s.eng.nextId, ch := ch, parish := par, op := BitVec.ofNat 8 (pkOp pkt), pkt := pkt, ringIx := c.head, recIx := c.recNext,
                     engine := engine, rejected := rejected, start := now s, hangAt := now s }
    let c := { c with head := c.head + BitVec.ofNat 32 (pkEntries pkt), recNext := c.recNext + 1, started := c.started + 1, lastStart := s.chn.order }
    let s := putChan ch (markHalf s c) { s with
      eng := { s.eng with cmds := s.eng.cmds ++ [k], nextId := s.eng.nextId + 1 }
      chn := { s.chn with order := s.chn.order + 1 } }
    let s := if ch = 0 then s else tidyDeficits (chargeDeficit c.parish lvl pkt s)
    fetch ch s

/-- The number the next started command takes. -/
def nextCmd (s : State) : Nat := s.eng.nextId

/-- A command rejected at steps 1 to 3 of R114 starts and completes at once (R86). -/
def reject (ch : BitVec 21) (pkt : List Word) (st : BitVec 8) (s : State) : State := finish (nextCmd s) st 0 0 (begin_ ch pkt none true s)

/-- Copy the profile, and the tables of mode L, into the command's context (R281). -/
def takeProfile (id : Nat) (s : State) : State :=
  modCmd id (fun c =>
    let op := pkOp c.pkt
    let prof := if 1 ≤ op ∧ op ≤ 7 then (profileOf s c.q c.pkt).getD 0 else 0
    { c with profile := prof, tables := if profMode prof = 1 then (List.range 4).map (fun i => Tab.get (0x4444444444444444#64) (parish s c.q.toNat).tabs i) else [] }) s

/-- A zero-byte data command without a signal completes with OK at once (R112); with ROWS = 0 an indexed one has no entries. -/
def sendsNothing (pkt : List Word) : Bool :=
  decide (1 ≤ pkOp pkt) && decide (pkOp pkt ≤ 7) && (shapeOf pkt).total == 0
  && (!(pkSignalled pkt) || (pkIndexed pkt && (shapeOf pkt).rows == 0))

/-- The member that the record of an MPUT refused at admission names: the first that is fenced, or the first left that has no plane, else
the first left. DESIGN CHOICE: log entry 23. -/
def mputConcerned (s : State) (q : BitVec 6) (pkt : List Word) (st : BitVec 8) : BitVec 9 :=
  let ms := (mputMembers pkt).map fun m => m.1
  if st = stFenced then ms.headD 0
  else
    let left := ms.filter fun d => !(fenced s q.toNat d.toNat)
    ((left.find? fun d => activeMask s d == 0).orElse fun _ => left.head?).getD 0

/-- Admission of a command that passed steps 1 to 3: steps 4 to 6, then translation (R114). -/
def admission (id : Nat) (s : State) : State :=
  match cmd? s id with
  | none => s
  | some c =>
    match destinations s c.q c.pkt with
    | some st => finish id st (if pkOp c.pkt = opMput then mputConcerned s c.q c.pkt st else pkDev c.pkt) 0 s
    | none =>
      let s := takeProfile id s
      if sendsNothing c.pkt then finish id stOk 0 (if pkOp c.pkt = opMput then pw c.pkt 13 else 0) s
      else if pkOp c.pkt = opXform ∧ !(canForm s 1 (bits (pw c.pkt 6) 0 3)) then finish id stUnitAbsent 0 0 s
      else retranslate id s

/-- A row of the table acts on packets of its own opcode. -/
def asOp (op : Nat) (pkt : List Word) (f : State → State) (s : State) : State := if pkOp pkt = op then f s else s

/-- Start an engine command, when the scheduler may: rejected at once, or placed on an engine (R82, R84, R114). -/
def startEngine (ch : BitVec 21) (pkt : List Word) (s : State) : State :=
  match chan? s ch with
  | none => s
  | some c =>
    if !(mayStart s ch pkt) then s
    else match early s (ch == 0) c.parish pkt with
      | some st => reject ch pkt st s
      | none => match pickEngine s with
        | none => s
        | some e => admission (nextCmd s) (begin_ ch pkt (some e) false s)

/-- Start a front-end or management command that passes steps 1 to 3, where `may` says so; `run` gets its number. -/
def startWhere (may : Bool) (ch : BitVec 21) (pkt : List Word) (run : Nat → State → State) (s : State) : State :=
  match chan? s ch with
  | none => s
  | some c =>
    if !may then s
    else match early s (ch == 0) c.parish pkt with
      | some st => reject ch pkt st s
      | none =>
        if 0x40 ≤ pkOp pkt ∧ !(stewardRoom s ch c.parish) then s
        else run (nextCmd s) (begin_ ch pkt none false s)

/-- Start a front-end or management command when the scheduler does. -/
def startOther (ch : BitVec 21) (pkt : List Word) (run : Nat → State → State) (s : State) : State := startWhere (mayStart s ch pkt) ch pkt run s

/-- A management command completes at once. -/
def done (id : Nat) (st : BitVec 8) (result : Word) (s : State) : State := finish id st 0 result s

/-! ## Records (R35, R87, R88) -/

/-- The words of a completion record. -/
def recordWords (c : Cmd) (log2 : Nat) : List Word :=
  [flag (phaseBit c.recIx log2) 63 ||| place c.op.toNat 40 8 ||| place c.status.toNat 32 8 ||| place c.ringIx.toNat 0 32,
   c.result,
   place c.faultSeq.toNat 32 32 ||| place c.plane.toNat 16 7 ||| place c.device.toNat 0 9,
   place (pkLayer c.pkt).toNat 48 16 ||| place c.doneAt.toNat 0 48]

/-- The oldest command of a channel. -/
def oldest (s : State) (ch : BitVec 21) : Option Cmd := s.eng.cmds.find? fun c => c.ch == ch

/-- Issue the record of the oldest command of a channel when it is complete and no fault message of it is pending (R35, R87, R403). -/
def postRecord (ch : BitVec 21) (s : State) : State :=
  match oldest s ch, chan? s ch with
  | some c, some h =>
    if c.phase != .done || s.flt.msgs.any (fun m => m.cmds.contains c.id) then s
    else
      let log2 := h.cplLog2.toNat
      let a := h.cplBase.toNat + 32 * (c.recIx.toNat % 2 ^ log2)
      let wants := bitAt (pw c.pkt 0) 14 || (h.irqOnError && c.status != stOk)
      let o := ownerOf ch h.parish
      let s := countCommand c s
      let s := issueWrite (.record o ch c.ringIx c.status wants) (cellsAt a (wordsBytes (recordWords c log2))) 3 false none none s
      let s := { s with eng := { s.eng with cmds := s.eng.cmds.filter fun x => x.id != c.id } }
      modChan ch (fun x => { x with cplTail := x.cplTail + 1 }) s
  | _, _ => s

/-! ## Parking (R75) -/

/-- A WAIT is no longer there: what it reads is of no use. -/
def dropWait (ch : BitVec 21) (s : State) : State :=
  leaveRecords (.wait ch) (orphanWait ch { s with chn := { s.chn with waits := s.chn.waits.filter fun w => w.ch != ch } })

/-- A channel enters PARKING for a reason: prefetched packets are discarded, and an unstarted WAIT at HEAD with them (R75). -/
def parkFor (ch : BitVec 21) (why : BitVec 8) (s : State) : State :=
  tidyDeficits (dropWait ch (orphanRing ch
    (modChan ch (fun c => { c with state := .parking, parkWhy := why, blockCause := 0, fetched := c.head, half := false }) s)))

end Sys2Proof.Machine
end

