-- ==== Sys2Proof/Machine/FrontEnd.lean ====
section
/-! DEFINITION. The front end: doorbells, parking, resuming, the channel cache, NOP, SYNC, WAIT, MARK, records, tags (R36-R38,
R66-R91, R131-R133). -/

namespace Sys2Proof.Machine

/-! ## Access to the control port (R431, R441, R456) -/

/-- CTRLP serves every requestor: from step 4 of the start-up on (R441, R442). -/
def ctrlpOpen (s : State) : Bool :=
  s.pins.pwrOk && !s.pins.aonReset && !s.pins.blockReset && (s.gbl.stage == .calibrating || s.gbl.stage == .ready)

/-- Curfew holds control-port accesses (R431). -/
def stoppedByCurfew (s : State) : Bool := s.cur.state == .stopped || s.cur.state == .dumping || s.cur.state == .releasing

/-- Comparator `n` fires: armed and reached, in every power state; those of a stopped block wait for the restart (R376, R434). -/
def cmpFires (s : State) (n : Nat) : Bool := !s.pins.aonReset && !(stoppedByCurfew s) && (cmpOf s n).en && cmpDue s n

/-- An access waits in the CTRL crossing queue of a PARKED block, or is held by Curfew, until CORE runs again (R380, R431). -/
def heldAccess (s : State) : Bool := stoppedByCurfew s || s.pwr.state == .parked

/-- Hold a control-port access: a write of a value, or a read. -/
def holdAccess (who : Who) (addr : Nat) (size : Nat) (val : Option Word) (s : State) : State :=
  { s with cur := { s.cur with heldAccesses := s.cur.heldAccesses ++ [(who, BitVec.ofNat 29 addr, BitVec.ofNat 4 size, val)] } }

/-- The address of channel n's doorbell (R68). -/
def bellAddr (ch : BitVec 21) : Nat := 0x1000000 + 8 * ch.toNat

/-- The value of a doorbell write (R68). -/
def bellWord (action : BitVec 2) (val : BitVec 32) : Word := place action.toNat 62 2 ||| place val.toNat 0 32

/-! ## Doorbells (R69-R77) -/

/-- The requestor may ring a channel of parish `q` (R69). -/
def mayRing (who : Who) (ch : BitVec 21) (q : BitVec 6) : Bool :=
  match who with
  | .operator => true
  | .parish p => p == q && ch != 0
  | _ => false

/-- The parish that a fault of an access names, and one of a channel (R395). -/
def whoParish : Who → Option (BitVec 6)
  | .parish q => some q
  | _ => none
def chanOf (ch : BitVec 21) (c : Chan) : Option (BitVec 6) := if ch = 0 then none else some c.parish

/-- CONFIG for a doorbell, raised where ACCESS for one is (R69, R396), with the parish that it concerns. -/
def bellConfig (q : Option (BitVec 6)) (ch : BitVec 21) (s : State) : State := raise srcCtrlp kConfig (bellAddr ch) [] q s

/-- DOORBELL_ERROR to the owner (R70, R71). -/
def bellError (ch : BitVec 21) (o : Owner) (action : BitVec 2) (val : BitVec 32) (s : State) : State :=
  notify o (notifyEntry val (BitVec.ofNat 8 action.toNat) 2 ch) s

/-- R70: VALUE lies at or after TAIL and at most a ring's length past HEAD. -/
def tailOk (log2 : BitVec 5) (head tail val : BitVec 32) : Bool :=
  decide (dist32 val head ≤ 2 ^ log2.toNat) && decide (dist32 val tail ≤ dist32 val head)

/-- R71: VALUE moves CPL_HEAD forward and not past CPL_TAIL. -/
def cplHeadOk (cplHead cplTail val : BitVec 32) : Bool := decide (dist32 cplTail val ≤ dist32 cplTail cplHead)

/-- A channel with work to start comes into the cache and fetches. -/
def rouse (ch : BitVec 21) (s : State) : State := tidyDeficits (fetch ch (enterCache ch s))

/-- A TAIL write to a held channel (R70, R74). -/
def bellTail (ch : BitVec 21) (c : Chan) (val : BitVec 32) (s : State) : State :=
  if c.state = .stopped then bellConfig (chanOf ch c) ch s
  else if !(tailOk c.ringLog2 c.head c.tail val) then bellError ch (ownerOf ch c.parish) 0 val s
  else
    let s := putChan ch (settle { c with tail := val }) s
    if c.state = .parking then s else rouse ch s

/-- A CPL_HEAD write to a held channel (R71, R74). -/
def bellCpl (ch : BitVec 21) (c : Chan) (val : BitVec 32) (s : State) : State :=
  if !(cplHeadOk c.cplHead c.cplTail val) then bellError ch (ownerOf ch c.parish) 1 val s
  else
    let s := putChan ch (settle { c with cplHead := val }) s
    if c.state = .parking ∨ c.state = .stopped then s else rouse ch s

/-- A PARK write to a held channel (R74, R75). -/
def bellPark (ch : BitVec 21) (c : Chan) (s : State) : State :=
  match c.state with
  | .idle | .running | .blocked => parkFor ch 0x01 s
  | _ => s

/-- A RESUME write to a held channel (R74). -/
def bellResume (ch : BitVec 21) (c : Chan) (s : State) : State :=
  match c.state with
  | .parking => putChan ch { c with resumeHeld := true } s
  | .stopped => bellConfig (chanOf ch c) ch s
  | _ => s

/-- A doorbell for a channel the controller holds. -/
def bellHeld (b : Bell) (c : Chan) (s : State) : State :=
  if !(mayRing b.who b.ch c.parish) then raise srcCtrlp kAccess (bellAddr b.ch) [] (whoParish b.who) s
  else if b.action = 0 then bellTail b.ch c b.val s
  else if b.action = 1 then bellCpl b.ch c b.val s
  else if b.action = 2 then bellPark b.ch c s
  else bellResume b.ch c s

/-! ## RESUME (R77) -/

/-- A base is aligned to its ring's size. -/
def baseOk (base : BitVec 52) (log2 unit : Nat) : Bool := base.toNat % (unit * 2 ^ log2) == 0

/-- The checks of R77 on a descriptor. -/
def resumeOk (s : State) (ch : BitVec 21) (ws : List Word) : Bool :=
  let c := descChan ws
  descValid ws && descReservedOk ws
  && decide (6 ≤ c.ringLog2.toNat) && decide (c.ringLog2.toNat ≤ 20) && decide (6 ≤ c.cplLog2.toNat) && decide (c.cplLog2.toNat ≤ 20)
  && baseOk c.ringBase c.ringLog2.toNat 64 && baseOk c.cplBase c.cplLog2.toNat 32
  && (if ch = 0 then c.parish == 0 && c.prio == 0 else (parish s c.parish.toNat).state == .active)
  && decide (dist32 c.tail c.head ≤ 2 ^ c.ringLog2.toNat) && decide (dist32 c.cplTail c.cplHead ≤ 2 ^ c.cplLog2.toNat)

/-- A resume fails: the channel stays PARKED with BAD_DESCRIPTOR, and the owner gets a PARK entry (R77, R90). -/
def badDescriptor (ch : BitVec 21) (o : Owner) (head : BitVec 32) (s : State) : State :=
  notify o (notifyEntry head 0x04 1 ch) (issueWrite .background [(descAddr s ch + 41, 0x04)] 3 false none none s)

/-- A resume takes effect: the channel is held again and fetches from HEAD (R77). -/
def resumeWith (ch : BitVec 21) (ws : List Word) (s : State) : State :=
  let c := descChan ws
  if resumeOk s ch ws then
    let c := settle { c with state := .running, cached := false, parkReason := 0, ovfQueued := s.chn.ovf.contains ch, fetched := c.head }
    rouse ch (putChan ch c s)
  else badDescriptor ch (ownerOf ch c.parish) c.head (raise srcFront kConfig (descAddr s ch) [] (chanOf ch c) s)

/-- A channel's parish is being retired: the channel is STOPPED (R73, R96, R362). -/
def stoppedParish (s : State) (ch : BitVec 21) (q : BitVec 6) : Bool :=
  ch != 0 && ((parish s q.toNat).state == .retiring || (parish s q.toNat).state == .clearing)

/-- What a doorbell for a channel that only memory holds, its descriptor read, does (R69-R77). -/
inductive StoredBell
  | nothing
  | config
  | access
  | badValue
  | tail
  | cplHead
  | resume
  deriving DecidableEq, Repr

/-- The checks of R69 to R71 and R74 on such a doorbell, in their order. -/
def storedBell (s : State) (b : Bell) (ws : List Word) : StoredBell :=
  let c := descChan ws
  if !(descValid ws) then (if b.action = 2 then .nothing else .config)
  else if !(mayRing b.who b.ch c.parish) then .access
  else if stoppedParish s b.ch c.parish && (b.action == 0 || b.action == 3) then .config
  else if b.action = 0 then (if tailOk c.ringLog2 c.head c.tail b.val then .tail else .badValue)
  else if b.action = 1 then (if cplHeadOk c.cplHead c.cplTail b.val then .cplHead else .badValue)
  else if b.action = 2 then .nothing
  else .resume

/-- A doorbell for a channel that only memory holds takes effect. -/
def bellStored (b : Bell) (ws : List Word) (s : State) : State :=
  let a := descAddr s b.ch
  match storedBell s b ws with
  | .nothing => s
  | .config => bellConfig (if descValid ws then chanOf b.ch (descChan ws) else whoParish b.who) b.ch s
  | .access => raise srcCtrlp kAccess (bellAddr b.ch) [] (whoParish b.who) s
  | .badValue => bellError b.ch (ownerOf b.ch (descChan ws).parish) b.action b.val s
  | .tail => issueWrite .background (cellsAt (a + 24) (leBytes 4 b.val.toNat)) 3 false none none s
  | .cplHead => issueWrite .background (cellsAt (a + 36) (leBytes 4 b.val.toNat)) 3 false none none s
  | .resume => resumeWith b.ch ws s

/-- The descriptor as such a doorbell leaves it in memory. -/
def storedWords (s : State) (b : Bell) (ws : List Word) : List Word :=
  match storedBell s b ws with
  | .tail => ws.set 3 (merge (ws.getD 3 0) (place b.val.toNat 0 32) (maskAt 0 32))
  | .cplHead => ws.set 4 (merge (ws.getD 4 0) (place b.val.toNat 32 32) (maskAt 32 32))
  | _ => ws

/-- Doorbells of one channel take effect in arrival order (R69): at once when the channel is cached, else once its descriptor has been read
(R72). -/
def ring (b : Bell) (s : State) : State :=
  if chnCount s ≤ b.ch.toNat then bellConfig (whoParish b.who) b.ch s
  else if !(chnEn s) then (if b.action = 2 then s else bellConfig (whoParish b.who) b.ch s)
  else if s.chn.bells.any (fun x => x.ch == b.ch) then { s with chn := { s.chn with bells := s.chn.bells ++ [b] } }
  else match chan? s b.ch with
    | some c => if c.cached || c.state == .parking || c.state == .stopped then bellHeld b c s
      else readDesc b.ch { s with chn := { s.chn with bells := s.chn.bells ++ [b] } }
    | none => readDesc b.ch { s with chn := { s.chn with bells := s.chn.bells ++ [b] } }

/-- A doorbell write reaches CTRLP: dropped with ACCESS in the safe state and before the port opens (R441, R466), held while CORE stands
still (R380, R431). -/
def doorbell (who : Who) (ch : BitVec 21) (action : BitVec 2) (val : BitVec 32) (s : State) : State :=
  if !s.pins.pwrOk || s.pins.aonReset then s
  else if s.flt.safe || !(ctrlpOpen s) then raise srcCtrlp kAccess (bellAddr ch) [] (whoParish who) s
  else if heldAccess s then holdAccess who (bellAddr ch) 8 (bellWord action val) s
  else ring { who := who, ch := ch, action := action, val := val } s

/-- Bells of a channel in order, until one of them makes the controller hold it; the rest then act on the held channel. -/
def ringAll : Nat → BitVec 21 → List Word → State → State
  | 0, _, _, s => s
  | n + 1, ch, ws, s =>
    match s.chn.bells.find? (fun b => b.ch == ch) with
    | none => s
    | some b =>
      let s := { s with chn := { s.chn with bells := dropFirst (fun x => x.ch == ch) s.chn.bells } }
      match chan? s ch with
        | some c => ringAll n ch ws (bellHeld b c s)
        | none => ringAll n ch (storedWords s b ws) (bellStored b ws s)

/-- A channel that the controller holds out of the cache, or has just entered it, takes the driver's words of its descriptor anew (R65, R72). -/
def reread (ch : BitVec 21) (ws : List Word) (s : State) : State :=
  modChan ch (fun c =>
    let d := descChan ws
    if c.cached && !c.loading then c
    else { c with loading := false, ringLog2 := d.ringLog2, cplLog2 := d.cplLog2, irqOnError := d.irqOnError, parish := d.parish, prio := d.prio,
                  ringBase := d.ringBase, cplBase := d.cplBase }) s

/-- A descriptor read has returned. -/
def descBack (ch : BitVec 21) (bs : List Byte) (s : State) : State :=
  let ws := bytesWords 16 bs
  fetch ch (ringAll s.chn.bells.length ch ws (reread ch ws s))

/-- The owner of a channel whose descriptor cannot be read: the operator of channel 0, the parish of a held channel, or of one that has just parked
with a RESUME held, else the requestor. DEDUCED: log entry 14. -/
def failedOwner (s : State) (b : Bell) : Owner :=
  if b.ch = 0 then .operator
  else match b.owner, chan? s b.ch, b.who with
    | some o, _, _ => o
    | none, some c, _ => .parish c.parish
    | none, none, .parish q => .parish q
    | none, none, _ => .operator

/-- A descriptor read was answered with an error (R72): RESUME leaves BAD_DESCRIPTOR, another doorbell is dropped with DOORBELL_ERROR. The PARK entry has
RING_INDEX 0 (DESIGN CHOICE: log entry 166); the CODE of the DOORBELL_ERROR is the ACTION, for a PARK or the RESUME of a held channel too (DESIGN CHOICE:
log entry 167). A channel that had entered the cache for the read leaves it again, and waits uncached for its next doorbell (DESIGN CHOICE: log entry
168). -/
def descFailed (ch : BitVec 21) (s : State) : State :=
  let bells := s.chn.bells.filter fun b => b.ch == ch
  let s := { s with chn := { s.chn with bells := s.chn.bells.filter fun b => b.ch != ch } }
  let s := bells.foldl (fun s b =>
    if b.action = 3 ∧ (chan? s ch).isNone then badDescriptor ch (failedOwner s b) 0 s else bellError ch (failedOwner s b) b.action b.val s) s
  modChan ch (fun c => if c.loading then { c with loading := false, cached := false } else c) s

/-- DOORBELL_TAIL (R70). -/
def execDoorbellTail (who : Who) (ch : BitVec 21) (val : BitVec 32) (s : State) : Host.Outcome State Fault Refusal := .next (doorbell who ch 0 val s)

/-- DOORBELL_CPL_HEAD (R71). -/
def execDoorbellCplHead (who : Who) (ch : BitVec 21) (val : BitVec 32) (s : State) : Host.Outcome State Fault Refusal := .next (doorbell who ch 1 val s)

/-- DOORBELL_PARK (R75). -/
def execDoorbellPark (who : Who) (ch : BitVec 21) (s : State) : Host.Outcome State Fault Refusal := .next (doorbell who ch 2 0 s)

/-- DOORBELL_RESUME (R77). -/
def execDoorbellResume (who : Who) (ch : BitVec 21) (s : State) : Host.Outcome State Fault Refusal := .next (doorbell who ch 3 0 s)

/-! ## CHANNEL_PARKED (R75) -/

/-- A parking channel has nothing in flight, every record is posted and acknowledged. -/
def parkable (s : State) (ch : BitVec 21) (c : Chan) : Bool :=
  c.state == .parking && (cmdsOf s ch).isEmpty
  && !(s.memp.writes.any fun w => match w.use with
    | .record _ x _ _ _ => x == ch
    | _ => false)

/-- The channel becomes PARKED: words 3 to 5 are written back, the cache entry is released; a held RESUME is then applied (R74, R75). -/
def parkNow (ch : BitVec 21) (s : State) : State :=
  match chan? s ch with
  | none => s
  | some c =>
    if !(parkable s ch c) then s
    else
      let why := c.parkWhy
      let d := { c with state := .parked, parkReason := why, blockCause := 0, recNext := c.cplTail }
      let s := writeBack (.park (ownerOf ch c.parish) ch c.head why (why != 0x01 && why != 0x02)) ch d s
      let s := dropChan ch s
      if c.resumeHeld then
        readDesc ch { s with chn := { s.chn with bells := s.chn.bells ++ [{ who := .operator, ch := ch, action := 3, val := 0, owner := some (ownerOf ch c.parish) }] } }
      else s

/-- CHANNEL_PARKED (R75). -/
def execChannelParked (ch : BitVec 21) (s : State) : Host.Outcome State Fault Refusal := .next (whileRunning (parkNow ch) s)

/-! ## OVERFLOW_DEQUEUE (R80) -/

/-- A channel that the controller no longer holds leaves the overflow ring: OVF_QUEUED, bit 17 of word 5 of its descriptor, is cleared in
memory (R65, R80). -/
def clearQueued (ch : BitVec 21) (s : State) : State :=
  let a := descAddr s ch + 42
  issueWrite .background [(a, readOver s.mem s.memp.writes a &&& 0xFD)] 3 false none none s

/-- The first channel of the overflow ring leaves it. -/
def popOverflow (s : State) : State := { s with chn := { s.chn with ovf := s.chn.ovf.drop 1 } }

/-- The next channel of the overflow ring enters the cache when it has room, and its descriptor and ring are read; a channel whose parish is
no longer active, or that is no longer held, is discarded (R72, R80). -/
def dequeueOverflow (s : State) : State :=
  match s.chn.ovf with
  | [] => s
  | ch :: _ =>
    match chan? s ch with
    | none => clearQueued ch (popOverflow s)
    | some c =>
      if ch ≠ 0 ∧ (parish s c.parish.toNat).state ≠ .active then popOverflow (putChan ch { c with ovfQueued := false } s)
      else match cacheRoom s with
        | none => s
        | some s => tidyDeficits (loadDesc ch (putChan ch { c with cached := true, started := 0, ovfQueued := false } (popOverflow s)))

/-- OVERFLOW_DEQUEUE (R80). -/
def execOverflowDequeue (s : State) : Host.Outcome State Fault Refusal := .next (whileRunning dequeueOverflow s)

/-- A RUNNING channel that has started 256 commands and has none in flight gives up its entry while others wait (R81). -/
def rotate (ch : BitVec 21) (s : State) : State :=
  match chan? s ch with
  | none => s
  | some c =>
    if rotates s ch c then tidyDeficits (rotateOut ch c s) else s

/-! ## NOP, SYNC, MARK (R36, R38, R133) -/

/-- NOP starts and completes with OK. -/
def runNop (id : Nat) (s : State) : State := done id stOk 0 s

/-- No chapter assigns the opcode (R93, R100). -/
def unassigned (op : Nat) : Bool := !(opFront op || opEngine op || opParish op || opOperator op)

/-- NOP (R133). A packet with an unassigned opcode is rejected here, as no row of its own exists for it (R93, R100). -/
def execNop (ch : BitVec 21) (pkt : List Word) (s : State) : Host.Outcome State Fault Refusal :=
  .next (if pkOp pkt = 0x00 ∨ unassigned (pkOp pkt) then startOther ch pkt runNop s else s)

/-- SYNC completes with OK and clears ERR_MARK (R36, R78). -/
def runSync (ch : BitVec 21) (id : Nat) (s : State) : State := done id stOk 0 (modChan ch (fun c => { c with errMark := false }) s)

/-- SYNC: waits for the channel's earlier commands; parks under HALT_ON_ERROR; else starts and completes (R36, R73). -/
def startSync (ch : BitVec 21) (pkt : List Word) (s : State) : State :=
  match chan? s ch with
  | none => s
  | some c =>
    if !(running s) || c.state != .running || !c.cached || dist32 c.fetched c.head == 0 then s
    else match early s (ch == 0) c.parish pkt with
      | some _ => startOther ch pkt (runSync ch) s
      | none =>
        if incomplete s ch then tidyDeficits (putChan ch { c with state := .blocked, blockCause := 1 } s)
        else if pkFlag0 pkt && c.errMark then parkFor ch 0x03 s
        else startOther ch pkt (runSync ch) s

/-- SYNC (R36). -/
def execSync (ch : BitVec 21) (pkt : List Word) (s : State) : Host.Outcome State Fault Refusal := .next (asOp 0x0D pkt (startSync ch pkt) s)

/-- MARK completes with the time it started; with TRACE it writes a trace entry (R38, R133). On channel 0, which has no parish and so no trace ring, it
writes none. DESIGN CHOICE: log entry 173. -/
def runMark (ch : BitVec 21) (pkt : List Word) (id : Nat) (s : State) : State :=
  match cmd? s id with
  | none => s
  | some c =>
    let s := if pkFlag0 pkt then match c.parish with
        | some q => traceMark q ch c.ringIx pkt s
        | none => s else s
    done id stOk c.start s

/-- MARK (R38). -/
def execMark (ch : BitVec 21) (pkt : List Word) (s : State) : Host.Outcome State Fault Refusal :=
  .next (asOp 0x0E pkt (startOther ch pkt (runMark ch pkt)) s)

/-! ## WAIT (R37, R131, R132) -/

/-- The comparison SUBOP selects (R131). -/
def waitHolds (op : Nat) (x v : Word) : Bool :=
  if op = 0 then x == v else if op = 1 then x != v else if op = 2 then decide (v.toNat ≤ x.toNat) else if op = 3 then decide (x.toNat < v.toNat)
  else if op = 4 then decide (v.toInt ≤ x.toInt) else decide (x.toInt < v.toInt)

/-- The state with a channel's waiter changed. -/
def modWaiter (ch : BitVec 21) (f : Waiter → Waiter) (s : State) : State :=
  { s with chn := { s.chn with waits := modFirst (fun w => w.ch == ch) f s.chn.waits } }

/-- The waiter of a channel. -/
def waiter? (s : State) (ch : BitVec 21) : Option Waiter := s.chn.waits.find? fun w => w.ch == ch

/-- The parish a channel's WAIT word belongs to. -/
def waitParish (s : State) (ch : BitVec 21) : BitVec 6 := ((chan? s ch).map fun c => c.parish).getD 0

/-- A fault message about a WAIT that had not started names its command from now on (R393). -/
def nameWait (ch : BitVec 21) (id : Nat) (s : State) : State :=
  let named := fun (m : FaultMsg) => if m.waits.contains ch then { m with cmds := m.cmds ++ [id], waits := m.waits.filter fun x => x != ch } else m
  { s with flt := { s.flt with msgs := s.flt.msgs.map named } }

/-- A WAIT that has ended starts and completes once the scheduler comes to it (R84, R131). -/
def waitStarts (ch : BitVec 21) (s : State) : State :=
  match waiter? s ch with
  | none => s
  | some w => match w.met with
    | none => s
    | some (st, result, seq) =>
      if mayStart s ch w.pkt then
        tidyDeficits (dropWait ch (startWhere true ch w.pkt
          (fun id s => finish id st 0 result (nameWait ch id (modCmd id (fun c => { c with faultSeq := seq }) s))) s))
      else s

/-- A WAIT ends: it holds its channel no longer, and starts when its turn comes (R84, R131). -/
def waitEnds (ch : BitVec 21) (st : BitVec 8) (result : Word) (seq : BitVec 32) (s : State) : State :=
  let s := leaveRecords (.wait ch) (modWaiter ch (fun w => { w with met := some (st, result, seq), table := false, reading := false }) s)
  let s := modChan ch unblock s
  let out := (chan? s ch).any fun c => !c.cached
  waitStarts ch (if out then loadDesc ch (enterCache ch s) else rouse ch s)

/-- Read a WAIT's word; it is due again 100 µs later, or 1 µs without a WAIT-table entry, or on a write that touches it meanwhile. One
whose entry an invalidation has released takes a free one again with its translation (R132). -/
def waitRead (w : Waiter) (pa : BitVec 52) (s : State) : State :=
  let tabled := w.table || (w.pa.isNone && decide ((s.chn.waits.filter fun w => w.table).length < 4096))
  let next := later (now s) ((if tabled then 100 else 1) * usUnits)
  let s := issueRead (.waitWord w.ch) [(pa.toNat, 8)] 3 (some 48) none (modWaiter w.ch (fun w => { w with reading := true, pa := some pa, table := tabled, due := next }) s)
  if w.ch = 0 then s else watchLocal (waitParish s w.ch) wRead [(w.va.toNat, 8)] s

/-- A WAIT is evaluated: its word is translated where it must be, then read (R131, R132, R156). One that is parked on a fault record, or waits
for one, is not (R160). -/
def waitEval (w : Waiter) (s : State) : State :=
  if w.reading || w.met.isSome || !(joined s (.wait w.ch)).isEmpty || waitsRecord s (.wait w.ch) then s
  else match w.pa with
    | some pa => waitRead w pa s
    | none =>
      let q := waitParish s w.ch
      match lookup s q w.va.toNat with
      | .resident pa _ => waitRead w (BitVec.ofNat 52 pa) (touchCache q w.va.toNat s)
      | .miss => startWalk q w.va.toNat false s
      | .bad kind _ =>
        let f : TerFault := { parish := q, kind := kind, firstVa := w.va.toNat % 2 ^ 57, layer := 0 }
        if terEn s then openRecords [f] (.wait w.ch) s
        else let (seq, s) := abortedSeq (countTable f s); waitEnds w.ch stAborted 0 seq s

/-- A WAIT's word has been read (R37, R131, R132). -/
def waitBack (ch : BitVec 21) (x : Word) (s : State) : State :=
  match waiter? s ch with
  | none => s
  | some w =>
    let s := modWaiter ch (fun w => { w with reading := false }) s
    if waitHolds w.op.toNat (x &&& w.mask) w.val then waitEnds ch stOk x 0 s else s

/-- WAIT takes the channel's next start: it holds the channel until its condition does, and then starts in its turn. Of the WORD_VA of channel 0, a
physical address, the model takes bits [51:0]. DESIGN CHOICE: log entry 172. -/
def startWait (ch : BitVec 21) (pkt : List Word) (s : State) : State :=
  match chan? s ch with
  | none => s
  | some c =>
    if (waiter? s ch).any fun w => w.met.isSome then waitStarts ch s
    else if !(running s) || c.state != .running || !c.cached || dist32 c.fetched c.head == 0 then s
    else match early s (ch == 0) c.parish pkt with
      | some _ => startOther ch pkt runNop s
      | none =>
        let w : Waiter := { ch := ch, va := pw pkt 1, mask := pw pkt 2, val := pw pkt 3, op := BitVec.ofNat 8 (pkSubop pkt), pkt := pkt,
                            table := decide ((s.chn.waits.filter fun w => w.table).length < 4096),
                            pa := if ch = 0 then some ((pw pkt 1).extractLsb' 0 52) else none, due := now s }
        let s := tidyDeficits (putChan ch { c with state := .blocked, blockCause := 2 } s)
        waitEval w { s with chn := { s.chn with waits := s.chn.waits ++ [w] } }

/-- WAIT (R131). -/
def execWait (ch : BitVec 21) (pkt : List Word) (s : State) : Host.Outcome State Fault Refusal := .next (asOp 0x0C pkt (startWait ch pkt) s)

/-- WAIT_REEVALUATE (R132): the word is read again when it is due. -/
def execWaitReevaluate (ch : BitVec 21) (s : State) : Host.Outcome State Fault Refusal :=
  .next (match waiter? s ch with
    | none => s
    | some w => if reached s w.due && running s then waitEval w s else s)

end Sys2Proof.Machine
end

