-- ==== Sys2Proof/Machine/Data.lean ====
section
/-! DEFINITION. Data commands start; their transactions are charged and sent; waits that pass their bound (R17, R53, R57, R114-R134,
R173-R176, R235). -/

namespace Sys2Proof.Machine

/-! ## Starts (R114) -/

/-- PUT (R115). -/
def execPut (ch : BitVec 21) (pkt : List Word) (s : State) : Host.Outcome State Fault Refusal := .next (asOp opPut pkt (startEngine ch pkt) s)

/-- GET (R116). -/
def execGet (ch : BitVec 21) (pkt : List Word) (s : State) : Host.Outcome State Fault Refusal := .next (asOp opGet pkt (startEngine ch pkt) s)

/-- COPY (R117). -/
def execCopy (ch : BitVec 21) (pkt : List Word) (s : State) : Host.Outcome State Fault Refusal := .next (asOp opCopy pkt (startEngine ch pkt) s)

/-- RPUT (R118). -/
def execRput (ch : BitVec 21) (pkt : List Word) (s : State) : Host.Outcome State Fault Refusal := .next (asOp opRput pkt (startEngine ch pkt) s)

/-- MPUT (R122). -/
def execMput (ch : BitVec 21) (pkt : List Word) (s : State) : Host.Outcome State Fault Refusal := .next (asOp opMput pkt (startEngine ch pkt) s)

/-- IPUT (R124). -/
def execIput (ch : BitVec 21) (pkt : List Word) (s : State) : Host.Outcome State Fault Refusal := .next (asOp opIput pkt (startEngine ch pkt) s)

/-- IGET (R125). -/
def execIget (ch : BitVec 21) (pkt : List Word) (s : State) : Host.Outcome State Fault Refusal := .next (asOp opIget pkt (startEngine ch pkt) s)

/-- AMO (R126). -/
def execAmo (ch : BitVec 21) (pkt : List Word) (s : State) : Host.Outcome State Fault Refusal := .next (asOp opAmo pkt (startEngine ch pkt) s)

/-- AMOF (R127). -/
def execAmof (ch : BitVec 21) (pkt : List Word) (s : State) : Host.Outcome State Fault Refusal := .next (asOp opAmof pkt (startEngine ch pkt) s)

/-- XFORM (R134, R310). -/
def execXform (ch : BitVec 21) (pkt : List Word) (s : State) : Host.Outcome State Fault Refusal := .next (asOp opXform pkt (startEngine ch pkt) s)

/-! ## The direct access port's accesses (R51-R53, R147) -/

/-- Accesses of an (aperture, destination) pair that are on a plane. -/
def pairBusy (s : State) (ap : BitVec 12) (d : BitVec 9) : Bool :=
  s.tx.units.any fun u => u.charged && (match u.use with
    | .dap n => s.dap.accs.any fun a => a.id == n && a.aperture == ap && a.dest == d
    | _ => false)

/-- The plane a pair is pinned to. -/
def pinOf (s : State) (ap : BitVec 12) (d : BitVec 9) : Option Nat :=
  (s.dap.pins.find? fun p => p.1 == ap && p.2.1 == d).map fun p => p.2.2

/-- The number that marks an access held for a plane: no plane has it. -/
def noPlane : Nat := 127

/-- A pair is pinned to a plane, or to none, and its accesses that are not charged yet with it. -/
def givePlane (ap : BitVec 12) (d : BitVec 9) (p : Nat) (s : State) : State :=
  let mine := fun (u : Xu) => !u.charged && (match u.use with
    | .dap n => s.dap.accs.any fun a => a.id == n && a.aperture == ap && a.dest == d
    | _ => false)
  { s with
    dap := { s.dap with pins := (s.dap.pins.filter fun x => !(x.1 == ap && x.2.1 == d)) ++ [(ap, d, p)] }
    tx := { s.tx with units := s.tx.units.map fun u => if mine u then { u with pinned := some p } else u } }

/-- A pair whose plane stands in the mask keeps it. One whose plane has left the mask has none until nothing of the pair is outstanding, whether or
not that plane comes back; a newly chosen plane then takes the accesses held (R51, R53). -/
def repin (ap : BitVec 12) (d : BitVec 9) (s : State) : State :=
  if d == ownId s || (pinOf s ap d).any (memb (activeMask s d)) then s
  else givePlane ap d (if pairBusy s ap d then noPlane else (dapPlane s d ap.toNat).getD noPlane) s

/-- Aperture `n`. -/
def aperture (s : State) (n : Nat) : Aperture := Tab.get {} s.dap.aps n

/-- The enabled aperture that covers a chip address. -/
def apFor (s : State) (pa : Nat) : Option (Nat × Aperture) :=
  s.dap.aps.find? fun e => e.2.enabled && decide (e.2.base.toNat ≤ pa) && decide (pa < e.2.base.toNat + e.2.size.toNat)

/-- Sizes the port takes, naturally aligned (R147). -/
def dapSizeOk (pa size : Nat) : Bool := [1, 2, 4, 8, 16, 32, 64].contains size && pa % size == 0

/-- The port answers with an error, and DAP_ERROR is raised (R147). -/
def dapRefuse (pa : BitVec 52) (s : State) : State :=
  raise srcDap kDapError pa.toNat [] none { s with dap := { s.dap with resps := s.dap.resps ++ [{ pa := pa, error := true, data := [] }] } }

/-- An access goes out under a transaction tag of its own, on its pair's plane, or held for one (R51, R53, R110). -/
def dapSend (pa : BitVec 52) (store : Bool) (size : Nat) (data : List Byte) (n : Nat) (a : Aperture) (tag : Nat) (s : State) : State :=
  let ap := BitVec.ofNat 12 n
  let acc : DapAcc := { id := s.dap.next, aperture := ap, dest := a.dest, isStore := store, pa := pa }
  let s := repin ap a.dest { s with
    dap := { s.dap with accs := s.dap.accs ++ [acc], next := s.dap.next + 1 }
    eng := { s.eng with tagsUsed := s.eng.tagsUsed ++ [BitVec.ofNat 16 tag] } }
  let held := match pinOf s ap a.dest with
    | some p => if memb (activeMask s a.dest) p then p else noPlane
    | none => noPlane
  let t : Txn := {
    kind := BitVec.ofNat 5 (if store then kStore else kLoad), len := 1, src := ownId s, dest := a.dest, ptag := parTag s a.parish,
    offset := BitVec.ofNat 48 (a.offset.toNat + (pa.toNat - a.base.toNat)), window := a.window, bytes := BitVec.ofNat 12 (size - 1),
    tag := BitVec.ofNat 16 tag, payload := data }
  addUnit (.dap acc.id) [a.dest] (some a.parish) (some held) t s

/-- The port takes no more accesses: 4,096 are outstanding, or no tag is free for one (R110, R147). -/
def dapFull (s : State) : Bool := decide (4096 ≤ s.dap.accs.length) || (freeTag s).isNone

/-- The port takes an access that the network-on-chip held: matches it, and sends it or answers with an error (R147). -/
def dapTake (x : DapHold) (s : State) : State :=
  match apFor s x.pa.toNat with
  | none => dapRefuse x.pa s
  | some (n, a) =>
    if !(dapSizeOk x.pa.toNat x.size) || !(if x.store then a.store else a.load) || !(destOk s a.dest)
        || (a.dest != ownId s && fenced s a.parish.toNat a.dest.toNat) then dapRefuse x.pa s
    else match freeTag s with
      | none => s
      | some tag => dapSend x.pa x.store x.size x.data n a tag s

/-- The port takes held accesses, oldest first, until it is full. -/
def dapServe : Nat → State → State
  | 0, s => s
  | n + 1, s => match s.dap.held with
    | [] => s
    | x :: rest => if !(running s) || dapFull s then s else dapServe n (dapTake x { s with dap := { s.dap with held := rest } })

/-- Held accesses go on as far as they can (R147). -/
def servePort (s : State) : State := dapServe s.dap.held.length s

/-- The port returns a response; an error also raises DAP_ERROR (R53, R147). Where the access has been neither answered nor lost, its transaction counts
in flight on (R250). A disable that waited for the aperture's accesses completes with the last of them (R146). -/
def dapEnd (n : Nat) (answered error : Bool) (data : List Byte) (s : State) : State :=
  match s.dap.accs.find? fun a => a.id == n with
  | none => s
  | some a =>
    let tags := (s.tx.units.filter fun u => u.use == .dap n).map fun u => u.txn.tag
    let s := { s with eng := { s.eng with
      tagsUsed := s.eng.tagsUsed.filter fun x => !(tags.contains x)
      tagHold := s.eng.tagHold ++ (if error then tags.map fun x => (a.dest, x, later (now s) (effTimeout s)) else []) } }
    let s := if answered then { s with tx := { s.tx with units := s.tx.units.filter fun u => u.use != .dap n } } else dropUnits (fun u => u.use == .dap n) s
    let s := { s with
      dap := { s.dap with accs := s.dap.accs.filter (fun x => x.id != n), resps := s.dap.resps ++ [{ pa := a.pa, error := error, data := data }] } }
    let s := if error then raise srcDap kDapError a.pa.toNat [] none s else s
    let s := servePort (repin a.aperture a.dest s)
    let busy := s.dap.accs.any fun x => x.aperture == a.aperture
    if busy then s
    else
      let ready := s.dap.waits.filter fun w => w.2 == a.aperture
      ready.foldl (fun s w => done w.1 stOk 0 s) { s with dap := { s.dap with waits := s.dap.waits.filter fun w => w.2 != a.aperture } }

/-! ## STRIPE_ISSUE (R17, R45, R173, R235) -/

/-- What the sender of a unit does next. -/
def feedUnit (u : UnitFor) (s : State) : State :=
  match u with
  | .cmd id => feed id s
  | _ => s

/-- A signalled command's entry towards a device is cancelled: its slot there passes to a cancelled one, which frees after the timeout. A query
makes an entry, and so takes a slot, even where nothing of the command had been charged (R45, R59). -/
def cancelSlot (id : Nat) (d : BitVec 9) (s : State) : State :=
  changeSlots d.toNat (fun x => { x with active := x.active.erase id, cancelled := x.cancelled ++ [later (now s) (effTimeout s)] }) s

/-- A refusal cancels the entry of a command that holds a slot (R45, R130). -/
def slotCancelled (id : Nat) (d : BitVec 9) (s : State) : State :=
  if (sigSlots s d.toNat).active.contains id then cancelSlot id d s else s

/-- Of the remote members that a transaction of an MPUT goes to, those left out from here on: those whose active mask has become empty, or every one when those that remain have no
plane in common (R122, R176, R269). -/
def emptyMembers (s : State) (c : Cmd) (ds : List (BitVec 9)) : List (BitVec 9) :=
  let live := (c.targets.filter fun t => t.live && t.dev != ownId s && ds.contains t.dev).map fun t => t.dev
  let rest := live.filter fun d => activeMask s d != 0
  if commonMask s rest = 0 then live else live.filter fun d => activeMask s d == 0

/-- A member of an MPUT is left out: nothing more goes to it, and it is not delivered. -/
def dropMember (id : Nat) (s : State) (d : BitVec 9) : State :=
  signalResolved id (unitsLeave id d (slotCancelled id d
    (modCmd id (fun c => { c with targets := c.targets.map fun t => if t.dev == d then { t with dropped := true } else t }) s)))

/-- Before a stripe or signal of an MPUT leaves or times out, the members it can no longer reach are left out. -/
def leaveEmpty (u : Xu) (s : State) : State :=
  match u.use with
  | .cmd id => match cmd? s id with
    | some c =>
      let ds := if pkOp c.pkt = opMput then emptyMembers s c u.dests else []
      if ds.isEmpty then s else feed id (ds.foldl (dropMember id) s)
    | none => s
  | _ => s

/-- The first unit that waits for a destination leaves when its slots, credit and a plane allow. -/
def issueFirst (d : BitVec 9) (s : State) : State :=
  match waitingFor s d with
  | none => s
  | some u =>
    if !(running s) then s
    else if u.dests = [ownId s] then feedUnit u.use (launchSelf u s)
    else if firstWaiting s u && u.dests.all (mayCharge s u) then
      match unitPlane s u with
      | some p => feedUnit u.use (launch u p s)
      | none => s
    else s

/-- The first unit that waits for a destination leaves, to the members it can still reach. -/
def issue (d : BitVec 9) (s : State) : State :=
  match waitingFor s d with
  | some u => issueFirst d (if running s then leaveEmpty u s else s)
  | none => s

/-- STRIPE_ISSUE (R17). -/
def execStripeIssue (dest : BitVec 9) (s : State) : Host.Outcome State Fault Refusal := .next (issue dest s)

/-! ## Timeouts -/

/-- Items towards devices end without an answer: the command issues no more, or an MPUT goes on without those members (R57, R273). -/
def lateItems (id : Nat) (st : BitVec 8) (ds : List (BitVec 9)) (sig : Bool) (s : State) : State :=
  modCmd id (fun c => { c with
    late := c.late ++ [st]
    halt := c.halt || pkOp c.pkt != opMput
    device := ds.headD c.device
    targets := c.targets.map fun t => if ds.contains t.dev then { t with lost := true, sig := if sig then .unknown else t.sig } else t }) s

/-- CREDIT_WAIT_TIMEOUT (R235): a transaction that has waited for credit for the effective timeout is dropped uncharged. -/
def creditTimeout (uid : Nat) (s : State) : State :=
  match unit? s uid with
  | none => s
  | some v =>
    if !(atCheck s v) || !(reached s v.waitEnd) then s
    else
    let s := leaveEmpty v s
    match unit? s uid with
    | none => s
    | some u =>
      let t := { s with tx := { s.tx with units := s.tx.units.filter fun v => v.id != uid } }
      match u.use with
      | .cmd id => feed id (lateItems id stTimeout u.dests false t)
      | .answer _ => t
      | .dap n => dapEnd n false true [] s

/-- CREDIT_WAIT_TIMEOUT. -/
def execCreditWaitTimeout (unit : Nat) (s : State) : Host.Outcome State Fault Refusal := .next (whileRunning (creditTimeout unit) s)

/-- The status of an item that passes its timeout (R57): of a signal transaction, by whether the signal is `open_`, its application not reported. For an atomic that was charged and had not been transmitted the rule names no status: it
ends with TIMEOUT, since it never executed. DESIGN CHOICE, unsafe: log entry 143. -/
def lateStatus (u : Xu) (open_ : Bool) : BitVec 8 :=
  let k := u.txn.kind.toNat
  if (k = kAmo ∨ k = kAmof) ∧ u.sent then stUnknown else if k = kSignal ∧ open_ then stUnknown else stTimeout

/-- TXN_TIMEOUT (R57, R59): an outstanding unit or query passes the effective timeout. -/
def txnTimeout (n : Nat) (s : State) : State :=
  match unit? s n with
  | some u =>
    if !u.charged || !(reached s u.deadline) then s
    else
      let t := dropUnits (fun v => v.id == n) s
      match u.use with
      | .cmd id =>
        let open_ := match cmd? s id with
          | some c => (c.targets.filter fun t => u.txn.kind.toNat == kSignal && (if u.await then u.dests else u.owed).contains t.dev && t.sig == .sent).map fun t => t.dev
          | none => []
        feed id (lateItems id (lateStatus u (!open_.isEmpty)) (if open_.isEmpty then u.owed else open_) (!open_.isEmpty) t)
      | .answer _ => t
      | .dap a => dapEnd a false true [] s
  | none =>
    match s.tx.queries.find? fun q => q.id == n with
    | none => s
    | some q =>
      if !(reached s q.deadline) then s
      else
        let s := { s with tx := { s.tx with queries := s.tx.queries.filter fun x => x.id != n } }
        let s := modCmd q.cmd (fun c => { c with targets := c.targets.map fun t => if t.dev == q.dev then { t with sig := .unknown } else t }) s
        checkDone q.cmd s

/-- TXN_TIMEOUT. -/
def execTxnTimeout (unit : Nat) (s : State) : Host.Outcome State Fault Refusal := .next (whileRunning (txnTimeout unit) s)

/-- SIGNAL_SLOT_RELEASE (R45): slots of cancelled commands free when the timeout has passed; queries that waited for one go. -/
def execSignalSlotRelease (dest : BitVec 9) (s : State) : Host.Outcome State Fault Refusal :=
  .next (whileRunning (fun s => retryQueries (changeSlots dest.toNat (fun x => { x with cancelled := x.cancelled.filter fun t => !(reached s t) }) s)) s)

/-- TAG_GRANT (R110): free tags go to the commands that wait for them, then to accesses held at the port. -/
def execTagGrant (s : State) : Host.Outcome State Fault Refusal := .next (whileRunning (fun s => servePort (giveTags (tagFuel s) s)) s)

end Sys2Proof.Machine
end

