-- ==== Sys2Proof/Machine/Tallies.lean ====
section
/-! DEFINITION. Tallies between devices: grants, releases, refreshes and reconciliation (R234-R251). -/

namespace Sys2Proof.Machine

/-! ## The source's side (R238, R250) -/

/-- A source accepts a grant value that is ahead of SEEN (R238). -/
def acceptGrant (d : Nat) (g : BitVec 32) (s : State) : State :=
  let ahead := dist32 g (srcTally s d).seen
  if 1 ≤ ahead ∧ ahead ≤ 2 ^ 31 - 1 then modSrcTally d (fun t => { t with seen := g }) s else s

/-- GBL_ROUTE_CTL.SETTLE_US in units (R179). -/
def settleUnits (s : State) : Nat := bits s.route.ctl 16 16 * usUnits

/-- Charged transactions towards `d` have been marked lost: the settle time begins again, or the hold in progress has seen a loss
(R250). -/
def tallyLoss (d : Nat) (s : State) : State :=
  modSrcTally d (fun t => if t.hold then { t with lossInHold := true } else { t with settle := some (later (now s) (settleUnits s)) }) s

/-- The lowest plane of a destination's active mask: the plane of an entry that no rule places otherwise. DESIGN CHOICE: log entry 21. -/
def entryPlane (s : State) (d : Nat) : Option Nat := lowestPlane (activeMask s (BitVec.ofNat 9 d))

/-- Queue a tally entry on a plane. -/
def queueEntry (p : Nat) (e : Word) (s : State) : State := modLink p (fun l => { l with tallyq := l.tallyq ++ [e] }) s

/-- Queue an entry of a refresh on a plane: no header withdraws it (R246). -/
def queueRefresh (p : Nat) (e : Word) (s : State) : State := modLink p (fun l => { l with refreshq := l.refreshq ++ [e] }) s

/-- Queue an entry of a kind for `d` on the lowest plane of its mask; with none it is not sent. -/
def sendEntry (d kind : Nat) (val : BitVec 32) (s : State) : State :=
  match entryPlane s d with
  | none => s
  | some p => queueEntry p (tallyEntry val kind (ownId s) (BitVec.ofNat 9 d)) s

/-! ## The target's side (R236, R237, R248, R251) -/

/-- FREED of a source advances, and grants follow (R236, R237). -/
def advanceFreed (d n : Nat) (s : State) : State := issueAll (modTgtTally d (fun t => { t with freed := t.freed + BitVec.ofNat 32 n }) s)

/-- The lines of a landed transaction are released (R236). -/
def releaseLines (d n : Nat) (s : State) : State :=
  if n = 0 then s else advanceFreed d n (modTgtTally d (fun t => { t with held := t.held - n }) s)

/-- A release frees the DONE entry of its key (R248). -/
def releaseEntry (src : BitVec 9) (tag : BitVec 16) (s : State) : State :=
  { s with sig := { s.sig with ents := s.sig.ents.filter fun e => !(e.src == src && e.tag == tag && e.state == .done) } }

/-- The grant and the release that a header carries (R243, R197). -/
def takeHeader (t : Txn) (s : State) : State :=
  let s := if t.gv then acceptGrant t.src.toNat t.grant s else s
  if t.rv then releaseEntry t.src t.releaseTag s else s

/-! ## Entries that arrive (R245) -/

/-- KIND, FROM, TO and VALUE of an entry. -/
def teKind (e : Word) : Nat := bits e 28 4
def teFrom (e : Word) : Nat := bits e 9 9
def teTo (e : Word) : Nat := bits e 0 9
def teVal (e : Word) : BitVec 32 := e.extractLsb' 32 32

/-- A link on which flits arrive: UP, or in LPI when the partner wakes its own direction (R227). -/
def linkHears (s : State) (p : BitVec 7) : Bool :=
  running s && hasLink s p.toNat && ((link s p.toNat).state == .up || (link s p.toNat).state == .lpi)

/-- An entry arrives: discarded with TALLY_ENTRY when it is not for this device or of a reserved kind; a row acts on entries of its
own kind (R245). A device without a fabric ID takes none (R226). -/
def takeEntry (kind : Nat) (p : BitVec 7) (e : Word) (f : State → State) (s : State) : State :=
  if !(linkHears s p && s.gbl.fabricValid) || e == 0 then s
  else if 5 ≤ teKind e ∨ teTo e ≠ (ownId s).toNat then raise (srcPeer (teFrom e)) kTallyEntry (bits e 0 52) [] none s
  else if teKind e = kind then f s else s

/-- GRANT (R238). -/
def execGrant (link : BitVec 7) (entry : Word) (s : State) : Host.Outcome State Fault Refusal :=
  .next (takeEntry 1 link entry (acceptGrant (teFrom entry) (teVal entry)) s)

/-- RELEASE (R248). -/
def execRelease (link : BitVec 7) (entry : Word) (s : State) : Host.Outcome State Fault Refusal :=
  .next (takeEntry 2 link entry (releaseEntry (BitVec.ofNat 9 (teFrom entry)) ((teVal entry).extractLsb' 0 16)) s)

/-- RECONCILE (R251). -/
def reconcile (d : Nat) (v : BitVec 32) (s : State) : State :=
  if dist32 v (tgtTally s d).freed < 2 ^ 31 then
    let s := issueAll (modTgtTally d (fun t => { t with freed := v }) s)
    grantSent d (sendEntry d 4 (tgtTally s d).issued s)
  else raise (srcPeer d) kTallyMismatch v.toNat [] none s

/-- RECONCILE. -/
def execReconcile (link : BitVec 7) (entry : Word) (s : State) : Host.Outcome State Fault Refusal :=
  .next (takeEntry 3 link entry (reconcile (teFrom entry) (teVal entry)) s)

/-- RECON_ACK takes SEEN and ends the hold (R250). -/
def reconAck (d : Nat) (v : BitVec 32) (s : State) : State :=
  let t := srcTally s d
  if t.hold && t.recon.isSome then modSrcTally d (fun t => { t with seen := v, hold := false, recon := none, lossInHold := false }) s else s

/-- RECON_ACK. -/
def execReconAck (link : BitVec 7) (entry : Word) (s : State) : Host.Outcome State Fault Refusal :=
  .next (takeEntry 4 link entry (reconAck (teFrom entry) (teVal entry)) s)

/-! ## Updates and refreshes (R246) -/

/-- An update for `d` is due: BATCH_LINES unsent, or 500 ns after any unsent advance (R246). -/
def updateDue (s : State) (d : Nat) : Bool :=
  let t := tgtTally s d
  t.issued != t.lastSent && (decide (bits s.tal.ctl 0 8 ≤ dist32 t.issued t.lastSent) || (match t.unsentAt with
    | none => false
    | some u => reached s (later u 8000)))

/-- GRANT_UPDATE_DUE (R246). -/
def execGrantUpdateDue (dev : BitVec 9) (s : State) : Host.Outcome State Fault Refusal :=
  .next (if running s && updateDue s dev.toNat && (entryPlane s dev.toNat).isSome then
    grantSent dev.toNat (sendEntry dev.toNat 1 (tgtTally s dev.toNat).issued s) else s)

/-- A refresh has carried a release. Once three have and a header too, no copy is left, and the tag stays unused towards that target for three
refresh intervals more (R248). -/
def releaseSent (r : BitVec 9 × BitVec 16 × Nat × Bool) (s : State) : State :=
  let mine := fun (x : BitVec 9 × BitVec 16 × Nat × Bool) => x.1 == r.1 && x.2.1 == r.2.1
  if r.2.2.1 ≤ 1 then
    let due := r.2.2.2
    { s with tal := { s.tal with releases := if due then modFirst mine (fun x => (x.1, x.2.1, 0, x.2.2.2)) s.tal.releases else s.tal.releases.filter fun x => !(mine x) }
             eng := { s.eng with tagHold := s.eng.tagHold ++ [(r.1, r.2.1, later (now s) (3 * refreshUnits s))] } }
  else { s with tal := { s.tal with releases := modFirst mine (fun x => (x.1, x.2.1, x.2.2.1 - 1, x.2.2.2)) s.tal.releases } }

/-- The refresh of one source: its grant and its releases, on the plane at the current position of its default rotation (R246, R248). -/
def refreshOne (d : Nat) (s : State) : State :=
  let dev := BitVec.ofNat 9 d
  let mask := activeMask s dev
  if dev == ownId s || !(reValid (routeEntry s dev)) then s
  else match (rotation s [dev] mask).find? (fun p => memb mask p) with
    | none => s
    | some p =>
      let s := grantSent d (queueRefresh p (tallyEntry (tgtTally s d).issued 1 (ownId s) dev) s)
      (s.tal.releases.filter fun r => r.1 == dev && r.2.2.1 != 0).foldl (fun s r =>
        releaseSent r (queueRefresh p (tallyEntry (BitVec.ofNat 32 r.2.1.toNat) 2 (ownId s) dev) s)) s

/-- TALLY_REFRESH (R246): every valid source is refreshed, and every link owes a TALLY flit. -/
def tallyRefresh (s : State) : State :=
  if !(running s) || !(reached s (later s.tal.refreshAt (refreshUnits s))) then s
  else
    let s := { s with tal := { s.tal with refreshAt := now s } }
    let s := ((bankOf s (activeBank s)).map fun e => e.1).foldl (fun s d => refreshOne d s) s
    (List.range s.part.links).foldl (fun s p =>
      if ((link s p).state == .up || (link s p).state == .lpi) && (link s p).tallyDue.isNone then modLink p (fun l => { l with tallyDue := some (now s) }) s else s) s

/-- TALLY_REFRESH. -/
def execTallyRefresh (s : State) : Host.Outcome State Fault Refusal := .next (tallyRefresh s)

/-! ## Reconciliation at the source (R250) -/

/-- RECONCILE_SETTLE_EXPIRY (R250): new charges towards the destination are held. -/
def settleExpiry (d : Nat) (s : State) : State :=
  match (srcTally s d).settle with
  | none => s
  | some t => if reached s t then modSrcTally d (fun x => { x with settle := none, hold := true, lossInHold := false, recon := none }) s else s

/-- RECONCILE_SETTLE_EXPIRY. -/
def execReconcileSettleExpiry (dev : BitVec 9) (s : State) : Host.Outcome State Fault Refusal :=
  .next (whileRunning (settleExpiry dev.toNat) s)

/-- Charged transactions towards `d` that are neither acknowledged, answered nor lost, their commands ended or not. -/
def owing (s : State) (d : BitVec 9) : Bool := (s.tx.units ++ s.tx.ghosts).any fun u => u.charged && u.owed.contains d

/-- RECONCILE_SEND (R250): nothing charged is open towards the destination; a loss during the wait starts the settle time again. -/
def reconcileSend (d : BitVec 9) (s : State) : State :=
  let t := srcTally s d.toNat
  if !(running s) || !t.hold || t.recon.isSome || owing s d then s
  else if t.lossInHold then
    modSrcTally d.toNat (fun x => { x with hold := false, lossInHold := false, settle := some (later (now s) (settleUnits s)) }) s
  else if (entryPlane s d.toNat).isNone then s
  else modSrcTally d.toNat (fun x => { x with recon := some (now s) }) (sendEntry d.toNat 3 t.sent s)

/-- RECONCILE_SEND. -/
def execReconcileSend (dev : BitVec 9) (s : State) : Host.Outcome State Fault Refusal := .next (reconcileSend dev s)

/-- RECONCILE_RESEND (R250): repeated every 10 µs without RECON_ACK. -/
def reconcileResend (d : Nat) (s : State) : State :=
  let t := srcTally s d
  match t.hold, t.recon with
  | true, some at_ =>
    if running s && reached s (later at_ (10 * usUnits)) && (entryPlane s d).isSome then
      modSrcTally d (fun x => { x with recon := some (now s) }) (sendEntry d 3 t.sent s)
    else s
  | _, _ => s

/-- RECONCILE_RESEND. -/
def execReconcileResend (dev : BitVec 9) (s : State) : Host.Outcome State Fault Refusal := .next (reconcileResend dev.toNat s)

end Sys2Proof.Machine
end

