-- ==== Sys2Proof/Machine/Reduce.lean ====
section
/-! DEFINITION. The arithmetic of the target: atomics (R126, R106), the reduce unit (R256-R260), the opening of sealed transactions
(R354-R356). -/

namespace Sys2Proof.Machine

/-! ## Atomics (R126) -/

/-- The low `w` bytes of a word as a signed number. -/
def signedOf (w : Nat) (x : Nat) : Int := if x < 2 ^ (8 * w - 1) then x else (x : Int) - 2 ^ (8 * w)

/-- FADD: both widened to FP32, added and rounded once (R126). -/
def faddCode (f : FpFmt) (a b : Nat) : Nat := fpEncode f (fpAdd (fpDecode f a) (fpDecode f b))

/-- BF16's FADD: the FP32 sum rounded once to BF16. -/
def faddBf16 (a b : Nat) : Nat := fpEncode bf16 (add32 (fpDecode bf16 a) (fpDecode bf16 b))

/-- The value an atomic writes over the old value `x`; none when CAS does not write (R126). -/
def atomicNew (subop : Nat) (x a cmp : Nat) : Option Nat :=
  let w := amoWidth subop
  let m := 2 ^ (8 * w)
  if subop = 0x00 ∨ subop = 0x01 then some ((x + a) % m)
  else if subop = 0x02 then some (faddBf16 x a)
  else if subop = 0x03 then some (faddCode fp32 x a)
  else if subop = 0x04 ∨ subop = 0x05 then (if x = cmp then some a else none)
  else if subop = 0x06 ∨ subop = 0x07 then some a
  else if subop = 0x08 ∨ subop = 0x09 then some (if signedOf w a < signedOf w x then a else x)
  else if subop = 0x0A ∨ subop = 0x0B then some (if signedOf w x < signedOf w a then a else x)
  else if subop = 0x0C ∨ subop = 0x0D then some (min x a)
  else if subop = 0x0E ∨ subop = 0x0F then some (max x a)
  else if subop = 0x10 ∨ subop = 0x11 then some (x &&& a)
  else if subop = 0x12 ∨ subop = 0x13 then some (x ||| a)
  else some (x ^^^ a)

/-- The atomic that a SIG_OP is (R106). -/
def sigSubop (op : Nat) : Nat := if op = 1 then 0x01 else if op = 2 then 0x07 else if op = 3 then 0x13 else 0x0F

/-! ## The reduce unit (R256-R260) -/

/-- Values as FP32 bytes, and back: what a landed contribution is held as. -/
def fp32Bytes (vs : List Fp) : List Byte := elemBytes 4 (vs.map (fpEncode fp32))
def fp32Values (bs : List Byte) : List Fp := (elements 4 bs).map (fpDecode fp32)

/-- Bytes per element group of a FORMAT and its elements: an MX block is a group of 32 (R259). -/
def groupBytes (fmt : Nat) : Nat := if fmtMx fmt then mxBlock (fmt - 0x10) else elemSize fmt
def groupElems (fmt : Nat) : Nat := if fmtMx fmt then 32 else 1

/-- A value as FP32 holds it. -/
def roundFp32 (v : Fp) : Fp := fpDecode fp32 (fpEncode fp32 v)

/-- The FP32 values of bytes in FORMAT (R257, R259): an element of a block whose scale takes it out of FP32's range is an infinity. -/
def widen (fmt : Nat) (bs : List Byte) : List Fp :=
  if fmtMx fmt then (chunks (groupBytes fmt) (bs.length / groupBytes fmt) bs).flatMap fun b => (mxDecode (fmt - 0x10) b).map roundFp32 else valuesOf fmt bs

/-- Values written in FORMAT (R257, R259). -/
def narrow (fmt : Nat) (vs : List Fp) : List Byte := if fmtMx fmt then mxStream (fmt - 0x10) vs else narrowed fmt vs

/-- One element combined (R256, R258). -/
def combine (kind : Nat) (w t x : Fp) : Fp :=
  if kind = kRputSum then add32 t x else if kind = kRputMax then fpMax t x else if kind = kRputMin then fpMin t x else fma32 w x t

/-- One INT32 element combined (R258). -/
def combineInt (kind : Nat) (t x : Nat) : Nat :=
  if kind = kRputSum then (t + x) % 2 ^ 32
  else if kind = kRputMax then (if signedOf 4 t < signedOf 4 x then x else t)
  else (if signedOf 4 x < signedOf 4 t then x else t)

/-- The weight of each element of a stripe: its row's (R119). -/
def elemWeights (t : Txn) : List Fp :=
  let n := (txBytes t / groupBytes t.format.toNat * groupElems t.format.toNat) / txRows t
  t.weights.flatMap fun w => List.replicate n (fpDecode fp32 w.toNat)

/-- The bytes a combine writes: the target bytes combined with the contribution (R256). -/
def reduceBytes (t : Txn) (target contribution : List Byte) : List Byte :=
  let k := t.kind.toNat
  let f := t.format.toNat
  if f = 6 then elemBytes 4 (((elements 4 target).zip (elements 4 contribution)).map fun p => combineInt k p.1 p.2)
  else
    let ws := if k = kRputWsum then elemWeights t else []
    let ts := widen f target
    let xs := fp32Values contribution
    narrow f (((ts.zip xs).zip (ws ++ List.replicate (ts.length - ws.length) (.fin false 0 0))).map fun p => combine k p.2 p.1.1 p.1.2)

/-- The contribution of decoded data: INT32 words as they are, else FP32 values (R260). -/
def contribution (fmt : Nat) : Decoded → List Byte
  | .bytes bs => if fmt = 6 then bs else fp32Bytes (widen fmt bs)
  | .values vs => fp32Bytes vs
  | _ => []

/-- A FORMAT the reduce unit combines. -/
def reduceFormat (kind fmt : Nat) : Bool := if kind = kRputWsum then [1, 2, 3, 4, 5].contains fmt || fmtMx fmt else [1, 2, 3, 4, 5, 6].contains fmt || fmtMx fmt

/-! ## Sealed transactions (R353-R356) -/

/-- What opening a transaction comes to: its plain form, or a fault kind with ADDRESS. -/
inductive Opened
  | plain (t : Txn)
  | bad (kind addr : Nat)
  deriving DecidableEq, Repr

/-- The receive window after counter `c` is accepted; none for a replay (R356). -/
def rxAccept (p : PairSlot) (c : BitVec 64) : Option PairSlot :=
  let i := c.toNat % 1024
  if p.rxTop.toNat < c.toNat then
    let gap := min 1024 (c.toNat - p.rxTop.toNat)
    let m := if gap = 1024 then 0 else (List.range gap).foldl (fun m k => setBit m ((p.rxTop.toNat + 1 + k) % 1024) false) p.rxMap
    some { p with rxTop := c, rxMap := setBit m i true }
  else if 1024 ≤ p.rxTop.toNat - c.toNat ∨ memb p.rxMap i then none
  else some { p with rxMap := setBit p.rxMap i true }

/-- The plain weights and payload of an opened body: weight slots first (R352). -/
def plainBody (t : Txn) (bs : List Byte) : Txn :=
  let n := if t.kind.toNat = kRputWsum then txRows t else 0
  let m := 32 * ceilDiv n 8
  { t with weights := (chunks 4 n bs).map (fun b => BitVec.ofNat 32 (ofLE b)), payload := if t.coded then bs.drop m else (bs.drop m).take (txBytes t), sealSlot := t.sealSlot }

/-- The last slot of a transaction read as a tag slot: its counter and G (R353, R354). -/
def lastAsTag (t : Txn) : Nat × Nat :=
  let x := ((txSlots t).getLast?.getD 0).toNat
  (x / 2 ^ 128 % 2 ^ 64, x / 2 ^ 192 % 2 ^ 8)

/-- Open a transaction from another device for parish `q` (R353, R356). -/
def openTxn (q : BitVec 6) (t : Txn) (s : State) : Opened × State :=
  if t.src = ownId s then (.plain t, s)
  else if !(parSealed s q) then (if t.sealSlot.isSome then (.bad kSealMismatch t.window.toNat, s) else (.plain t, s))
  else match t.sealSlot with
    | none =>
      let (c, g) := lastAsTag t
      if (openSlot? s q t.src (BitVec.ofNat 8 g)).isSome then (.bad kSealTag (c % 2 ^ 52), s) else (.bad kSealNoKey g, s)
    | some g =>
      match openSlot? s q t.src g.gen with
      | none => (.bad kSealNoKey g.gen.toNat, s)
      | some (n, p) =>
        match Config.gcmOpen p.key (sealIv t.src (ownId s) p.peerParish q 0 g.ctr) (sealAad t) t.payload g.tag with
        | none => (.bad kSealTag (g.ctr.toNat % 2 ^ 52), s)
        | some plain =>
          match rxAccept p g.ctr with
          | none => (.bad kSealReplay (g.ctr.toNat % 2 ^ 52), s)
          | some p' => (.plain (plainBody t plain), modSlot n (fun _ => p') s)

/-- An answer from a device is authentic: for a sealed parish its tag passes and it names the counter of the item it answers
(R358). -/
def answerAuthentic (s : State) (q : BitVec 6) (item : Option SealTag) (t : Txn) : Bool :=
  if t.src = ownId s || !(parSealed s q) then true
  else match item, t.sealSlot with
    | some i, some g =>
      match openSlot? s q t.src i.gen with
      | none => false
      | some (_, p) =>
        decide (g.answered = i.ctr)
        && (Config.gcmOpen p.key (sealIv t.src (ownId s) p.peerParish q 1 g.ctr) (sealAad t ++ wordBytes g.answered) [] g.tag).isSome
    | _, _ => false

end Sys2Proof.Machine
end

