-- ==== Sys2Proof/Machine/Target.lean ====
section
/-! DEFINITION. The target side: landing, the window check, ingress translation, commits, combines, atomics and signals (R16, R43-R49,
R59, R128-R130, R142-R144, R182, R194-R199, R232-R236, R249-R268, R284, R285, R482-R485). -/

namespace Sys2Proof.Machine

/-! ## What a transaction addresses -/

/-- The window a transaction names: a SIGNAL's stands in its signal slot (R106, R197). -/
def txWindow (t : Txn) : BitVec 20 := if t.kind.toNat = kSignal then t.sigCtl.extractLsb' 40 20 else t.window

/-- The offset of a signal word (R106). -/
def sigOffset (ctl : Word) : Nat := bits ctl 3 37 * 8

/-- The runs of bytes a transaction accesses in its window. -/
def txAccess (t : Txn) : List (Nat × Nat) :=
  let k := t.kind.toNat
  if k = kAmo ∨ k = kAmof then [(t.offset.toNat, amoWidth t.subop.toNat)]
  else if k = kSignal then [(sigOffset t.sigCtl, 8)]
  else txRuns t

/-- The operation class, as its bit in CLASSES (R139): READ 0, WRITE 1, ATOMIC 2, REDUCE 3. -/
def txClass (t : Txn) : Nat :=
  let k := t.kind.toNat
  if k = kGetRequest ∨ k = kLoad then 0 else if k = kPutData ∨ k = kStore then 1 else if k = kAmo ∨ k = kAmof ∨ k = kSignal then 2 else 3

/-- A reduce stripe. -/
def txReduce (t : Txn) : Bool := decide (kRputSum ≤ t.kind.toNat) && decide (t.kind.toNat ≤ kRputWsum)

/-- A data stripe (R44). -/
def txData (t : Txn) : Bool := t.kind.toNat == kPutData || txReduce t

/-- KIND codes that R197 lists. -/
def kindListed (k : Nat) : Bool := (decide (1 ≤ k) && decide (k ≤ 0x0E)) || (decide (0x10 ≤ k) && decide (k ≤ 0x16))

/-- A transaction that R199 discards; an atomic's SUBOP, a FORMAT or a shape that no code lists counts as reserved. -/
def malformed (t : Txn) : Bool :=
  let k := t.kind.toNat
  !(kindListed k) || t.reserved || (t.shaped && !t.arg) || decide (t.len < txAnnounced t)
  || ((k == kAmo || k == kAmof) && decide (0x15 < t.subop.toNat))
  || (fmtUnit t.format.toNat).isNone || (txReduce t && !(reduceFormat k t.format.toNat)) || decide (16 < t.count.toNat)

/-- The transaction names this device (R193). -/
def forUs (s : State) (t : Txn) : Bool :=
  if t.cast = 0 then t.dest == ownId s
  else if t.cast = 1 then memb t.mask ((ownId s).extractLsb' 0 6).toNat
  else memb t.mask ((ownId s).extractLsb' 6 3).toNat

/-- The local parish whose tag a transaction carries (R103). -/
def tagParish (s : State) (tag : BitVec 16) : BitVec 6 :=
  ((s.par.find? fun e => e.2.state != .free && e.2.tag == tag).map fun e => BitVec.ofNat 6 e.1).getD 0

/-! ## Lines and answers -/

/-- Lines held in the Barn (R232). -/
def linesHeld (s : State) : Nat := (s.tal.tgt.map fun e => e.2.held).foldl (· + ·) 0

/-- The highest number of lines held (R253). -/
def highWater (s : State) : State :=
  let n := linesHeld s
  if s.brn.highWater.toNat < n then { s with brn := { s.brn with highWater := BitVec.ofNat 20 n } } else s

/-- An arrival leaves and its lines are released (R236). -/
def endArrival (a : Arrival) (s : State) : State :=
  releaseLines a.txn.src.toNat a.lines { s with brn := { s.brn with arrivals := s.brn.arrivals.filter fun x => x.id != a.id } }

/-- Answer an arrival once its lines are released (R484). -/
def answerArrival (a : Arrival) (k : Nat) (st : BitVec 8) (s : State) : State := answer a.via a.parish a.txn k st (endArrival a s)

/-- Charge a response of this device to the requester of an arrival: it waits for credit under its own tally (R116, R233); a device fenced meanwhile is
answered FENCED in its place (R182). Load data keeps to the
plane its load came by while that stands in the mask (R176). DEDUCED: log entry 148. -/
def respond (a : Arrival) (t : Txn) (s : State) : State :=
  let pin := match a.via with
    | .link p => if a.txn.kind.toNat = kLoad then some p.toNat else none
    | .self => none
  if a.txn.src != ownId s && fenced s a.parish.toNat a.txn.src.toNat then answer a.via a.parish a.txn kRefuse stFenced s
  else addUnit (.answer a.txn.src) [a.txn.src] (some a.parish) pin t s

/-- The frame of a response. PTAG and OFFSET of its target word are 0: R196 speaks of a sending channel's tag and a window offset, and a response has
neither. DESIGN CHOICE, unsafe: log entry 146. -/
def responseTo (s : State) (a : Arrival) (k : Nat) : Txn :=
  { kind := BitVec.ofNat 5 k, len := 1, src := ownId s, dest := a.txn.src, format := a.txn.format, tag := a.txn.tag, stripe := a.txn.stripe }

/-! ## Pending signals (R44, R59, R130, R485) -/

def isEnt (src : BitVec 9) (tag : BitVec 16) (e : SigEnt) : Bool := e.src == src && e.tag == tag

/-- The pending-signal entry of a key. -/
def ent? (s : State) (src : BitVec 9) (tag : BitVec 16) : Option SigEnt := s.sig.ents.find? (isEnt src tag)

/-- The state with an entry changed. -/
def modEnt (src : BitVec 9) (tag : BitVec 16) (f : SigEnt → SigEnt) (s : State) : State :=
  { s with sig := { s.sig with ents := modFirst (isEnt src tag) f s.sig.ents } }

/-- The first transaction of a signalled command to land creates its entry (R44). R44 gives the table 8,192 entries and no rule for a DONE entry that
finds it full: the model's table has room for every entry. DESIGN CHOICE, unsafe: log entry 147. -/
def makeEnt (t : Txn) (s : State) : State :=
  if (ent? s t.src t.tag).isSome then s
  else { s with sig := { s.sig with ents := s.sig.ents ++ [{ src := t.src, tag := t.tag, holdEnd := waitEnd s, window := txWindow t, parish := tagParish s t.ptag }] } }

/-- An entry that is still pending becomes CANCELLED (R44). -/
def cancelPending (e : SigEnt) (t : Time) : SigEnt := if e.state = .pending then { e with state := .cancelled, holdEnd := t } else e

/-- A refusal cancels the entry of its command, creating it if absent (R130). -/
def cancelEnt (t : Txn) (s : State) : State := modEnt t.src t.tag (fun e => cancelPending e (waitEnd s)) (makeEnt t s)

/-- Refuse an arrival (R128-R130, R236, R484). -/
def refuseArrival (a : Arrival) (st : BitVec 8) (s : State) : State :=
  let s := if (txData a.txn && a.txn.signalled) || a.txn.kind.toNat == kSignal then cancelEnt a.txn s else s
  answerArrival a kRefuse st s

/-- Refuse and raise a fault at the peer. -/
def refuseFault (a : Arrival) (st : BitVec 8) (kind addr : Nat) (s : State) : State :=
  raise (srcPeer a.txn.src.toNat) kind addr [] (some a.parish) (refuseArrival a st s)

/-! ## The window check (R128, R142, R182) -/

/-- GBL_WIN_CTL.EN and N_W (R138). -/
def winEn (s : State) : Bool := bitAt s.gbl.winCtl 5
def winCount (s : State) : Nat := 2 ^ bits s.gbl.winCtl 0 5

/-- The order of R128, with the fences of R182 and an entry marked invalid (R24): OK, or the refusal. -/
def windowCheck (s : State) (t : Txn) : BitVec 8 :=
  let h := (txWindow t).toNat
  let w := win s h
  if !(winEn s) || decide (winCount s ≤ h) then stNoWindow
  else if !w.valid then stData
  else if w.state ≠ .opened ∨ w.tag ≠ t.ptag then stNoWindow
  else if t.src ≠ ownId s ∧ memb (fence s t.src.toNat).parishes w.parish.toNat then stFenced
  else if (txAccess t).any (fun r => decide (w.length.toNat < r.1 + r.2)) then stBounds
  else if !(w.classes.getLsbD (txClass t)) then stAccess
  else stOk

/-- A coded stripe or request this device cannot decode or code (R284). -/
def codingUnfit (s : State) (q : BitVec 6) (t : Txn) : Bool :=
  t.coded && (codingReserved t.coding || (profNeedsC t.coding && !s.part.c) || (profNeedsM t.coding && !s.part.m)
    || (profRot t.coding == 2 && (regOf s q (profMatrix t.coding)).isNone))

/-- K and N of the matrix a transaction's coding names. -/
def txDims (s : State) (a : Arrival) : Nat × Nat := if a.txn.coded then profDims s a.parish a.txn.coding else (0, 0)

/-- The landed payload decoded. -/
def decodeArrival (s : State) (a : Arrival) : Decoded :=
  let (k, m) := txDims s a
  decodeStripe a.txn.coded a.txn.coding (txBytes a.txn) k m a.txn.payload

/-! ## Memory accesses of an arrival -/

/-- The virtual pieces of an arrival under its window's base. -/
def arrVirt (s : State) (a : Arrival) : List (Nat × Nat) :=
  let base := (win s (txWindow a.txn).toNat).vaBase.toNat
  (txAccess a.txn).map fun r => (base + r.1, r.2)

/-- Its physical pieces. -/
def arrPhys (s : State) (a : Arrival) : List (Nat × Nat) := physAll a.ranges (arrVirt s a)

/-- The agent of an arrival for invalidations (R162). -/
def arrAgent (t : Txn) : BitVec 6 := if txReduce t then 52 else if t.kind.toNat = kLoad ∨ t.kind.toNat = kStore then 50 else 49

/-- An arrival's unit of issue is tested against the watchpoints (R428). -/
def watchArrival (a : Arrival) (s : State) : State := watchWindow a.txn.window (txClass a.txn) a.txn.src.toNat (txAccess a.txn) s

/-- Read the arrival's bytes. -/
def readArrival (a : Arrival) (s : State) : State :=
  let s := modArrival a.id (fun x => { x with state := .reading, began := s.memp.nextId }) s
  watchArrival a (issueRead (.target a.id) (arrPhys s a) 1 (some (arrAgent a.txn)) (spanUse a.parish (arrVirt s a)) s)

/-- Write bytes over the arrival's pieces: the commit (R16 step 6). -/
def writeArrival (a : Arrival) (bs : List Byte) (s : State) : State :=
  let s := modArrival a.id (fun x => { x with state := .writing }) s
  issueWrite (.commit a.id) (cellsOver (arrPhys s a) bs) 1 true (some (arrAgent a.txn)) (spanUse a.parish (arrVirt s a)) s

/-- Commit a stripe or store. -/
def commitArrival (a : Arrival) (bs : List Byte) (s : State) : State := watchArrival a (writeArrival a bs s)

/-! ## Combines in progress (R263) -/

/-- Two lists of pieces share a byte. -/
def piecesMeet (ps qs : List (Nat × Nat)) : Bool := ps.any fun p => qs.any fun q => decide (p.1 < q.1 + q.2) && decide (q.1 < p.1 + p.2)

/-- A combine that left the decode stage earlier for some of the same bytes has not read its target yet (R263). One that translates anew keeps its
place. -/
def combineBusy (s : State) (a : Arrival) : Bool :=
  s.brn.arrivals.any fun b => txReduce b.txn && b.turn != 0 && decide (b.turn < a.turn)
    && (((b.state == .reading || b.state == .unit) && piecesMeet (arrPhys s b) (arrPhys s a))
      || (b.state == .xlate && b.parish == a.parish && piecesMeet (arrVirt s b) (arrVirt s a)))

/-- A contribution leaves the decode stage: it takes its turn, and its target is read, or it waits behind an earlier combine of the same bytes
(R263). -/
def startCombine (a : Arrival) (data : List Byte) (s : State) : State :=
  let n := if a.turn = 0 then s.brn.turns + 1 else a.turn
  let a := { a with data := data, state := .unit, turn := n }
  let s := modArrival a.id (fun x => { x with data := data, state := .unit, turn := n }) { s with brn := { s.brn with turns := max s.brn.turns n } }
  if combineBusy s a then s else readArrival a s

/-- Combines that waited start, in turn. -/
def wakeCombines (s : State) : State :=
  (sortBy (fun a => a.turn) (s.brn.arrivals.filter fun a => txReduce a.txn && a.state == .unit)).foldl
    (fun s a => if combineBusy s a then s else readArrival a s) s

/-! ## The atomic unit (R47, R482, R485) -/

/-- The aligned 8-B word an operand lies in (R482). -/
def opWord (o : AtomOp) : Nat := o.pa / 8 * 8

/-- The state with an operation changed. -/
def modOp (id : Nat) (f : AtomOp → AtomOp) (s : State) : State :=
  { s with sig := { s.sig with ops := modFirst (fun o => o.id == id) f s.sig.ops } }

/-- The operation numbered `id`. -/
def op? (s : State) (id : Nat) : Option AtomOp := s.sig.ops.find? fun o => o.id == id

/-- The operations before one. -/
def opsBefore (s : State) (o : AtomOp) : List AtomOp := s.sig.ops.takeWhile fun x => x.id != o.id

/-- An operation's read is outstanding. -/
def opReading (s : State) (o : AtomOp) : Bool := s.memp.reads.any fun r => r.use == .atomic o.id

/-- The last operation before one on the same word. -/
def opAhead (s : State) (o : AtomOp) : Option AtomOp := ((opsBefore s o).filter fun b => opWord b == opWord o).getLast?

/-- A CAS that does not write has its value but issues no write: it ends at once. -/
def opWrites (o : AtomOp) : Bool := o.new.isSome

/-- The word with an operand's bytes replaced. -/
def putOperand (o : AtomOp) (w : Word) (v : Nat) : Word :=
  let sh := 8 * (o.pa % 8)
  let m := place (2 ^ (8 * o.width) - 1) sh (8 * o.width)
  (w &&& ~~~m) ||| place v sh (8 * o.width)

/-- An operation has its word: it computes, issues its write, and the unit holds the word as it leaves it (R482). CAS compares with the whole of
COMPARE. -/
def opCompute (o : AtomOp) (w : Word) (s : State) : State :=
  let x := bits w (8 * (o.pa % 8)) (8 * o.width)
  let new := atomicNew o.subop.toNat x (o.operand.toNat % 2 ^ (8 * o.width)) o.compare.toNat
  let s := modOp o.id (fun o => { o with
    old := some (BitVec.ofNat 64 x), new := new.map (BitVec.ofNat 64), held := some ((new.map (putOperand o w)).getD w) }) s
  match new with
  | some v => issueWrite (.atomic o.id) (cellsAt o.pa (leBytes o.width v)) 1 true (some 49) none s
  | none => s

/-- An operation begins: it reads its word, or takes it from the last one on that word that is still in the unit (R482). -/
def opStart (o : AtomOp) (s : State) : State :=
  match opAhead s o with
  | none => if opReading s o then s else issueRead (.atomic o.id) [(opWord o, 8)] 1 (some 49) none s
  | some b => match b.held with
    | some w => opCompute o w s
    | none => s

/-- Every operation that can go on does, in order. -/
def pumpOps (s : State) : State := s.sig.ops.foldl (fun s o => if o.old.isNone then opStart o s else s) s

/-- Append an operation. -/
def addOp (use : AtomFor) (pa width : Nat) (subop : BitVec 8) (operand compare : Word) (s : State) : State :=
  let o : AtomOp := { id := s.sig.nextId, use := use, pa := pa, width := width, subop := subop, operand := operand, compare := compare,
                      began := s.memp.nextId }
  opStart o { s with sig := { s.sig with ops := s.sig.ops ++ [o], nextId := s.sig.nextId + 1 } }

/-- The answer to a query (R59): 0 APPLIED, 1 NOT_APPLIED; authenticated where the query is. -/
def answerQuery (via : Via) (q : BitVec 6) (t : Txn) (applied : Bool) (s : State) : State :=
  answer via q t kQueryReply (if applied then 0 else 1) s

/-- The SIGNAL an entry's answers concern. -/
def entTxn (s : State) (e : SigEnt) : Txn :=
  { kind := BitVec.ofNat 5 kSignal, len := 1, src := e.src, dest := ownId s, tag := e.tag, signal := true, sealSlot := e.auth }

/-- A signal's application ends: DONE with SIGNAL_DONE, or CANCELLED with a refusal; queries that waited are answered (R59, R485). -/
def signalEnds (e : SigEnt) (applied : Bool) (st : BitVec 8) (s : State) : State :=
  let s := modEnt e.src e.tag (fun x => { x with state := if applied then .done else .cancelled, holdEnd := waitEnd s, queried := [] }) s
  let s := answer e.via e.parish (entTxn s e) (if applied then kSignalDone else kRefuse) st s
  e.queried.foldl (fun s q => answerQuery q.1 e.parish q.2 applied s) s

/-- The fault kind of a range that is not RESIDENT at ingress (R143, R155). -/
def ingressKind (k : Nat) : Nat := if k = tAway then kAway else if k = tUnmapped then kUnmapped else kTableError

/-- A handed entry's word is translated and its operation begins (R143, R485). -/
def signalStart (e : SigEnt) (s : State) : State :=
  match e.sig with
  | none => s
  | some (ctl, v, _) =>
    let va := (win s e.window.toNat).vaBase.toNat + sigOffset ctl
    match lookup s e.parish va with
    | .miss => startWalk e.parish va true s
    | .bad k _ => signalEnds e false stAccess (raise srcTerrier (ingressKind k) va [] (some e.parish) s)
    | .resident pa _ =>
      let s := watchWindow e.window wAtomic e.src.toNat [(sigOffset ctl, 8)] (touchCache e.parish va s)
      addOp (.signal e.src e.tag) pa 8 (BitVec.ofNat 8 (sigSubop (bits ctl 60 4))) v 0 s

/-- An entry whose signal has landed and whose stripes are all committed is handed to the atomic unit (R485). -/
def handOver (src : BitVec 9) (tag : BitVec 16) (s : State) : State :=
  match ent? s src tag with
  | none => s
  | some e =>
    match e.state, e.sig with
    | .pending, some (_, _, n) =>
      if n ≤ e.count then signalStart { e with state := .handed } (modEnt src tag (fun e => { e with state := .handed }) s) else s
    | _, _ => s

/-- Handed entries that wait for a walk try again. -/
def retrySignals (s : State) : State :=
  (s.sig.ents.filter fun e => e.state == .handed && !(s.sig.ops.any fun o => o.use == .signal e.src e.tag)).foldl (fun s e => signalStart e s) s

/-- An operation ends with or without error: its answer goes, once its write is acknowledged (R482, R484, R485). -/
def opEnds (o : AtomOp) (ok : Bool) (s : State) : State :=
  let s := { s with sig := { s.sig with ops := s.sig.ops.filter fun x => x.id != o.id } }
  let s := match o.use with
    | .signal src tag => match ent? s src tag with
      | some e => signalEnds e ok (if ok then stOk else stData) s
      | none => s
    | .arrival n => match arrival? s n with
      | none => s
      | some a =>
        if !ok then refuseArrival a stData s
        else
          let s := bytesIn a.parish o.width s
          if a.txn.kind.toNat = kAmo then answerArrival a kAmoDone stOk s
          else endArrival a (respond a { responseTo s a kAmofResult with oldValue := o.old.getD 0 } s)
  pumpOps s

/-- The operations that have their value and write nothing end. -/
def endSilent (s : State) : State := (s.sig.ops.filter fun o => o.old.isSome && !(opWrites o)).foldl (fun s o => opEnds o true s) s

/-! ## Translated arrivals (R143) -/

/-- An arrival is translated: it commits, reads, combines, or enters the atomic unit (R16). -/
def arrReady (a : Arrival) (s : State) : State :=
  let k := a.txn.kind.toNat
  if k = kGetRequest ∨ k = kLoad then readArrival a s
  else if k = kStore then commitArrival a (a.txn.payload.take (txBytes a.txn)) s
  else if k = kAmo ∨ k = kAmof then
    match arrPhys s a with
    | (pa, w) :: _ =>
      let s := modArrival a.id (fun x => { x with state := .unit }) s
      endSilent (addOp (.arrival a.id) pa w a.txn.subop a.txn.operand a.txn.compare (watchArrival a s))
    | [] => s
  else if a.decoded then (if txReduce a.txn then startCombine a a.data s else commitArrival a a.data s)
  else match decodeArrival s a with
    | .bad => refuseFault a stData kCodecStream a.txn.tag.toNat s
    | .rotated _ =>
      let (n, m) := txDims s a
      millWait (.ingress a.id) (rotGang n m) (shapeAddr n m) (modArrival a.id (fun x => { x with state := .gang, waitEnd := waitEnd s }) s)
    | d =>
      if txReduce a.txn then startCombine a (contribution a.txn.format.toNat d) s
      else commitArrival a (decodedBytes a.txn.coding d) s

/-- The arrival as the table holds it. -/
def withArrival (id : Nat) (f : Arrival → State → State) (s : State) : State :=
  match arrival? s id with
  | none => s
  | some a => f a s

/-- An arrival `b` has yet to issue the access that a later one of its link, overlapping it, must follow (R51). The reduce unit and the
atomic unit each keep their own order (R263, R482). -/
def accessAhead (a b : Arrival) : Bool :=
  match b.state with
  | .window | .xlate => true
  | .gang => b.data.isEmpty || b.decoded
  | .unit => if txReduce b.txn then !(txReduce a.txn) else txClass a.txn != 2
  | .reading => txReduce b.txn && !(txReduce a.txn)
  | .writing | .staged | .group | .reply => false

/-- An access that arrived earlier on the same link and shares a byte with this one goes first (R51). One whose bytes are not known yet counts as
sharing some. -/
def linkAhead (s : State) (a : Arrival) : Bool :=
  (s.brn.arrivals.takeWhile fun b => b.id != a.id).any fun b =>
    b.via == a.via && b.cmd.isNone && accessAhead a b && (b.ranges.isEmpty || piecesMeet (arrPhys s b) (arrPhys s a))

/-- Translate an arrival's bytes from the cache: a walk, a refusal, or on (R143), after those of its link ahead of it (R51). A combine that has its
turn has passed those already. -/
def xlateArrival (id : Nat) (s : State) : State :=
  match arrival? s id with
  | none => s
  | some a =>
    let spans := (arrVirt s a).map fun p => ({ va := p.1, len := p.2 } : Span)
    let x := translate s a.parish (xlFuel s spans) { spans := spans, ranges := [], bads := [], miss := none }
    match x.bads, x.miss with
    | (va, k) :: _, _ => wakeCombines (raise srcTerrier (ingressKind k) va [] (some a.parish) (refuseArrival a stAccess s))
    | [], some va => startWalk a.parish va true (modArrival id (fun x => { x with state := .xlate }) s)
    | [], none =>
      if a.turn == 0 && linkAhead s { a with ranges := x.ranges } then modArrival id (fun x => { x with state := .xlate }) s
      else
        let s := x.ranges.foldl (fun s r => touchCache a.parish r.va s) s
        withArrival id arrReady (modArrival id (fun y => { y with ranges := x.ranges }) s)

/-- Arrivals that wait for a walk or for one ahead of them, and signals that wait for a walk, try again, in arrival order. -/
def retryArrivals (s : State) : State :=
  retrySignals ((s.brn.arrivals.filter fun a => a.cmd.isNone && a.state == .xlate).foldl (fun s a => xlateArrival a.id s) s)

/-! ## Ordered groups (R264-R268) -/

/-- The entry of an arrival's key. -/
def isGroup (t : Txn) (g : Group) : Bool := g.window == t.window && g.offset == t.offset && g.stripe == t.stripe

/-- An arrival of the same key. -/
def sameGroup (t u : Txn) : Bool := txReduce u && u.count != 0 && u.window == t.window && u.offset == t.offset && u.stripe == t.stripe

/-- The state with a group changed. -/
def modGroup (t : Txn) (f : Group → Group) (s : State) : State := { s with groups := modFirst (isGroup t) f s.groups }

/-- Handle an ORDERED stripe by the first matching row of R265. -/
def orderArrival (a : Arrival) (s : State) : State :=
  let t := a.txn
  let go := fun (g : Group) (s : State) =>
    if g.broken then refuseArrival a stTimeout s
    else if g.count ≠ t.count.toNat ∨ t.rank.toNat < g.next
        ∨ s.brn.arrivals.any (fun b => b.id != a.id && sameGroup t b.txn && b.txn.rank == t.rank && b.state != .group && b.state != .window && b.state != .writing) then
      refuseFault a stAccess kOrderMismatch t.window.toNat s
    else if t.rank.toNat = g.next then xlateArrival a.id s
    else modArrival a.id (fun x => { x with state := .staged, waitEnd := waitEnd s }) s
  match s.groups.find? (isGroup t) with
  | some g => go g (modGroup t (fun g => { g with freeAt := waitEnd s }) s)
  | none =>
    if 8192 ≤ s.groups.length then modArrival a.id (fun x => { x with state := .group, waitEnd := waitEnd s }) s
    else
      let g : Group := { window := t.window, offset := t.offset, stripe := t.stripe, count := t.count.toNat, next := 0, freeAt := waitEnd s }
      go g { s with groups := s.groups ++ [g] }

/-- Stripes that wait for a group entry go on, in the order in which they landed, where their key has one or one is free (R264). -/
def wakeGroups (s : State) : State :=
  (s.brn.arrivals.filter fun a => a.state == .group).foldl (fun s a =>
    if s.groups.any (isGroup a.txn) || decide (s.groups.length < 8192) then withArrival a.id orderArrival s else s) s

/-- A combine of a group has been issued: NEXT advances; the staged stripe of rank NEXT follows, or the entry frees (R265). -/
def groupAdvance (t : Txn) (s : State) : State :=
  if t.count = 0 then s
  else match s.groups.find? (isGroup t) with
    | none => s
    | some g =>
      if g.broken then s
      else if g.next + 1 = g.count then wakeGroups { s with groups := dropFirst (isGroup t) s.groups }
      else
        let s := modGroup t (fun g => { g with next := g.next + 1 }) s
        match s.brn.arrivals.find? (fun b => b.state == .staged && sameGroup t b.txn && b.txn.rank.toNat == g.next + 1) with
        | some b => xlateArrival b.id s
        | none => s

/-! ## Landing (R232, R252) -/

/-- The window check has passed: the transaction is opened, its coding checked, and it goes on (R16 steps 1 and 2). -/
def passedArrival (a : Arrival) (s : State) : State :=
  match openTxn a.parish a.txn s with
  | (.bad k addr, s) => refuseFault a stIntegrity k addr s
  | (.plain t, s) =>
    let a := { a with txn := t }
    let s := modArrival a.id (fun _ => a) s
    if t.kind.toNat = kSignal then
      let s := modEnt t.src t.tag (fun e => { e with sig := some (t.sigCtl, t.sigValue, t.expected.toNat), window := txWindow t, parish := a.parish,
                                                     via := a.via, auth := t.sealSlot }) s
      handOver t.src t.tag (answerArrival a kAck stOk s)
    else if codingUnfit s a.parish t then refuseFault a stAccess kCodingUnsupported (bits t.coding 0 52) s
    else if txReduce t && t.count != 0 then orderArrival a s
    else xlateArrival a.id s

/-- The window check of an arrival whose entry is at hand (R128). A signal that lands on a CANCELLED entry is discarded (R44). -/
def checkArrival (a : Arrival) (s : State) : State :=
  let t := a.txn
  if t.src ≠ ownId s ∧ (fence s t.src.toNat).device then refuseArrival a stFenced s
  else if t.kind.toNat = kSignal ∧ ((ent? s t.src t.tag).any fun e => e.state != .pending || e.sig.isSome) then answerArrival a kAck stOk s
  else
    let st := windowCheck s t
    if st = stOk then
      let a := { a with parish := (win s (txWindow t).toNat).parish }
      passedArrival a (modArrival a.id (fun _ => a) s)
    else refuseArrival a st s

/-- Use of a window entry that exists: it is the most recent of the 8,192 cached (R144). -/
def touchWindow (h : Nat) (s : State) : State := if winCount s ≤ h then s else { s with wins := { s.wins with cached := (h :: s.wins.cached.erase h).take 8192 } }

/-- The address of a window entry (R138). -/
def winAddr (s : State) (h : Nat) : Nat := s.gbl.winBase.toNat + 64 * h

/-- A device is fenced whole: its arrivals are answered FENCED before their window is looked at (R182). -/
def fencedWhole (s : State) (d : BitVec 9) : Bool := d != ownId s && (fence s d.toNat).device

/-- The window stage of an arrival: a cached entry is checked at once, another is read first (R144). -/
def windowStage (a : Arrival) (s : State) : State :=
  let h := (txWindow a.txn).toNat
  if fencedWhole s a.txn.src then refuseArrival a stFenced s
  else if !(winEn s) || decide (winCount s ≤ h) || s.wins.cached.contains h then checkArrival a (touchWindow h s)
  else if s.brn.arrivals.any fun b => b.id != a.id && b.state == .window && txWindow b.txn == txWindow a.txn then s
  else issueRead (.winEntry a.id) [(winAddr s h, 64)] 1 (some 49) none s

/-- A window entry has been read: every arrival that waits for it is checked, in arrival order. -/
def windowBack (id : Nat) (s : State) : State :=
  match arrival? s id with
  | none => s
  | some a =>
    let h := txWindow a.txn
    let s := touchWindow h.toNat s
    (s.brn.arrivals.filter fun b => b.state == .window && txWindow b.txn == h).foldl (fun s b => withArrival b.id checkArrival s) s

/-- A window entry's read was answered with an error: the accesses that wait for it are answered DATA_UNCORRECTABLE (R24, R412), those of a device fenced
whole FENCED (R182). -/
def windowFailed (id : Nat) (s : State) : State :=
  match arrival? s id with
  | none => s
  | some a =>
    let h := txWindow a.txn
    (s.brn.arrivals.filter fun b => b.state == .window && txWindow b.txn == h).foldl (fun s b =>
      refuseArrival b (if fencedWhole s b.txn.src then stFenced else stData) s) s

/-- A transaction enters the Barn and is checked (R232). -/
def enterBarn (via : Via) (t : Txn) (lines : Nat) (f : Arrival → State → State) (s : State) : State :=
  let a : Arrival := { id := s.brn.nextId, via := via, txn := t, lines := lines, state := .window, parish := tagParish s t.ptag, waitEnd := waitEnd s }
  let s := { s with brn := { s.brn with arrivals := s.brn.arrivals ++ [a], nextId := s.brn.nextId + 1 } }
  let s := if lines = 0 then s else highWater (modTgtTally t.src.toNat (fun x => { x with held := x.held + lines }) s)
  f a s

/-- The checks of R252: `n` more lines of a source exceed its exposure, or the free lines of the Barn. -/
def overLines (s : State) (d n : Nat) : Bool :=
  let x := tgtTally s d
  decide (exposure x < x.held + n) || decide (barnLines < linesHeld s + n)

/-- The checks of R252 on a charged transaction's header. -/
def overrun (s : State) (t : Txn) : Bool := overLines s t.src.toNat (txLines t)

/-- A transaction's header finds no room: FREED advances by its charge, the overrun is counted, and BARN_OVERRUN raised (R236, R252). -/
def countOverrun (t : Txn) (s : State) : State :=
  let s := advanceFreed t.src.toNat (txLines t) s
  raise (srcPeer t.src.toNat) kBarnOverrun t.tag.toNat [] none { s with brn := { s.brn with overruns := satAdd s.brn.overruns 1 } }

/-- A discarded transaction has landed: it is answered BARN_OVERRUN (R252). -/
def answerOverrun (via : Via) (t : Txn) (s : State) : State :=
  answer via (tagParish s t.ptag) t kRefuse stOverrun (if (txData t && t.signalled) || t.kind.toNat == kSignal then cancelEnt t s else s)

/-- Discard a transaction as BARN_OVERRUN (R252). -/
def discardOverrun (via : Via) (t : Txn) (s : State) : State := answerOverrun via t (countOverrun t s)

/-- A header that found no room is the transaction's own. -/
def sameHead (t x : Txn) : Bool := x.src == t.src && x.kind == t.kind && x.len == t.len && stripeWord x == stripeWord t

/-- A charged transaction lands: over a link, within its source's credit; or from the device's own egress (R113, R252). A malformed one is discarded
(R199): its charge is released, LINK_PROTOCOL raised, and no answer sent, as the table of answers has none for it. DESIGN CHOICE, unsafe: log entry
149. `over_`: what an overrun does besides. -/
def landCharged (via : Via) (t : Txn) (over_ : State → State) (f : Arrival → State → State) (s : State) : State :=
  match via with
  | .self =>
    if !(running s) || !(s.tx.locals.contains t) then s
    else enterBarn via t 0 f { s with tx := { s.tx with locals := dropFirst (fun x => x == t) s.tx.locals } }
  | .link p =>
    if !(linkHears s p && s.gbl.fabricValid) || t.src == ownId s || !(forUs s t) then s
    else
      let s := takeHeader t s
      if (link s p.toNat).overs.any (sameHead t) then
        over_ (answerOverrun via t (modLink p.toNat (fun l => { l with overs := dropFirst (sameHead t) l.overs }) s))
      else if overrun s t then over_ (discardOverrun via t s)
      else if malformed t then
        raise (srcLink p.toNat) kLinkProtocol (bits (routingWord t) 0 52) [] none (advanceFreed t.src.toNat (txLines t) s)
      else enterBarn via t (txLines t) f s

/-- A request or stripe lands. The first of a signalled command creates its entry (R44). -/
def landRequest (kind : Nat) (via : Via) (t : Txn) (s : State) : State :=
  if t.kind.toNat ≠ kind then s
  else landCharged via t id (fun a s => windowStage a (if (txData t && t.signalled) || kind == kSignal then makeEnt t s else s)) s

/-- An uncharged transaction arrives (R233): it never enters the Barn. -/
def landAnswer (kind : Nat) (via : Via) (t : Txn) (f : State → State) (s : State) : State :=
  if t.kind.toNat ≠ kind then s
  else match via with
    | .self =>
      if !(running s) || !(s.tx.locals.contains t) then s
      else f { s with tx := { s.tx with locals := dropFirst (fun x => x == t) s.tx.locals } }
    | .link p =>
      if !(linkHears s p && s.gbl.fabricValid) || t.src == ownId s || !(forUs s t) then s
      else if malformed t then raise (srcLink p.toNat) kLinkProtocol (bits (routingWord t) 0 52) [] none (takeHeader t s)
      else f (takeHeader t s)

/-! ## Results of an arrival's accesses -/

/-- The response of a GET request: coded as the request directs where that pays (R282, R283). -/
def getResponse (a : Arrival) (raw : List Byte) (coded : Option (List Byte)) (s : State) : State :=
  let t := { responseTo s a kGetResponse with bytes := BitVec.ofNat 12 (raw.length - 1) }
  let t := match coded with
    | some b => if worthCoding raw b then { t with coded := true, coding := a.txn.coding, payload := b } else { t with payload := raw }
    | none => { t with payload := raw }
  endArrival a (respond a t s)

/-- The window bytes of an arrival are back (R52, R116, R261). -/
def targetBack (id : Nat) (bs : List Byte) (s : State) : State :=
  match arrival? s id with
  | none => s
  | some a =>
    let t := a.txn
    let k := t.kind.toNat
    if k = kLoad then endArrival a (respond a { responseTo s a kLoadData with bytes := BitVec.ofNat 12 (bs.length - 1), payload := bs } s)
    else if k = kGetRequest then
      if !t.coded then getResponse a bs none s
      else if profRot t.coding = 2 then
        let (n, m) := txDims s a
        millWait (.ingress id) (rotGang n m) (shapeAddr n m) (modArrival id (fun x => { x with state := .gang, data := bs, waitEnd := waitEnd s }) s)
      else getResponse a bs (some (codeStripe (codingProf t.coding) (codingFmt t.coding)
        (if profMode t.coding = 1 then (List.range 4).map (fun i => Tab.get (0x4444444444444444#64) (parish s a.parish.toNat).tabs i) else []) bs)) s
    else wakeCombines (groupAdvance t (writeArrival a (reduceBytes t bs a.data) s))

/-- An arrival's access failed at a memory port (R261, R412). -/
def targetFailed (id : Nat) (s : State) : State :=
  match arrival? s id with
  | none => s
  | some a => wakeCombines (refuseArrival a stData s)

/-- The last write of a commit is acknowledged: lines are released, the answer goes, the signal's count advances (R31, R44, R484). -/
def committed (id : Nat) (s : State) : State :=
  match arrival? s id with
  | none => s
  | some a =>
    let t := a.txn
    let s := bytesIn a.parish (txBytes t) s
    if t.kind.toNat = kStore then answerArrival a kStoreDone stOk s
    else
      let s := answerArrival a kAck stOk s
      if t.signalled then
        handOver t.src t.tag (modEnt t.src t.tag (fun e => if e.state = .pending then { e with count := e.count + 1 } else e) s)
      else s

end Sys2Proof.Machine
end

