-- ==== Sys2Proof/Machine/Answers.lean ====
section
/-! DEFINITION. The requester's side: losses (R56-R60, R250), answers and responses (R46, R48, R52, R59, R116, R127-R130, R165, R358,
R484). -/

namespace Sys2Proof.Machine

/-! ## Losses (R56-R58) -/

/-- The status an item takes when it is lost (R58). -/
def lossStatus (u : Xu) : BitVec 8 :=
  let k := u.txn.kind.toNat
  if (k = kAmo ∨ k = kAmof) ∧ u.sent then stUnknown else stLinkDown

/-- A lost command issues nothing more: its waiting transactions are dropped, their stripes never sent, and it no longer waits for SIGNAL_DONE but
resolves (R50, R56, R59). -/
def stopLost (id : Nat) (s : State) : State :=
  let unsent := (s.tx.units.filter fun u => u.use == .cmd id && !u.charged && u.txn.kind.toNat != kSignal).map fun u => u.txn.stripe.toNat
  let s := modCmd id (fun c => { c with next := unsent.foldl min c.next }) s
  { s with tx := { s.tx with units := (s.tx.units.map fun u => if u.use == .cmd id then { u with await := false } else u).filter fun u =>
      !(u.use == .cmd id && (!u.charged || u.owed.isEmpty)) } }

/-- The signal transaction itself is lost towards a device: an answer of its own that arrives later is not used (R56). -/
def loseSignal (id : Nat) (u : Xu) (d : BitVec 9) (s : State) : State :=
  if u.txn.kind.toNat = kSignal then
    modCmd id (fun c => { c with targets := c.targets.map fun t => if t.dev == d then { t with sigLost := true } else t }) s
  else s

/-- One charged unit is lost towards one device on its plane (R56, R60, R250). -/
def loseUnit (u : Xu) (d : BitVec 9) (s : State) : State :=
  let s := tallyLoss d.toNat s
  match u.use with
  | .cmd id => checkDone id (stopLost id (unitEnds u.id d (loseItem id (lossStatus u) d u.plane (loseSignal id u d s))))
  | .answer _ => unitEnds u.id d s
  | .dap n => dapEnd n true true [] s

/-- What is left of ended commands on a plane is lost with it (R60, R250). -/
def loseGhosts (p : Nat) (hit : BitVec 9 → Bool) (s : State) : State :=
  (s.tx.ghosts.filter fun g => g.plane == p).foldl (fun s g => (g.owed.filter hit).foldl (fun s d => ghostEnds g d (tallyLoss d.toNat s)) s) s

/-- Everything placed on plane `p` towards the devices of `hit` and not yet answered is lost (R56). -/
def losePlane (p : Nat) (hit : BitVec 9 → Bool) (s : State) : State :=
  let s := loseGhosts p hit s
  (s.tx.units.filter fun u => u.charged && u.plane == p && u.dests.any (· ≠ ownId s)).foldl (fun s u =>
    (u.owed.filter hit).foldl (fun s d => if (unit? s u.id).isSome then loseUnit u d s else s) s) s

/-! ## Matching answers (R244, R484) -/

/-- The kinds of transaction an answer of kind `k` answers. -/
def answersKind (k x : Nat) : Bool :=
  if k = kAck then [kPutData, kRputSum, kRputMax, kRputMin, kRputWsum, kSignal, kGetResponse, kLoadData, kAmofResult].contains x
  else if k = kRefuse then true
  else if k = kAmoDone then x == kAmo else if k = kStoreDone then x == kStore
  else if k = kGetResponse then x == kGetRequest else if k = kAmofResult then x == kAmof else if k = kLoadData then x == kLoad else false

/-- A charged transaction is one that an answer names (R244). -/
def named (t : Txn) (u : Xu) : Bool :=
  u.charged && u.owed.contains t.src && u.txn.tag == t.tag && u.txn.stripe == t.stripe
  && (u.txn.kind.toNat == kSignal) == t.signal && answersKind t.kind.toNat u.txn.kind.toNat

/-- The oldest charged transaction that an answer names. DESIGN CHOICE: see log entry 20. -/
def itemOf (s : State) (t : Txn) : Option Xu := s.tx.units.find? (named t)

/-- An answer may name a transaction whose command has ended: that is in flight no more (R173, R250). -/
def ghostAnswered (t : Txn) (s : State) : State :=
  match s.tx.ghosts.find? (named t) with
  | some g => if answerAuthentic s (g.parish.getD 0) g.txn.sealSlot t then ghostEnds g t.src s else s
  | none => s

/-- An answer is discarded and counted (R48, R484). -/
def countStale (s : State) : State := { s with tx := { s.tx with stale := s.tx.stale + 1 } }

/-- SEAL_ANSWER with the counter of an answer that is not accepted (R358, R396). -/
def sealAnswer (q : Option (BitVec 6)) (t : Txn) (s : State) : State :=
  let c := match t.sealSlot with
    | some g => g.ctr.toNat % 2 ^ 52
    | none => 0
  raise (srcPeer t.src.toNat) kSealAnswer c [] q (countStale s)

/-- An answer that names nothing outstanding is discarded and counted; an authenticated one is not accepted either, with SEAL_ANSWER (R48, R358,
R484). -/
def staleAnswer (t : Txn) (s : State) : State := if t.sealSlot.isSome then sealAnswer none t s else countStale s

/-- An answer that is not authentic is discarded and counted, with SEAL_ANSWER (R358). -/
def badAnswer (q : BitVec 6) (t : Txn) (s : State) : State := sealAnswer (some q) t s

/-- Act on the item an answer names, when the answer is authentic. -/
def withItem (t : Txn) (f : Xu → State → State) (none_ : State → State) (s : State) : State :=
  match itemOf s t with
  | none => none_ (ghostAnswered t s)
  | some u => if answerAuthentic s (u.parish.getD 0) u.txn.sealSlot t then f u s else badAnswer (u.parish.getD 0) t s

/-- What the sender of a unit does after an answer. -/
def afterAnswer (u : UnitFor) (s : State) : State :=
  match u with
  | .cmd id => feed id s
  | _ => s

/-! ## ACK, AMO_DONE, STORE_DONE -/

/-- ACK (R484). -/
def execAck (via : Via) (t : Txn) (s : State) : Host.Outcome State Fault Refusal :=
  .next (landAnswer kAck via t (withItem t (fun u s => afterAnswer u.use (unitEnds u.id t.src s)) (staleAnswer t)) s)

/-- AMO_DONE (R127). -/
def execAmoDone (via : Via) (t : Txn) (s : State) : Host.Outcome State Fault Refusal :=
  .next (landAnswer kAmoDone via t (withItem t (fun u s => afterAnswer u.use (unitEnds u.id t.src s)) (staleAnswer t)) s)

/-- STORE_DONE (R52): the store's response returns to the chip. -/
def execStoreDone (via : Via) (t : Txn) (s : State) : Host.Outcome State Fault Refusal :=
  .next (landAnswer kStoreDone via t (withItem t (fun u s => match u.use with
    | .dap n => dapEnd n true false [] s
    | _ => s) (staleAnswer t)) s)

/-! ## Signals at the source (R45, R46, R59, R130) -/

/-- The command whose target at a device holds a tag. -/
def tagOwner (s : State) (d : BitVec 9) (tag : BitVec 16) : Option (Cmd × Target) :=
  (s.eng.cmds.filter fun c => c.phase != .done).findSome? fun c => (c.targets.find? fun t => t.dev == d && t.tag == tag && c.holds t).map fun t => (c, t)

/-- A signalled command's slot towards a device frees (R45). -/
def slotFreed (id : Nat) (d : BitVec 9) (s : State) : State :=
  changeSlots d.toNat (fun x => { x with active := x.active.erase id }) s

/-- A DONE entry is to be released: on the next header and in three refreshes; the device's own entry at once (R44, R248). -/
def queueRelease (d : BitVec 9) (tag : BitVec 16) (s : State) : State :=
  if d = ownId s then releaseEntry d tag s
  else if s.tal.releases.any (fun r => r.1 == d && r.2.1 == tag) then s
  else { s with tal := { s.tal with releases := s.tal.releases ++ [(d, tag, 3, true)] } }

/-- The seal of the signal transaction of a command to a device. -/
def signalSeal (s : State) (id : Nat) (d : BitVec 9) : Option SealTag :=
  ((unitsOf s id).find? fun u => u.txn.kind.toNat == kSignal && u.dests.contains d).bind fun u => u.txn.sealSlot

/-- SIGNAL_DONE (R44, R46): the target has applied the signal. -/
def signalDone (t : Txn) (s : State) : State :=
  match tagOwner s t.src t.tag with
  | some (c, x) =>
    if x.sig != .sent || x.sigLost then staleAnswer t (queueRelease t.src t.tag s)
    else if !(answerAuthentic s c.q (signalSeal s c.id t.src) t) then badAnswer c.q t s
    else retryQueries (feed c.id (signalResolved c.id (slotFreed c.id t.src (setFate c.id t.src .applied (queueRelease t.src t.tag s)))))
  | none => staleAnswer t (queueRelease t.src t.tag s)

/-- SIGNAL_DONE. -/
def execSignalDone (via : Via) (t : Txn) (s : State) : Host.Outcome State Fault Refusal :=
  .next (landAnswer kSignalDone via t (signalDone t) s)

/-- QUERY_REPLY (R59): the fate of a lost command's signal at one target. -/
def queryReply (t : Txn) (s : State) : State :=
  match s.tx.queries.find? fun q => q.dev == t.src && q.tag == t.tag with
  | none => staleAnswer t s
  | some q =>
    let par := ((cmd? s q.cmd).map Cmd.q).getD 0
    if !(answerAuthentic s par q.auth t) then badAnswer par t s
    else
      let s := { s with tx := { s.tx with queries := s.tx.queries.filter fun x => x.id != q.id } }
      if t.status = 0 then retryQueries (checkDone q.cmd (setFate q.cmd t.src .applied (slotFreed q.cmd t.src (queueRelease t.src t.tag s))))
      else checkDone q.cmd (setFate q.cmd t.src .notApplied (cancelSlot q.cmd t.src s))

/-- QUERY_REPLY. -/
def execQueryReply (via : Via) (t : Txn) (s : State) : Host.Outcome State Fault Refusal :=
  .next (landAnswer kQueryReply via t (queryReply t) s)

/-! ## REFUSE (R128-R130) -/

/-- A target refuses an item of a command: nothing more goes to it, and its signal counts as resolved (R128, R130). -/
def refusedItem (id key : Nat) (st : BitVec 8) (d : BitVec 9) (s : State) : State :=
  signalResolved id (unitsLeave id d (slotCancelled id d (failItem id key st d s)))

/-- REFUSE. Its STATUS is taken as the command's failure as it stands: no rule says what one does that R481 does not mark as carried there. DESIGN CHOICE:
log entry 174. -/
def refused (t : Txn) (s : State) : State :=
  withItem t (fun u s =>
    match u.use with
    | .cmd id => feed id (unitEnds u.id t.src (refusedItem id t.stripe.toNat t.status t.src s))
    | .answer _ => unitEnds u.id t.src s
    | .dap n => dapEnd n true true [] s)
  (fun s =>
    match t.signal, tagOwner s t.src t.tag with
    | true, some (c, x) =>
      if x.sig != .sent || x.sigLost then staleAnswer t s
      else if !(answerAuthentic s c.q (signalSeal s c.id t.src) t) then badAnswer c.q t s
      else feed c.id (refusedItem c.id 0 t.status t.src s)
    | _, _ => staleAnswer t s) s

/-- REFUSE (R128). -/
def execRefuse (via : Via) (t : Txn) (s : State) : Host.Outcome State Fault Refusal :=
  .next (landAnswer kRefuse via t (refused t) s)

/-! ## Charged answers: GET_RESPONSE, AMOF_RESULT, LOAD_DATA (R48, R165, R484) -/

/-- A charged answer is discarded: its lines are released, and it is acknowledged (R48, R56, R165, R484). -/
def discardResponse (a : Arrival) (s : State) : State := answerArrival a kAck stOk s

/-- A response fails its command at the stripe it carries. -/
def failResponse (a : Arrival) (id : Nat) (st : BitVec 8) (s : State) : State :=
  feed id (refusedItem id a.txn.stripe.toNat st a.txn.src (answerArrival a kRefuse st s))

/-- The command has been aborted, or stopped with its parish, while its responses were still to come (R159, R165). -/
def abortedCmd (c : Cmd) : Bool := c.fails.any fun f => f.2.1 == stAborted || f.2.1 == stStopped

/-- Write a response's bytes for its command (R116, R127). -/
def writeResponse (a : Arrival) (c : Cmd) (pieces : List (Nat × Nat)) (bs : List Byte) (s : State) : State :=
  let s := modArrival a.id (fun x => { x with state := .writing }) s
  writeFor (.commit a.id) c pieces (cellsOver (c.phys pieces) bs) 1 s

/-- A response goes on once its command's spans are translated: it is decoded and written, or waits for a gang. -/
def responseGo (a : Arrival) (s : State) : State :=
  match a.cmd.bind (cmd? s) with
  | none => discardResponse a s
  | some c =>
    if c.phase == .done || abortedCmd c then feed c.id (discardResponse a s)
    else if c.phase == .translating || c.phase == .parked then modArrival a.id (fun x => { x with state := .xlate }) s
    else if a.txn.kind.toNat = kAmofResult then
      writeResponse a c [((pw c.pkt 1).toNat, 8)] (wordBytes a.txn.oldValue) (modCmd c.id (fun c => { c with result := a.txn.oldValue }) s)
    else
      let n := a.txn.stripe.toNat
      if a.decoded then writeResponse a c (planAt c n).pieces a.data s
      else match decodeStripe a.txn.coded a.txn.coding (txBytes a.txn) (profDims s c.q a.txn.coding).1 (profDims s c.q a.txn.coding).2 a.txn.payload with
      | .bad => raise (srcPeer a.txn.src.toNat) kCodecStream a.txn.tag.toNat [] c.parish (failResponse a c.id stData s)
      | .rotated _ =>
        let (k, m) := profDims s c.q a.txn.coding
        millWait (.ingress a.id) (rotGang k m) (shapeAddr k m)
          (modArrival a.id (fun x => { x with state := .gang, waitEnd := waitEnd s }) s)
      | d => writeResponse a c (planAt c n).pieces (decodedBytes a.txn.coding d) s

/-- Responses that waited for their command's translation go on. -/
def retryResponses (s : State) : State :=
  (s.brn.arrivals.filter fun a => a.cmd.isSome && a.state == .xlate).foldl (fun s a => withArrival a.id responseGo s) s

/-- A charged answer lands: from a device fenced whole it is refused (R182); else it names an item outstanding here, or is discarded; it is opened when
its command's parish is sealed. -/
def responseStage (a : Arrival) (s : State) : State :=
  match itemOf s a.txn with
  | none =>
    if a.txn.src ≠ ownId s ∧ (fence s a.txn.src.toNat).device then answerArrival a kRefuse stFenced (ghostAnswered a.txn s)
    else countStale (discardResponse a (ghostAnswered a.txn s))
  | some u =>
    let q := u.parish.getD 0
    if a.txn.src ≠ ownId s ∧ fenced s q.toNat a.txn.src.toNat then answerArrival a kRefuse stFenced s
    else
      let a := { a with parish := q }
      let s := modArrival a.id (fun _ => a) s
      match openTxn q a.txn s with
      | (.bad k addr, s) =>
        let s := raise (srcPeer a.txn.src.toNat) k addr [] (some q) s
        (match u.use with
          | .cmd id => failResponse a id stIntegrity (unitEnds u.id a.txn.src s)
          | .dap n => dapEnd n true true [] (answerArrival a kRefuse stIntegrity s)
          | .answer _ => answerArrival a kRefuse stIntegrity s)
      | (.plain t, s) =>
        match u.use with
        | .cmd id =>
          let a := { a with txn := t, cmd := some id }
          responseGo a (unitEnds u.id t.src (modArrival a.id (fun _ => a) s))
        | .dap n => dapEnd n true false (t.payload.take (txBytes t)) (answerArrival { a with txn := t } kAck stOk s)
        | .answer _ => discardResponse a s

/-- A charged answer has been discarded as BARN_OVERRUN: what it answers fails with that (R129, R252). -/
def overrunItem (t : Txn) (s : State) : State :=
  match itemOf s t with
  | none => ghostAnswered t s
  | some u => match u.use with
    | .cmd id => feed id (unitEnds u.id t.src (refusedItem id t.stripe.toNat stOverrun t.src s))
    | .dap n => dapEnd n true true [] s
    | .answer _ => s

/-- A charged answer of a kind lands (R233). -/
def landResponse (kind : Nat) (via : Via) (t : Txn) (s : State) : State :=
  if t.kind.toNat ≠ kind then s else landCharged via t (overrunItem t) responseStage s

/-- GET_RESPONSE (R116). -/
def execGetResponse (via : Via) (t : Txn) (s : State) : Host.Outcome State Fault Refusal := .next (landResponse kGetResponse via t s)

/-- LOAD_DATA (R52). -/
def execLoadData (via : Via) (t : Txn) (s : State) : Host.Outcome State Fault Refusal := .next (landResponse kLoadData via t s)

/-- AMOF_RESULT (R127). -/
def execAmofResult (via : Via) (t : Txn) (s : State) : Host.Outcome State Fault Refusal := .next (landResponse kAmofResult via t s)

/-- A response's write is acknowledged: it is complete, and its command goes on (R31, R484). -/
def responseWritten (a : Arrival) (id : Nat) (s : State) : State :=
  feed id (modCmd id (fun c => { c with moved := c.moved + (if a.txn.kind.toNat = kGetResponse then txBytes a.txn else 0) }) (answerArrival a kAck stOk s))

/-- A response's write was answered with an error: its command fails at that stripe (R129, R412). -/
def responseFailed (a : Arrival) (id : Nat) (s : State) : State :=
  feed id (failSelf id a.txn.stripe.toNat stData (answerArrival a kAck stOk s))

/-! ## QUERY (R59) -/

/-- The slot under which a query passes, when it is sealed (R358). -/
def querySlot (s : State) (t : Txn) (g : SealTag) : Option (BitVec 6) :=
  (s.ree.slots.find? fun e => e.2.state != .free && e.2.peer == t.src && e.2.gen == g.gen
    && (Config.gcmOpen e.2.key (sealIv t.src (ownId s) e.2.peerParish e.2.parish 1 g.ctr) (sealAad t ++ wordBytes g.answered) [] g.tag).isSome).map fun e => e.2.parish

/-- The parish in whose name a query is answered; none where it is not authentic. -/
def queryParish (s : State) (t : Txn) : Option (BitVec 6) :=
  let q := ((ent? s t.src t.tag).map fun e => e.parish).getD 0
  match t.sealSlot with
  | some g => querySlot s t g
  | none => if t.src ≠ ownId s ∧ parSealed s q ∧ (ent? s t.src t.tag).isSome then none else some q

/-- A query: answered at once, or once the application in progress ends; a pending or absent entry becomes CANCELLED (R59). -/
def query (via : Via) (t : Txn) (s : State) : State :=
  match queryParish s t with
  | none => badAnswer (((ent? s t.src t.tag).map fun e => e.parish).getD 0) t s
  | some q =>
    match ent? s t.src t.tag with
    | some e =>
      if e.state = .handed then modEnt t.src t.tag (fun e => { e with queried := e.queried ++ [(via, t)] }) s
      else answerQuery via q t (e.state == .done) (modEnt t.src t.tag (fun e => cancelPending e (waitEnd s)) s)
    | none => answerQuery via q t false (cancelEnt t s)

/-- QUERY (R59). -/
def execQuery (via : Via) (t : Txn) (s : State) : Host.Outcome State Fault Refusal := .next (landAnswer kQuery via t (query via t) s)

end Sys2Proof.Machine
end

