-- ==== Sys2Proof/Machine/Windows.lean ====
section
/-! DEFINITION. Windows opened and closed (R138-R142), stripes and requests that land (R16, R44, R47, R51, R116, R256, R482), and the
times at which pending signals and ordered groups end (R44, R248, R268). -/

namespace Sys2Proof.Machine

/-! ## Management commands that write before they complete -/

/-- A management command waits in Steward for a condition of its own (R94). -/
def mgmtWait (id : Nat) (s : State) : State := modCmd id (fun c => { c with phase := .mgmt }) s

/-- A command waits in Steward. -/
def inMgmt (s : State) (id : Nat) : Bool := (cmd? s id).any fun c => c.phase != .done

/-- A management command writes to memory and completes once the write is acknowledged (R31, R32). -/
def doneAfter (id : Nat) (st : BitVec 8) (result : Word) (cells : List (Nat × Byte)) (s : State) : State :=
  if cells.isEmpty then done id st result s
  else if !(inMgmt s id) then issueWrite .background cells 3 false none none s
  else issueWrite (.mgmt id) cells 3 false none none (modCmd id (fun c => { c with phase := .mgmt, status := st, result := result, writing := c.writing + 1 }) s)

/-- A management command's write is acknowledged. -/
def mgmtWritten (id : Nat) (s : State) : State :=
  match cmd? s id with
  | none => s
  | some c =>
    if c.phase == .done then s
    else if c.phase != .mgmt then checkDone id (modCmd id (fun c => { c with writing := c.writing - 1 }) s)
    else if c.writing ≤ 1 then done id c.status c.result s
    else modCmd id (fun c => { c with writing := c.writing - 1 }) s

/-! ## Window entries (R139-R142) -/

/-- The words of a window entry (R139). -/
def winWords (w : Win) : List Word :=
  let code := match w.state with
    | .free => 0
    | .opened => 1
    | .closing => 2
    | .quarantine => 3
  [place w.tag.toNat 48 16 ||| place w.parish.toNat 36 6 ||| place w.classes.toNat 4 4 ||| place code 0 2,
   place w.vaBase.toNat 0 57, place w.length.toNat 0 48, w.qEnd, w.label, 0, 0, 0]

/-- The cells that write entry `h` to memory. -/
def winCells (s : State) (h : Nat) : List (Nat × Byte) := cellsAt (winAddr s h) (wordsBytes (winWords (win s h)))

/-- Entries of a parish that count against its quota: the OPEN and QUARANTINE ones (R141), which are those that HELD counts (R476). A CLOSING one
does not. DEDUCED, unsafe: log entry 151. -/
def winHeld (s : State) (q : BitVec 6) : Nat :=
  (s.wins.entries.filter fun e => (e.2.state == .opened || e.2.state == .quarantine) && e.2.parish == q).length

/-- WIN_OPEN's own checks (R141). -/
def winOpenOk (pkt : List Word) : Bool :=
  let base := bits (pw pkt 1) 0 57
  let len := bits (pw pkt 2) 0 48
  base % 4096 == 0 && len != 0 && len % 64 == 0 && decide (base + len ≤ 2 ^ 57) && bits (pw pkt 3) 0 4 != 0

/-- WIN_OPEN (R141). -/
def runWinOpen (pkt : List Word) (id : Nat) (s : State) : State :=
  match cmd? s id with
  | none => s
  | some c =>
    if !(winOpenOk pkt) then done id stBadCommand 0 s
    else if !(winEn s) || decide ((parish s c.q.toNat).windowQuota.toNat ≤ winHeld s c.q) then done id stBusy 0 s
    else match firstBelow (winCount s) fun h => (win s h).state == .free with
      | none => done id stBusy 0 s
      | some h =>
        let w : Win := {
          state := .opened, tag := parTag s c.q, parish := c.q, classes := (pw pkt 3).extractLsb' 0 4,
          vaBase := (pw pkt 1).extractLsb' 0 57, length := (pw pkt 2).extractLsb' 0 48, label := pw pkt 4 }
        let s := touchWindow h (modWin h (fun _ => w) s)
        doneAfter id stOk (BitVec.ofNat 64 h) (winCells s h) s

/-- WIN_OPEN. -/
def execWinOpen (ch : BitVec 21) (pkt : List Word) (s : State) : Host.Outcome State Fault Refusal :=
  .next (asOp 0x40 pkt (startOther ch pkt (runWinOpen pkt)) s)

/-- Cancel the pending signals of a set of entries and refuse each to its source (R44, R142, R183). -/
def cancelSignals (hit : SigEnt → Bool) (st : BitVec 8) (s : State) : State :=
  (s.sig.ents.filter fun e => e.state == .pending && hit e).foldl (fun s e => signalEnds e false st s) s

/-- Steps 1 and 2 of R142 for a handle; `cmd` waits for it to drain. Its watchpoints are cleared (R427). -/
def closeWindow (h : Nat) (cmd : Option Nat) (s : State) : State :=
  let hw := BitVec.ofNat 20 h
  let s := modWin h (fun w => { w with state := .closing }) s
  let s := cancelSignals (fun e => e.sig.isSome && e.window == hw) stNoWindow s
  let s := (s.brn.arrivals.filter fun a => (a.state == .staged || a.state == .group) && a.txn.window == hw).foldl (fun s a => refuseArrival a stNoWindow s) s
  let s := { s with groups := s.groups.filter fun g => g.window != hw }
  wakeGroups { s with
           wins := { s.wins with closing := s.wins.closing ++ [(h, cmd)] }
           obs := { s.obs with watches := s.obs.watches.filter fun e => !(e.2.window && e.2.handle == hw) } }

/-- WIN_CLOSE (R142). -/
def runWinClose (pkt : List Word) (id : Nat) (s : State) : State :=
  match cmd? s id with
  | none => s
  | some c =>
    let h := bits (pw pkt 1) 0 20
    let w := win s h
    if winEn s && decide (h < winCount s) && w.state == .opened && w.parish == c.q then
      let s := closeWindow h (some id) (mgmtWait id s)
      issueWrite .background (winCells s h) 3 false none none s
    else done id stBadCommand 0 s

/-- WIN_CLOSE. -/
def execWinClose (ch : BitVec 21) (pkt : List Word) (s : State) : Host.Outcome State Fault Refusal :=
  .next (asOp 0x41 pkt (startOther ch pkt (runWinClose pkt)) s)

/-- Nothing that passed the window check before step 1 of R142 is left. -/
def winDrained (s : State) (h : Nat) : Bool :=
  let hw := BitVec.ofNat 20 h
  !(s.brn.arrivals.any fun a => a.cmd.isNone && a.state != .window && txWindow a.txn == hw)
  && !(s.sig.ents.any fun e => e.state == .handed && e.window == hw)

/-- WIN_CLOSE_DRAINED (R142 step 4). -/
def closeDrained (h : Nat) (s : State) : State :=
  match s.wins.closing.find? (fun x => x.1 == h) with
  | none => s
  | some (_, cmd) =>
    if !(winDrained s h) || (win s h).state ≠ .closing then s
    else
      let s := modWin h (fun w => { w with state := .quarantine, qEnd := later (now s) (2 * effTimeout s) }) s
      let s := { s with wins := { s.wins with closing := s.wins.closing.filter fun x => x.1 != h } }
      match cmd with
      | some id => doneAfter id stOk 0 (winCells s h) s
      | none => issueWrite .background (winCells s h) 3 false none none s

/-- WIN_CLOSE_DRAINED. -/
def execWinCloseDrained (handle : BitVec 20) (s : State) : Host.Outcome State Fault Refusal := .next (whileRunning (closeDrained handle.toNat) s)

/-- An entry's quarantine is over: it is FREE (R142). -/
def quarantineEnd (h : Nat) (s : State) : State :=
  let w := win s h
  if w.state = .quarantine ∧ reached s w.qEnd then
    let s := modWin h (fun _ => {}) s
    issueWrite .background (winCells s h) 3 false none none s
  else s

/-- WINDOW_QUARANTINE_END (R142). -/
def execWindowQuarantineEnd (handle : BitVec 20) (s : State) : Host.Outcome State Fault Refusal :=
  .next (whileRunning (quarantineEnd handle.toNat) s)

/-! ## Requests and stripes that land -/

/-- PUT_DATA (R143). A transaction of a reserved KIND is discarded here, as no row of its own exists for it (R199). -/
def execPutData (via : Via) (t : Txn) (s : State) : Host.Outcome State Fault Refusal :=
  .next (if kindListed t.kind.toNat then landRequest kPutData via t s
    else if txAnswer t then landAnswer t.kind.toNat via t id s
    else landCharged via t id (fun a s => endArrival a s) s)

/-- RPUT_SUM (R256). -/
def execRputSum (via : Via) (t : Txn) (s : State) : Host.Outcome State Fault Refusal := .next (landRequest kRputSum via t s)

/-- RPUT_MAX (R258). -/
def execRputMax (via : Via) (t : Txn) (s : State) : Host.Outcome State Fault Refusal := .next (landRequest kRputMax via t s)

/-- RPUT_MIN (R258). -/
def execRputMin (via : Via) (t : Txn) (s : State) : Host.Outcome State Fault Refusal := .next (landRequest kRputMin via t s)

/-- RPUT_WSUM (R256). -/
def execRputWsum (via : Via) (t : Txn) (s : State) : Host.Outcome State Fault Refusal := .next (landRequest kRputWsum via t s)

/-- GET_REQUEST (R116). -/
def execGetRequest (via : Via) (t : Txn) (s : State) : Host.Outcome State Fault Refusal := .next (landRequest kGetRequest via t s)

/-- AMO_REQUEST (R482). -/
def execAmoRequest (via : Via) (t : Txn) (s : State) : Host.Outcome State Fault Refusal := .next (landRequest kAmo via t s)

/-- AMOF_REQUEST (R482). -/
def execAmofRequest (via : Via) (t : Txn) (s : State) : Host.Outcome State Fault Refusal := .next (landRequest kAmof via t s)

/-- SIGNAL (R44). -/
def execSignal (via : Via) (t : Txn) (s : State) : Host.Outcome State Fault Refusal := .next (landRequest kSignal via t s)

/-- LOAD (R147). -/
def execLoad (via : Via) (t : Txn) (s : State) : Host.Outcome State Fault Refusal := .next (landRequest kLoad via t s)

/-- STORE (R147). -/
def execStore (via : Via) (t : Txn) (s : State) : Host.Outcome State Fault Refusal := .next (landRequest kStore via t s)

/-! ## Times -/

/-- A pending-signal entry passes its hold time: freed, with SIGNAL_HOLD unless it was CANCELLED; an entry handed to the atomic unit
does not (R44, R248, R485). -/
def signalExpiry (src : BitVec 9) (tag : BitVec 16) (s : State) : State :=
  match ent? s src tag with
  | none => s
  | some e =>
    if e.state = .handed ∨ !(reached s e.holdEnd) then s
    else
      let s := { s with sig := { s.sig with ents := s.sig.ents.filter fun x => !(isEnt src tag x) } }
      if e.state = .cancelled then s else raise (srcPeer src.toNat) kSignalHold tag.toNat [] (some e.parish) s

/-- SIGNAL_HOLD_EXPIRY (R44). -/
def execSignalHoldExpiry (src : BitVec 9) (tag : BitVec 16) (s : State) : Host.Outcome State Fault Refusal :=
  .next (whileRunning (signalExpiry src tag) s)

/-- An entry enters BROKEN; the timeout it stays so for begins (R268). -/
def breakGroup (s : State) (g : Group) : Group := if g.broken then g else { g with broken := true, freeAt := waitEnd s }

/-- A stripe staged or waiting for an entry for the timeout is discarded and answered TIMEOUT; its entry is BROKEN (R268). -/
def stageTimeout (id : Nat) (s : State) : State :=
  match arrival? s id with
  | none => s
  | some a =>
    if (a.state = .staged ∨ a.state = .group) ∧ reached s a.waitEnd then
      modGroup a.txn (breakGroup s) (refuseArrival a stTimeout s)
    else s

/-- ORDERED_STAGE_TIMEOUT (R268). -/
def execOrderedStageTimeout (arrival : Nat) (s : State) : Host.Outcome State Fault Refusal := .next (whileRunning (stageTimeout arrival) s)

/-- A BROKEN entry is freed once the timeout has passed with no arrival for its key (R268). Stripes still staged for it have waited as
long by then and end too. -/
def brokenFree (window : BitVec 20) (offset : BitVec 48) (stripe : BitVec 40) (s : State) : State :=
  let mine := fun (g : Group) => g.window == window && g.offset == offset && g.stripe == stripe
  match s.groups.find? mine with
  | none => s
  | some g =>
    if g.broken && reached s g.freeAt then
      let left := s.brn.arrivals.filter fun a =>
        a.state == .staged && a.txn.window == window && a.txn.offset == offset && a.txn.stripe == stripe
      wakeGroups (left.foldl (fun s a => refuseArrival a stTimeout s) { s with groups := dropFirst mine s.groups })
    else s

/-- ORDERED_BROKEN_FREE (R268). -/
def execOrderedBrokenFree (window : BitVec 20) (offset : BitVec 48) (stripe : BitVec 40) (s : State) : Host.Outcome State Fault Refusal :=
  .next (whileRunning (brokenFree window offset stripe) s)

end Sys2Proof.Machine
end

