-- ==== Sys2Proof/Machine/TerCmds.lean ====
section
/-! DEFINITION. Walks that end, range invalidation, fault records resolved, timed out and aborted (R149-R165). -/

namespace Sys2Proof.Machine

/-! ## Everything that waits for a walk (R152) -/

/-- Commands, WAITs, landed accesses and signals that wait for a translation try again. -/
def retryAll (s : State) : State :=
  let s := (s.eng.cmds.filter fun c => c.phase == .translating).foldl (fun s c => xlate c.id s) s
  let s := (s.chn.waits.filter fun w => w.pa.isNone && !w.reading).foldl (fun s w => match waiter? s w.ch with
    | some w => waitEval w s
    | none => s) s
  retryResponses (retryArrivals s)

/-- Everything sees, within this step, that a walk found page `va` bad. -/
def deliverBad (q : BitVec 6) (va kind : Nat) (s : State) : State :=
  let e : CacheEnt := { parish := q, va := va / 4096 * 4096, len := 4096, pa := 0, state := if kind = tTableError then .error else .hole }
  let s := retryAll (pumpWalks { s with ter := { s.ter with cache := e :: s.ter.cache } })
  { s with ter := { s.ter with cache := s.ter.cache.filter fun x => x != e } }

/-- A stale walk is restarted, reading the table anew; what waits for it looks again (R163). -/
def restartWalk (q : BitVec 6) (va : Nat) (ingress : Bool) (s : State) : State := retryAll (pumpWalks (startWalk q va ingress s))

/-- A walk's last node read comes back: the next node is read, or the walk ends and its walker goes to the next request (R149, R151, R152,
R163). -/
def walkBack (q : BitVec 6) (va depth : Nat) (ingress stale pages : Bool) (bs : List Byte) (s : State) : State :=
  if stale then restartWalk q va ingress s
  else
    let r := if pages then walkPage (BitVec.ofNat 64 (ofLE (bs.take 8))) va else walkNode (bytesWords 256 bs) va depth
    match r with
    | .child node => issueRead (.walk q va (depth + 1) ingress false pages) [(node, 2048)] (if ingress then 1 else 3) none none s
    | .range v len pa st => retryAll (pumpWalks (install { parish := q, va := v, len := len, pa := pa, state := st } s))
    | .bad kind => deliverBad q va kind s

/-- A node read was answered with an error: TABLE_ERROR (R149). -/
def walkFailed (q : BitVec 6) (va : Nat) (ingress stale : Bool) (s : State) : State :=
  if stale then restartWalk q va ingress s else deliverBad q va tTableError s

/-! ## Ending requesters (R158, R159, R165) -/

/-- A requester of an aborted record fails with its number, once what it has issued has ended; responses of it that waited for the translation are
discarded (R129, R158, R165). -/
def abortCmd (st : BitVec 8) (id : Nat) (seq : BitVec 32) (s : State) : State :=
  match cmd? s id with
  | none => s
  | some c =>
    let s := leaveRecords (.cmd id) (modCmd id (fun c => { c with faultSeq := seq }) s)
    let s := failWhole id c.next st s
    (s.brn.arrivals.filter fun a => a.cmd == some id && a.state == .xlate).foldl (fun s a => withArrival a.id responseGo s) s

/-- A requester of an aborted record fails with its number. -/
def abortRequester (st : BitVec 8) (seq : BitVec 32) (w : Requester) (s : State) : State :=
  match w with
  | .cmd id => abortCmd st id seq s
  | .wait ch => match waiter? s ch with
    | some _ => waitEnds ch st 0 seq s
    | none => s

/-- A requester that has no record left translates again (R158). -/
def wakeRequester (w : Requester) (s : State) : State :=
  match w with
  | .cmd id => match cmd? s id with
    | some c => if c.phase == .parked && (joined s w).isEmpty && !(waitsRecord s w) then retranslate id s else s
    | none => s
  | .wait ch => match waiter? s ch with
    | some x => waitEval x s
    | none => s

/-- The requesters of a record that are still on it. -/
def onRecord (s : State) (seq : BitVec 32) : List Requester := ((s.ter.recs.find? fun r => r.seq == seq).map fun r => r.waiters).getD []

/-- Close a record (R158). -/
def closeRec (r : TerRec) (s : State) : State := { s with ter := { s.ter with recs := s.ter.recs.filter fun x => x.seq != r.seq } }

/-- Abort a record: every requester fails, with its number (R158, R159). -/
def abortRec (r : TerRec) (s : State) : State := seatWaiting ((onRecord s r.seq).foldl (fun s w => abortRequester stAborted r.seq w s) (closeRec r s))

/-- A record of a parish that is being retired is aborted: its requesters fail with PARISH_STOPPED (R159). -/
def stopRec (r : TerRec) (s : State) : State := seatWaiting ((onRecord s r.seq).foldl (fun s w => abortRequester stStopped 0 w s) (closeRec r s))

/-- Entries of a parish that overlap a range leave the range cache. -/
def purgeCache (q : BitVec 6) (lo hi : Nat) (s : State) : State :=
  { s with ter := { s.ter with cache := s.ter.cache.filter fun e => !(e.parish == q && decide (e.va < hi) && decide (lo < e.va + e.len)) } }

/-- TER_RESOLVE (R158). -/
def runResolve (abort : Bool) (pkt : List Word) (id : Nat) (s : State) : State :=
  match s.ter.recs.find? fun r => r.seq == (pw pkt 1).extractLsb' 0 32 with
  | none => done id stOk 0 s
  | some r =>
    let n := BitVec.ofNat 64 r.waiters.length
    if abort then done id stOk n (abortRec r s)
    else
      let s := purgeCache r.parish (r.granule * 2 ^ 21) ((r.granule + 1) * 2 ^ 21) (closeRec r s)
      done id stOk n (r.waiters.foldl (fun s w => wakeRequester w s) (seatWaiting s))

/-- TER_RESOLVE RETRY (R158). -/
def execTerResolveRetry (ch : BitVec 21) (pkt : List Word) (s : State) : Host.Outcome State Fault Refusal :=
  .next (asOp 0x91 pkt (fun s => if bitAt (pw pkt 0) 16 then s else startOther ch pkt (runResolve false pkt) s) s)

/-- TER_RESOLVE ABORT (R158). -/
def execTerResolveAbort (ch : BitVec 21) (pkt : List Word) (s : State) : Host.Outcome State Fault Refusal :=
  .next (asOp 0x91 pkt (fun s => if bitAt (pw pkt 0) 16 then startOther ch pkt (runResolve true pkt) s else s) s)

/-- TER_FAULT_TIMEOUT (R159): a record open for TIMEOUT_MS is aborted, with TER_TIMEOUT. -/
def terTimeout (seq : BitVec 32) (s : State) : State :=
  match s.ter.recs.find? fun r => r.seq == seq with
  | none => s
  | some r =>
    if reached s (later r.time (bits s.gbl.terCtl 32 14 * msUnits)) then raise srcTerrier kTerTimeout seq.toNat [] (some r.parish) (abortRec r s) else s

/-- TER_FAULT_TIMEOUT. -/
def execTerFaultTimeout (seq : BitVec 32) (s : State) : Host.Outcome State Fault Refusal := .next (whileRunning (terTimeout seq) s)

/-- EN is cleared: every open record is aborted, records held unwritten are discarded, and a requester that waits for a record gets one that is
aborted at once (R159). -/
def terEnCleared (s : State) : State :=
  let s := { s with ter := { s.ter with unwritten := [] } }
  let s := s.ter.recs.foldl (fun s r => (onRecord s r.seq).foldl (fun s w => abortRequester stAborted r.seq w s) (closeRec r s)) s
  s.ter.noRec.foldl (fun s x => let (seq, s) := abortedSeq s; abortRequester stAborted seq x.1 s) { s with ter := { s.ter with noRec := [] } }

/-! ## Invalidation (R161-R164) -/

/-- TER_INVALIDATE's own checks (R161). -/
def invalOk (pkt : List Word) : Bool :=
  let lo := bits (pw pkt 1) 0 57
  let len := bits (pw pkt 2) 0 57
  if bitAt (pw pkt 0) 16 then lo == 0 && len == 0 else lo % 4096 == 0 && len != 0 && len % 4096 == 0 && decide (lo + len ≤ 2 ^ 57)

/-- A walk in flight of the parish becomes stale: the range it would deliver may hold an address of those invalidated (R163). -/
def staleWalk (q : BitVec 6) (r : ReadReq) : ReadReq :=
  match r.use with
  | .walk q' va d ing st pages => { r with use := .walk q' va d ing (st || q' == q) pages }
  | _ => r

/-- The agents of R162: 48 engines, the front end, the window-check stage, the port's target side, the Mill and the reduce unit. -/
def agentCount : Nat := 53

/-- Held translations over a range are given up: commands, WAIT words and landed accesses translate again what they have not issued; a WAIT's
table entry is released (R162). The model does so as the range is sent to the agents. DESIGN CHOICE: see log entry 22. -/
def dropRanges (q : BitVec 6) (lo hi : Nat) (s : State) : State :=
  let hit := fun (rs : List Range) => rs.any (rangeOver lo hi)
  let upd := fun (w : Waiter) =>
    if w.ch != 0 && waitParish s w.ch == q && decide (w.va.toNat < hi) && decide (lo < w.va.toNat + 8) then { w with pa := none, table := false, due := now s } else w
  let s := { s with chn := { s.chn with waits := s.chn.waits.map upd } }
  let mine := fun (a : Arrival) => a.cmd.isNone && a.parish == q && hit a.ranges
  let s := (s.brn.arrivals.filter fun a => mine a && (a.state == .unit || a.state == .xlate) && txReduce a.txn).foldl
    (fun s a => modArrival a.id (fun x => { x with state := .xlate, ranges := [], decoded := true }) s) s
  let s := (s.brn.arrivals.filter fun a => mine a && a.state == .gang).foldl (fun s a => modArrival a.id (fun x => { x with ranges := [] }) s) s
  let cs := s.eng.cmds.filter fun c => c.parish == some q && (c.phase == .active || c.phase == .gang || c.phase == .tags || c.phase == .translating) && hit c.ranges
  let s := cs.foldl (fun s c => invalidated c.id s) s
  retryArrivals s

/-- TER_INVALIDATE (R163). -/
def runInvalidate (pkt : List Word) (id : Nat) (s : State) : State :=
  if !(invalOk pkt) then done id stBadCommand 0 s
  else
    let q := (pw pkt 3).extractLsb' 0 6
    let all := bitAt (pw pkt 0) 16
    let lo := if all then 0 else bits (pw pkt 1) 0 57
    let hi := if all then 2 ^ 57 else lo + bits (pw pkt 2) 0 57
    let n := s.ter.cache.length
    let s := purgeCache q lo hi (mgmtWait id s)
    let s := { s with memp := { s.memp with reads := s.memp.reads.map (staleWalk q) } }
    let v : Inval := { cmd := id, parish := q, lo := lo, hi := hi, start := now s, acked := [], removed := n - s.ter.cache.length,
                       mark := s.memp.nextId, late := false }
    let s := dropMatrices (fun m => m.parish == q && decide (m.va < hi) && decide (lo < m.va + m.k.toNat * m.n.toNat * elemSize m.format.toNat))
      { s with ter := { s.ter with inval := some v } }
    dropRanges q lo hi s

/-- TER_INVALIDATE. -/
def execTerInvalidate (ch : BitVec 21) (pkt : List Word) (s : State) : Host.Outcome State Fault Refusal :=
  .next (asOp 0x90 pkt (startOther ch pkt (runInvalidate pkt)) s)

/-- Where an operation of the atomic unit stands in its parish. -/
def opSpan (s : State) (o : AtomOp) : Option (BitVec 6 × Nat × Nat) :=
  match o.use with
  | .arrival n => (arrival? s n).bind fun a => spanUse a.parish (arrVirt s a)
  | .signal src tag => (ent? s src tag).bind fun e => e.sig.map fun g => (e.parish, (win s e.window.toNat).vaBase.toNat + sigOffset g.1, 8)

/-- An agent still has a unit of issue in the range that it issued before the invalidation: accesses at the memory ports, an operation of the
atomic unit, a combine's read and write (R162). -/
def agentBusy (s : State) (v : Inval) (agent : BitVec 6) : Bool :=
  let meets := fun (sp : Option (BitVec 6 × Nat × Nat)) => match sp with
    | some (q, lo, len) => q == v.parish && decide (lo < v.hi) && decide (v.lo < lo + len)
    | none => false
  agent == 49 && s.sig.ops.any (fun o => decide (o.began < v.mark) && meets (opSpan s o))
  || agent == 52 && s.brn.arrivals.any (fun a => txReduce a.txn && (a.state == .reading || a.state == .writing) && decide (a.began < v.mark)
      && meets (spanUse a.parish (arrVirt s a)))
  || s.memp.reads.any (fun r => r.agent == some agent && decide (r.id < v.mark) && meets r.span)
  || s.memp.writes.any (fun w => w.agent == some agent && decide (w.id < v.mark) && meets w.span)

/-- INVALIDATE_ACK (R163): the last acknowledgement completes the command. -/
def invalidateAck (agent : BitVec 6) (s : State) : State :=
  match s.ter.inval with
  | none => s
  | some v =>
    if agentCount ≤ agent.toNat ∨ v.acked.contains agent ∨ agentBusy s v agent then s
    else
      let acked := v.acked ++ [agent]
      if acked.length = agentCount then done v.cmd stOk (BitVec.ofNat 64 v.removed) { s with ter := { s.ter with inval := none } }
      else { s with ter := { s.ter with inval := some { v with acked := acked } } }

/-- INVALIDATE_ACK. -/
def execInvalidateAck (agent : BitVec 6) (s : State) : Host.Outcome State Fault Refusal := .next (whileRunning (invalidateAck agent) s)

/-- INVALIDATE_LATE (R164): an agent has not acknowledged 4 µs after the start. -/
def invalidateLate (s : State) : State :=
  match s.ter.inval with
  | none => s
  | some v =>
    if v.late || !(reached s (later v.start (4 * usUnits))) then s
    else
      let agent := (firstBelow agentCount fun n => !(v.acked.contains (BitVec.ofNat 6 n))).getD 0
      raise srcTerrier kInvalidateLate agent [] (some v.parish) { s with ter := { s.ter with inval := some { v with late := true } } }

/-- INVALIDATE_LATE. -/
def execInvalidateLate (s : State) : Host.Outcome State Fault Refusal := .next (whileRunning invalidateLate s)

end Sys2Proof.Machine
end

