-- ==== Sys2Proof/Machine/Dap.lean ====
section
/-! DEFINITION. The direct access port on the source side: apertures and the accesses of the chip's cores (R51-R53, R145-R147). -/

namespace Sys2Proof.Machine

/-- APERTURE_SET's fields (R145). -/
def apOf (pkt : List Word) : Aperture :=
  let w5 := pw pkt 5
  { enabled := bitAt w5 8, base := (pw pkt 1).extractLsb' 0 52, size := (pw pkt 2).extractLsb' 0 41, dest := pkDevAt pkt, window := (pw pkt 3).extractLsb' 16 20,
    offset := (pw pkt 4).extractLsb' 0 48, parish := w5.extractLsb' 10 6, store := bitAt w5 1, load := bitAt w5 0 }
where
  pkDevAt (pkt : List Word) : BitVec 9 := (pw pkt 3).extractLsb' 0 9

/-- Two chip ranges share an address. -/
def apMeet (a b : Aperture) : Bool :=
  a.size != 0 && b.size != 0 && decide (a.base.toNat < b.base.toNat + b.size.toNat) && decide (b.base.toNat < a.base.toNat + a.size.toNat)

/-- The checks of R145 and R146. An aperture that is not enabled has no owner. A SIZE that R145 rules out rejects the command where it enables the aperture;
R146's list of rejections does not name it. DESIGN CHOICE: log entry 176. -/
def apOk (s : State) (n : Nat) (a : Aperture) : Bool :=
  let old := aperture s n
  (parish s a.parish.toNat).state == .active
  && (!old.enabled || old.parish == a.parish)
  && !(a.enabled && old.enabled)
  && decide (a.offset.toNat + a.size.toNat ≤ 2 ^ 48)
  && !(s.dap.aps.any fun e => e.1 != n && e.2.enabled && apMeet e.2 a)
  && (!a.enabled || (a.size != 0 && a.size.toNat % 4096 == 0 && decide (a.size.toNat ≤ 2 ^ 40)))

/-- APERTURE_SET: enabled at once; a disable takes effect at once and completes when nothing of the aperture is outstanding (R146). -/
def runApertureSet (pkt : List Word) (id : Nat) (s : State) : State :=
  let n := bits (pw pkt 5) 16 12
  let a := apOf pkt
  if !(apOk s n a) then done id stBadCommand 0 s
  else if a.enabled then done id stOk 0 { s with dap := { s.dap with aps := Tab.put {} s.dap.aps n a } }
  else
    let s := { s with dap := { s.dap with aps := Tab.put {} s.dap.aps n {} } }
    if s.dap.accs.any fun x => x.aperture == BitVec.ofNat 12 n then
      mgmtWait id { s with dap := { s.dap with waits := s.dap.waits ++ [(id, BitVec.ofNat 12 n)] } }
    else done id stOk 0 s

/-- APERTURE_SET. -/
def execApertureSet (ch : BitVec 21) (pkt : List Word) (s : State) : Host.Outcome State Fault Refusal :=
  .next (asOp 0x92 pkt (startOther ch pkt (runApertureSet pkt)) s)

/-- A core's access reaches the port (R147). In the safe state every access is answered with an error (R408). Otherwise it joins those held at
the network-on-chip, and goes on at once unless the port is full or the block does not run. -/
def dapAccess (pa : BitVec 52) (store : Bool) (size : Nat) (data : List Byte) (s : State) : State :=
  if s.flt.safe then dapRefuse pa s
  else if !(ctrlpOpen s) then s
  else servePort { s with dap := { s.dap with held := s.dap.held ++ [{ pa := pa, store := store, size := size, data := data }] } }

/-- DAP_LOAD (R147). -/
def execDapLoad (pa : BitVec 52) (size : BitVec 8) (s : State) : Host.Outcome State Fault Refusal := .next (dapAccess pa false size.toNat [] s)

/-- DAP_STORE (R147). -/
def execDapStore (pa : BitVec 52) (data : List Byte) (s : State) : Host.Outcome State Fault Refusal := .next (dapAccess pa true data.length data s)

end Sys2Proof.Machine
end

