-- ==== Sys2Proof/Machine/Staging.lean ====
section
/-! DEFINITION. The Mill's staging: lane banks and slots, the skew of input rows, the tile of a matrix, and the load of a stone's cells
(R309, R311-R314, R325). -/

namespace Sys2Proof.Machine

/-! ## Entries and cells (R306, R311) -/

/-- Entry `slot` of bank `lane`: an element's code in 2 B, an FP8 element's high byte being 0 (R311). -/
def Stone.entry (x : Stone) (lane slot : Nat) : BitVec 16 := (Tab.get (0, 0) (Tab.get [] x.stage lane) slot).2

/-- The stone with an entry written for a parish. -/
def Stone.putEntry (x : Stone) (q : BitVec 6) (lane slot : Nat) (code : BitVec 16) : Stone :=
  { x with stage := Tab.upd [] x.stage lane fun b => Tab.put (0, 0) b slot (if code = 0 then (0, 0) else (q, code)) }

/-- The stone with the entries that `hit` names, by slot and parish, written with zero. -/
def Stone.clearStage (hit : Nat → BitVec 6 → Bool) (x : Stone) : Stone :=
  { x with stage := (x.stage.map fun b => (b.1, b.2.filter fun e => !(hit e.1 e.2.1))).filter fun b => b.2 != [] }

/-- The weight of cell (row, column). -/
def Stone.cell (x : Stone) (i j : Nat) : BitVec 16 := Tab.get 0 (Tab.get [] x.cells i) j

/-- The first of the slots that hold a matrix tile awaiting load (R311). -/
def tileSlot : Nat := 896

/-! ## Geometry (R308, R309, R312) -/

/-- Stones in a row of a gang. -/
def gangWidth (gang : Nat) : Nat := if gang = 1 ∨ gang = 3 ∨ gang = 4 then 2 else 1

/-- Elements a gang takes per row on an axis: its depth, or on the transposed axis its width (R308). -/
def gangLanes (gang : Nat) (inverse : Bool) : Nat :=
  if inverse then 128 * gangWidth gang
  else if gang = 2 ∨ gang = 3 then 256 else if gang = 4 ∨ gang = 6 then 512 else if gang = 5 then 32 else 128

/-- Where element `k` of row `r` goes: the stone of the gang, the lane and the slot (R312). The base slot B is 0. DESIGN CHOICE: see log entry
153. -/
def stageAt (gang : Nat) (inverse : Bool) (r k : Nat) : Nat × Nat × Nat :=
  if gang = 5 then (0, k, (4 * r + k) % tileSlot)
  else if gang = 6 then (0, k % 128, (4 * r + 129 * (k / 128) + k % 128) % tileSlot)
  else (if inverse then k / 128 else k / 128 * gangWidth gang, k % 128, (r + k % 128) % tileSlot)

/-- Where element (k, n) of the matrix stands: the stone of the gang, the cell row and column (R309). -/
def cellOf (gang k n : Nat) : Nat × Nat × Nat :=
  if gang = 5 then (0, 32 * (n / 128) + k, n % 128)
  else if gang = 6 then (0, k % 128, 32 * (k / 128) + n)
  else (k / 128 * gangWidth gang + n / 128, k % 128, n % 128)

/-! ## Writing and reading the staging (R312, R313) -/

/-- Write one row into the ring, skewed, with +0 in the lanes beyond its elements (R312, R313). -/
def stageRow (g : List Nat) (gang : Nat) (inverse : Bool) (q : BitVec 6) (r : Nat) (codes : List Nat) (s : State) : State :=
  (List.range (gangLanes gang inverse)).foldl (fun s k =>
    let (i, lane, slot) := stageAt gang inverse r k
    modStone (g.getD i 0) (fun x => x.putEntry q lane slot (BitVec.ofNat 16 (codes.getD k 0))) s) s

/-- Write rows from row `r` on. -/
def stageRows (g : List Nat) (gang : Nat) (inverse : Bool) (q : BitVec 6) : Nat → List (List Nat) → State → State
  | _, [], s => s
  | r, x :: xs, s => stageRows g gang inverse q (r + 1) xs (stageRow g gang inverse q r x s)

/-- The `n` elements of row `r` as the feeders read them. -/
def stagedRow (s : State) (g : List Nat) (gang : Nat) (inverse : Bool) (n r : Nat) : List Nat :=
  (List.range n).map fun k =>
    let (i, lane, slot) := stageAt gang inverse r k
    ((stone s (g.getD i 0)).entry lane slot).toNat

/-- Write the tiles of a matrix into the slots of its gang's stones: row i of a tile in slot 896 + i (R311). -/
def stageTiles (g : List Nat) (gang : Nat) (q : BitVec 6) (rows : List (List Nat)) (s : State) : State :=
  let s := g.foldl (fun s n => modStone n (Stone.clearStage fun slot _ => decide (tileSlot ≤ slot)) s) s
  (List.range rows.length).foldl (fun s k => (List.range (rows.getD k []).length).foldl (fun s n =>
    let (i, row, col) := cellOf gang k n
    modStone (g.getD i 0) (fun x => x.putEntry q col (tileSlot + row) (BitVec.ofNat 16 ((rows.getD k []).getD n 0))) s) s) s

/-! ## The load (R314) -/

/-- The cells that a load leaves: tile row i in cell row i, +0 where the tile holds nothing (R314). -/
def Stone.tile (x : Stone) : List (Nat × List (Nat × BitVec 16)) :=
  x.stage.foldl (fun t b => b.2.foldl (fun t e =>
    if tileSlot ≤ e.1 then Tab.upd [] t (e.1 - tileSlot) (fun row => Tab.put 0 row b.1 e.2.2) else t) t) []

/-- A stone has loaded: every cell is overwritten. -/
def Stone.load (x : Stone) : Stone := { x with loading := false, cells := x.tile, holds := x.matrix.map fun m => m.parish }

/-- Element (k, n) of the matrix a gang holds. -/
def gangCell (s : State) (g : List Nat) (gang k n : Nat) : Nat :=
  let (i, row, col) := cellOf gang k n
  ((stone s (g.getD i 0)).cell row col).toNat

/-- The matrix a gang holds, as values of a format. -/
def gangMatrix (s : State) (g : List Nat) (gang : Nat) (f : FpFmt) (k n : Nat) : Rows :=
  (List.range k).map fun i => (List.range n).map fun j => fpDecode f (gangCell s g gang i j)

end Sys2Proof.Machine
end

