-- ==== Sys2Proof/Machine/Mill.lean ====
section
/-! DEFINITION. The coding tables of a parish (R278-R280), and the Mill: matrices, gangs, loads, streams, checks, stones that run and
rest (R306-R331). -/

namespace Sys2Proof.Machine

/-! ## PROFILE_SET and TABLE_SET (R278-R280) -/

/-- PROFILE_SET (R278): the rules of R279, then the units the profile needs. -/
def runProfileSet (pkt : List Word) (id : Nat) (s : State) : State :=
  match cmd? s id with
  | none => s
  | some c =>
    let n := bits (pw pkt 1) 0 4
    let prof := pw pkt 2
    if n = 0 ∨ !(profileOk prof) then done id stBadCommand 0 s
    else if (profNeedsC prof && !s.part.c) || (profNeedsM prof && !s.part.m) then done id stUnitAbsent 0 s
    else done id stOk 0 (modParish c.q.toNat (fun p => { p with profiles := Tab.put none p.profiles n (some prof) }) s)

/-- PROFILE_SET. -/
def execProfileSet (ch : BitVec 21) (pkt : List Word) (s : State) : Host.Outcome State Fault Refusal :=
  .next (asOp 0x44 pkt (startOther ch pkt (runProfileSet pkt)) s)

/-- TABLE_SET (R280). -/
def runTableSet (pkt : List Word) (id : Nat) (s : State) : State :=
  match cmd? s id with
  | none => s
  | some c =>
    if lTableOk (pw pkt 2) then
      done id stOk 0 (modParish c.q.toNat (fun p => { p with tabs := Tab.put (0x4444444444444444#64) p.tabs (bits (pw pkt 1) 0 2) (pw pkt 2) }) s)
    else done id stBadCommand 0 s

/-- TABLE_SET. -/
def execTableSet (ch : BitVec 21) (pkt : List Word) (s : State) : Host.Outcome State Fault Refusal :=
  .next (asOp 0x45 pkt (startOther ch pkt (runTableSet pkt)) s)

/-! ## Registrations (R316) -/

/-- MATRIX_SET's table of R316. -/
def matrixOk (pkt : List Word) : Bool :=
  let k := bits (pw pkt 3) 16 16
  let n := bits (pw pkt 3) 0 16
  bits (pw pkt 1) 0 8 != 0 && [32, 64, 128, 256].contains k && n % 32 == 0 && decide (32 ≤ n) && decide (n ≤ k)

/-- MATRIX_SET (R316). -/
def runMatrixSet (pkt : List Word) (id : Nat) (s : State) : State :=
  match cmd? s id with
  | none => s
  | some c =>
    let m := bits (pw pkt 1) 0 8
    if !(matrixOk pkt) || (regOf s c.q m).isSome then done id stBadCommand 0 s
    else if 1024 ≤ s.mil.regs.length then done id stBusy 0 s
    else
      let r : Reg := { parish := c.q, ident := BitVec.ofNat 8 m, va := bits (pw pkt 2) 0 57, k := BitVec.ofNat 16 (bits (pw pkt 3) 16 16),
                       n := BitVec.ofNat 16 (bits (pw pkt 3) 0 16), format := BitVec.ofNat 8 (pkFormat pkt) }
      done id stOk 0 { s with mil := { s.mil with regs := s.mil.regs ++ [r] } }

/-- MATRIX_SET. -/
def execMatrixSet (ch : BitVec 21) (pkt : List Word) (s : State) : Host.Outcome State Fault Refusal :=
  .next (asOp 0x46 pkt (fun s => if bitAt (pw pkt 0) 16 then s else startOther ch pkt (runMatrixSet pkt) s) s)

/-- An admitted command or a landed stripe uses a parish's MATRIX_ID. -/
def matrixUsed (s : State) (q : BitVec 6) (m : BitVec 8) : Bool :=
  let uses := fun (w : Word) => profRot w == 2 && profMatrix w == m.toNat
  s.eng.cmds.any (fun c => c.parish == some q && c.phase != .done && uses c.profile)
  || s.brn.arrivals.any (fun a => a.parish == q && a.txn.coded && uses a.txn.coding)

/-- CLEAR commands whose ID nothing uses any more remove their registration and complete (R316). -/
def millClears (s : State) : State :=
  s.mil.clears.foldl (fun s x =>
    let (q, m, id) := x
    if matrixUsed s q m then s
    else
      let s := { s with mil := { s.mil with
        regs := s.mil.regs.filter (fun r => !(r.parish == q && r.ident == m)), clears := s.mil.clears.filter fun y => y.2.2 != id } }
      done id stOk 0 (dropMatrices (fun y => y.parish == q && y.ident == m) s)) s

/-- MATRIX_SET with CLEAR (R316). -/
def runMatrixClear (pkt : List Word) (id : Nat) (s : State) : State :=
  match cmd? s id with
  | none => s
  | some c =>
    let m := bits (pw pkt 1) 0 8
    if pw pkt 2 ≠ 0 ∨ pw pkt 3 ≠ 0 ∨ m = 0 ∨ (regOf s c.q m).isNone then done id stBadCommand 0 s
    else millClears (mgmtWait id { s with mil := { s.mil with clears := s.mil.clears ++ [(c.q, BitVec.ofNat 8 m, id)] } })

/-- MATRIX_SET with CLEAR. -/
def execMatrixSetClear (ch : BitVec 21) (pkt : List Word) (s : State) : Host.Outcome State Fault Refusal :=
  .next (asOp 0x46 pkt (fun s => if bitAt (pw pkt 0) 16 then startOther ch pkt (runMatrixClear pkt) s else s) s)

/-- An XFORM matrix of a parish whose span overlaps a range; an empty range overlaps none. -/
def millHolds (q : BitVec 6) (lo hi : Nat) (m : Matrix) : Bool :=
  decide (lo < hi) && m.parish == q && m.ident == 0 && decide (m.va < hi) && decide (lo < m.va + m.k.toNat * m.n.toNat * elemSize m.format.toNat)

/-- MIL_RELEASE (R315). -/
def runMilRelease (pkt : List Word) (id : Nat) (s : State) : State :=
  match cmd? s id with
  | none => s
  | some c =>
    let lo := bits (pw pkt 1) 0 57
    let len := bits (pw pkt 2) 0 57
    if lo % 4096 ≠ 0 ∨ len % 4096 ≠ 0 then done id stBadCommand 0 s
    else
      let n := ((List.range 8).filter fun n => (stone s n).matrix.any (millHolds c.q lo (lo + len))).length
      done id stOk (BitVec.ofNat 64 n) (dropMatrices (millHolds c.q lo (lo + len)) s)

/-- MIL_RELEASE. -/
def execMilRelease (ch : BitVec 21) (pkt : List Word) (s : State) : Host.Outcome State Fault Refusal :=
  .next (asOp 0x47 pkt (startOther ch pkt (runMilRelease pkt)) s)

/-! ## What a gang is taken for (R310, R316, R323) -/

/-- A gang's task: its parish, matrix and axis. `inverse` says that it streams on the transposed axis. -/
structure MillTask where
  q : BitVec 6
  va : Nat
  k : Nat
  n : Nat
  fmt : Nat
  ident : BitVec 8
  inverse : Bool
  deriving DecidableEq, Repr

/-- A parish's registered matrix as a task. -/
def regTask (s : State) (q : BitVec 6) (prof : Word) (inverse : Bool) : Option MillTask :=
  (regOf s q (profMatrix prof)).map fun r =>
    { q := q, va := r.va, k := r.k.toNat, n := r.n.toNat, fmt := r.format.toNat, ident := r.ident, inverse := inverse }

/-- The task of some work. -/
def taskOf (s : State) : MillWork → Option MillTask
  | .job id => (cmd? s id).map fun c =>
      let x := xfShape c.pkt
      { q := c.q, va := (pw c.pkt 3).toNat, k := x.k, n := x.n, fmt := pkFormat c.pkt, ident := 0, inverse := x.trans }
  | .egress id => (cmd? s id).bind fun c => regTask s c.q c.profile (pkOp c.pkt == opCopy && pkSubop c.pkt / 16 % 2 == 1)
  | .ingress id => (arrival? s id).bind fun a => regTask s a.parish a.txn.coding (a.txn.kind.toNat != kGetRequest)

/-- Bytes of a task's matrix. -/
def MillTask.bytes (t : MillTask) : Nat := t.k * t.n * elemSize t.fmt

/-- The command in whose spans a task's matrix has been translated (R153, R316). An ingress inverse translates it as it loads. -/
def millCmd (s : State) : MillWork → Option Cmd
  | .job id | .egress id => cmd? s id
  | .ingress _ => none

/-- The physical pieces of a task's matrix: from its command's ranges, or translated as it loads (R143, R316). -/
def millPieces (s : State) (w : MillWork) (t : MillTask) : XlState :=
  match millCmd s w with
  | some c => { spans := [], ranges := (c.phys [(t.va, t.bytes)]).map (fun p => { va := 0, len := p.2, pa := p.1 }), bads := [], miss := none }
  | none => translate s t.q (xlFuel s [{ va := t.va, len := t.bytes }]) { spans := [{ va := t.va, len := t.bytes }], ranges := [], bads := [], miss := none }

/-- Work may take a gang: a command's own spans stand translated, and not invalidated since (R15, R154). -/
def mayServe (s : State) : MillWork → Bool
  | .job id | .egress id => (cmd? s id).any fun c => c.phase == .gang
  | .ingress id => (arrival? s id).any fun a => a.state == .gang

/-- A stone holds a task's matrix for its gang shape (R315, R323). -/
def holdsFor (t : MillTask) (gang pa : Nat) (m : Matrix) : Bool :=
  m.parish == t.q && m.ident == t.ident && decide (m.k.toNat = t.k) && decide (m.n.toNat = t.n) && decide (m.format.toNat = t.fmt)
  && decide (m.gang.toNat = gang) && (t.ident != 0 || decide (m.pa = pa))

/-! ## Taking a gang (R321-R323) -/

/-- The free gangs of a shape in a pool. -/
def freeGangs (s : State) (pool gang : Nat) : List (List Nat) :=
  (gangStones gang).filter fun g => g.all fun n => poolOf s n == pool && (stone s n).work.isNone

/-- Every stone of a gang holds the task's matrix. -/
def residentIn (s : State) (t : MillTask) (gang pa : Nat) (g : List Nat) : Bool := g.all fun n => (stone s n).matrix.any (holdsFor t gang pa)

/-- The least recently used of some gangs: the one whose stones' last work ended first. -/
def oldestGang (s : State) (gs : List (List Nat)) : Option (List Nat) :=
  let at_ := fun (g : List Nat) => (g.map fun n => (stone s n).lastWork.toNat).foldl max 0
  gs.foldl (fun o g => match o with
    | none => some g
    | some h => if at_ g < at_ h then some g else some h) none

/-- Rotations that wait, inverses first, each kind in arrival order (R323). -/
def rotationsWaiting (s : State) : List (MillWait × MillTask) :=
  let ws := s.mil.waiting.filterMap fun w => match w.work with
    | .job _ => none
    | _ => if mayServe s w.work then (taskOf s w.work).map fun t => (w, t) else none
  (ws.filter fun x => x.2.inverse) ++ ws.filter fun x => !x.2.inverse

/-- A waiting rotation needs a matrix that some stone of a gang holds. -/
def gangWanted (s : State) (g : List Nat) : Bool :=
  (rotationsWaiting s).any fun x => g.any fun n => (stone s n).matrix.any fun m => m.parish == x.2.q && m.ident == x.2.ident

/-- Some gang holds its matrix still for its own stripes: fewer than 32 in a row, or none of another matrix waits (R323). -/
def keeps (s : State) (g : List Nat) : Bool :=
  let other := (rotationsWaiting s).any fun x => !(g.any fun n => (stone s n).matrix.any fun m => m.parish == x.2.q && m.ident == x.2.ident)
  gangWanted s g && !(other && g.any fun n => decide (32 ≤ (stone s n).used))

/-- The gang a rotation may take: one with its matrix, unless that must switch; else the least recently used that keeps none. -/
def rotationGang (s : State) (w : MillWait) (t : MillTask) : Option (List Nat) :=
  let gs := freeGangs s 0 w.gang
  match gs.find? fun g => residentIn s t w.gang 0 g && keeps s g with
  | some g => some g
  | none => match oldestGang s (gs.filter fun g => !(keeps s g)) with
    | some g => some g
    | none => none

/-- The gang a job takes: one with its matrix, else the least recently used (R322). -/
def jobGang (s : State) (w : MillWait) (t : MillTask) (pa : Nat) : Option (List Nat) :=
  let gs := freeGangs s 1 w.gang
  match gs.find? (residentIn s t w.gang pa) with
  | some g => some g
  | none => oldestGang s gs

/-- The rotation that is served next: the first, past those whose shape the pool cannot form; a later one only on a gang that keeps its
matrix (R323, R324). -/
def nextRotation (s : State) : Option (MillWait × MillTask × List Nat) :=
  let ws := (rotationsWaiting s).filter fun x => canForm s 0 x.1.gang
  match ws with
  | [] => none
  | (w, t) :: rest => match rotationGang s w t with
    | some g => some (w, t, g)
    | none => rest.findSome? fun x =>
        ((freeGangs s 0 x.1.gang).find? fun g => residentIn s x.2 x.1.gang 0 g && keeps s g).map fun g => (x.1, x.2, g)

/-- The address of an XFORM's matrix. -/
def jobPa (s : State) (w : MillWork) (t : MillTask) : Nat := ((millPieces s w t).ranges.head?.map fun r => r.pa).getD 0

/-- The job that is served next: the first in admission order, behind which later ones wait (R322). -/
def nextJob (s : State) : Option (MillWait × MillTask × List Nat) :=
  match s.mil.waiting.find? (fun w => match w.work with
    | .job _ => true
    | _ => false) with
  | none => none
  | some w => match (taskOf s w.work).filter fun _ => mayServe s w.work with
    | none => none
    | some t => (jobGang s w t (jobPa s w.work t)).map fun g => (w, t, g)

/-- The older of the two. -/
def nextWork (s : State) : Option (MillWait × MillTask × List Nat) :=
  match nextJob s, nextRotation s with
  | some a, some b => if a.1.id < b.1.id then some a else some b
  | some a, none => some a
  | none, b => b

/-! ## The check of a stream (R319, R320) -/

/-- The positions of the stones whose outputs column `i` of stones gives, in a gang on one axis (R309). -/
def stoneColumn (gang : Nat) (inverse : Bool) (i : Nat) : List Nat :=
  let width := gangWidth gang
  let depth := if gang = 4 then 4 else if gang = 2 ∨ gang = 3 then 2 else 1
  if inverse then (List.range width).map fun w => i * width + w else (List.range depth).map fun d => d * width + i

/-- Add to a 32-bit count, saturating. -/
def sat32 (x : BitVec 32) (n : Nat) : BitVec 32 := if 2 ^ 32 ≤ x.toNat + n then ~~~(0 : BitVec 32) else x + BitVec.ofNat 32 n

/-- Rows of which some decision is `r`. -/
def rowsWith (r : RowCheck) (cs : List (List RowCheck)) : Nat := (cs.filter fun c => c.contains r).length

/-- Rows not checked are counted (R319). -/
def countUnchecked (cs : List (List RowCheck)) (s : State) : State :=
  { s with mil := { s.mil with unchecked := sat32 s.mil.unchecked (rowsWith .unchecked cs) } }

/-- The first row of a job, or of the stripe that some work streams, as MILL_CHECK names it: its number among the rows of its command, or of the stripe
that has landed. DEDUCED: log entry 177. -/
def firstRow (s : State) : MillWork → Nat
  | .egress id => ((cmd? s id).bind fun c => (planAt c c.next).src.head?).getD 0
  | .job _ | .ingress _ => 0

/-- A row has failed: its gang's matrices go with the work, the row is counted, and the stones of the failed columns report it
(R320, R396). -/
def millFail (w : MillWork) (t : MillTask) (gang : Nat) (cs : List RowCheck) (cmds : List Nat) (s : State) : State :=
  let g := workStones s w
  let s := g.foldl (fun s n => modStone n (fun x => { x with dropAfter := true }) s) s
  let s := { s with mil := { s.mil with mismatch := sat32 s.mil.mismatch 1 } }
  let bad := ((List.range cs.length).filter fun i => cs.getD i .pass == .fail).flatMap (stoneColumn gang t.inverse)
  bad.foldl (fun s i => raise (srcStone (g.getD i 0)) kMillCheck (firstRow s w) cmds (some t.q) s) s

/-- The gang shape of some work. -/
def gangShape (s : State) (w : MillWork) : Nat := (((workStones s w).head?.bind fun n => (stone s n).matrix).map fun m => m.gang.toNat).getD 0

/-- The columns of values that a stream on an axis meets: those of M, or its rows (R306, R310). -/
def taskCols (t : MillTask) (m : Rows) : Rows := if t.inverse then m else transposed t.n m

/-- The format of a task's matrix. -/
def millFmt (fmt : Nat) : FpFmt := (fmtFp fmt).getD bf16

/-- The elements of a task's input rows. -/
def MillTask.inEl (t : MillTask) : Nat := if t.inverse then t.n else t.k

/-- Rows `r` to `r + n` pass from the staging through the cells of some work's gang: results and decisions of each row (R310, R312, R319). -/
def millStream (s : State) (w : MillWork) (t : MillTask) (f : FpFmt) (r n : Nat) : Rows × List (List RowCheck) :=
  let g := workStones s w
  let gang := gangShape s w
  let cols := taskCols t (gangMatrix s g gang (millFmt t.fmt) t.k t.n)
  let rs := (List.range n).map fun i => millChecked gang cols ((stagedRow s g gang t.inverse t.inEl (r + i)).map (fpDecode f))
  (rs.map fun x => x.1, rs.map fun x => x.2)

/-- Rows of some work are written into the staging of its gang. -/
def millStage (w : MillWork) (t : MillTask) (r : Nat) (codes : List (List Nat)) (s : State) : State :=
  stageRows (workStones s w) (gangShape s w) t.inverse t.q r codes s

/-- A rotation's stream: its rows are staged in the format `f` they enter in, and pass as one unit; its results as one run of values, or its
failure, every failing row of which counts (R299, R320, R323). -/
def rotate_ (w : MillWork) (t : MillTask) (f : FpFmt) (xs : Rows) (cmds : List Nat) (s : State) : Option (List Fp) × State :=
  let s := millStage w t 0 (xs.map fun x => x.map (fpEncode f)) s
  let (ys, cs) := millStream s w t f 0 xs.length
  let s := countUnchecked cs s
  let bad := (List.range cs.length).filter fun i => (cs.getD i []).contains .fail
  if bad.isEmpty then (some (ys.flatMap fun y => y), s)
  else (none, bad.foldl (fun s i => millFail w t (gangShape s w) (cs.getD i []) cmds s) s)

/-- The gang of some work is given back. -/
def giveBack (w : MillWork) (s : State) : State := freeStones (fun x => x == w) s

/-! ## Streams of each kind of work -/

/-- An ingress inverse takes its inputs in FORMAT when MODE is 0 and in BF16 otherwise (R323). -/
def inverseFmt (w : Word) : FpFmt := if profMode w = 0 then millFmt (codingFmt w) else bf16


/-- A command's staged stripe passes the Mill (R299, R305, R323). -/
def egressStream (id : Nat) (c : Cmd) (t : MillTask) (s : State) : State :=
  let w := MillWork.egress id
  let prof := c.profile
  let fmt := pkFormat c.pkt
  let p := planAt c c.next
  let active := fun (s : State) => modCmd id (fun c => { c with phase := .active, staged := [] }) (giveBack w s)
  let failed := fun (st : BitVec 8) (s : State) => feed id (failSelf id c.next st (active s))
  if t.inverse then
    let cw := codingWord prof fmt
    match decodeStripe true cw p.bytes t.k t.n c.staged with
    | .rotated rows =>
      let (r, s) := rotate_ w t (inverseFmt cw) rows [id] s
      (match r with
        | none => failed stCheck s
        | some vs => feed id (copyOut id (narrowed fmt vs) (modCmd id (fun x => { x with srcOff := x.srcOff + c.staged.length }) (active s))))
    | _ => failed stData s
  else
    let raw := c.staged.take p.bytes
    let ws := c.staged.drop p.bytes
    let (r, s) := rotate_ w t (millFmt fmt) (denseRows t.k (codingInput prof fmt raw)) [id] s
    match r with
    | none => failed stCheck s
    | some vs =>
      let coded := codeValues prof fmt vs
      if pkOp c.pkt = opCopy then feed id (copyOut id coded (active s)) else feed id (emitStripe id raw (some coded) ws (active s))

/-- A landed stripe, request or response passes the Mill (R299, R323). -/
def ingressStream (a : Arrival) (t : MillTask) (s : State) : State :=
  let w := MillWork.ingress a.id
  let cw := a.txn.coding
  let fmt := codingFmt cw
  if !t.inverse then
    let (r, s) := rotate_ w t (millFmt fmt) (denseRows t.k (codingInput (codingProf cw) fmt a.data)) [] s
    match r with
    | none => refuseArrival a stCheck (giveBack w s)
    | some vs => getResponse a a.data (some (codeValues (codingProf cw) fmt vs)) (giveBack w s)
  else
    let failed := fun (st : BitVec 8) (s : State) => match a.cmd with
      | some id => failResponse a id st (giveBack w s)
      | none => refuseArrival a st (giveBack w s)
    match decodeStripe true cw (txBytes a.txn) t.k t.n a.txn.payload with
    | .rotated rows =>
      let (r, s) := rotate_ w t (inverseFmt cw) rows a.cmd.toList s
      (match r with
        | none => failed stCheck s
        | some vs =>
          let data := if txReduce a.txn then contribution fmt (.values vs) else narrowed fmt vs
          let s := giveBack w (modArrival a.id (fun x => { x with data := data, decoded := true }) s)
          if a.cmd.isSome then withArrival a.id responseGo s
          else if a.ranges.isEmpty then xlateArrival a.id s else withArrival a.id arrReady s)
    | _ => failed stData s

/-- A block of an XFORM's input rows passes the gang: the rows before a failing one are written, and the job then fails (R310,
R320). -/
def jobStream (id : Nat) (c : Cmd) (t : MillTask) (s : State) : State :=
  let w := MillWork.job id
  let m := xfBlock c
  let (ys, cs) := millStream s w t (millFmt (pkFormat c.pkt)) c.next m
  let bad := firstBelow cs.length fun i => (cs.getD i []).contains .fail
  let good := bad.getD m
  let s := countUnchecked (cs.take (good + 1)) s
  let s := modCmd id (fun c => { c with staged := [] }) s
  let s := match bad with
    | none => s
    | some i => failSelf id (c.next + i) stCheck (millFail w t (gangShape s w) (cs.getD i []) [id] s)
  if good = 0 then feed id s else rowsOut id ((ys.take good).flatMap (narrowed (xfShape c.pkt).outFmt)) s

/-- A gang that is ready goes on with its work. -/
def gangGo (w : MillWork) (s : State) : State :=
  if !(gangReady s w) then s
  else match taskOf s w with
    | none => s
    | some t =>
      match w with
      | .job id => match cmd? s id with
        | none => s
        | some c =>
          if c.phase == .gang then feed id (modCmd id (fun c => { c with phase := .active }) s)
          else if c.phase == .active && !(c.staged.isEmpty) then resumeXlate id (jobStream id c t s)
          else feed id s
      | .egress id => match cmd? s id with
        | none => s
        | some c => if c.phase == .gang then resumeXlate id (egressStream id c t s) else s
      | .ingress id => match arrival? s id with
        | none => s
        | some a => if a.state == .gang then retryArrivals (ingressStream a t s) else s

/-- The elements of a staged block of an XFORM, by row. -/
def jobCodes (c : Cmd) (bs : List Byte) : List (List Nat) := (chunks (xfShape c.pkt).inBytes (xfBlock c) bs).map (elements (elemSize (pkFormat c.pkt)))

/-- A block of an XFORM's input is back: it is written into the staging, and streams, or stays there while its gang is frozen (R312, R317,
R328). -/
def jobBack (id : Nat) (bs : List Byte) (s : State) : State :=
  match cmd? s id with
  | none => s
  | some c =>
    let s := modCmd id (fun c => { c with reading := false }) s
    if c.phase != .active then s
    else if c.halt then checkDone id s
    else match taskOf s (.job id) with
      | none => s
      | some t =>
        let bs := sourceOf c (xfRows c.pkt false c.next (xfBlock c)) bs
        let s := millStage (.job id) t c.next (jobCodes c bs) (modCmd id (fun c => { c with staged := bs }) s)
        gangGo (.job id) (if gangReady s (.job id) then s else resumeXlate id s)

/-- Work whose gang is ready goes on. -/
def millPump (s : State) : State :=
  (List.range 8).foldl (fun s n => match (stone s n).work with
    | some w => gangGo w s
    | none => s) s

/-- XFORM commands that hold no gang and whose shape the JOB pool can no longer form end with UNIT_ABSENT (R322). -/
def poolShrunk (s : State) : State :=
  (s.eng.cmds.filter fun c => c.op.toNat == opXform && c.phase != .done && (workStones s (.job c.id)).isEmpty).foldl (fun s c =>
    if canForm s 1 (bits (pw c.pkt 6) 0 3) then s else finish c.id stUnitAbsent 0 0 s) s

/-! ## GANG_ALLOCATE and loads (R314, R322) -/

/-- A stripe whose matrix is not RESIDENT when it loads is refused, and a response fails its command so (R143). -/
def millUnmapped (w : MillWork) (t : MillTask) (va k : Nat) (s : State) : State :=
  match w with
  | .ingress id => match arrival? s id with
    | some a =>
      let s := raise srcTerrier (ingressKind k) va a.cmd.toList (some t.q) s
      (match a.cmd with
        | some c => failResponse a c stAccess s
        | none => retryArrivals (refuseArrival a stAccess s))
    | none => s
  | _ => s

/-- Work takes a gang: it streams at once on a resident matrix, else the matrix is read. The read is
tested against the watchpoints (R428). A rotation is timed on until its stripe streams (R328). -/
def takeGang (w : MillWait) (t : MillTask) (g : List Nat) (s : State) : State :=
  let x := millPieces s w.work t
  match x.bads, x.miss with
  | (va, k) :: _, _ => millUnmapped w.work t va k { s with mil := { s.mil with waiting := s.mil.waiting.filter fun y => y.id != w.id } }
  | [], some va => startWalk t.q va true s
  | [], none =>
    let pa := (x.ranges.head?.map fun r => r.pa).getD 0
    let res := residentIn s t w.gang pa g
    let order := s.mil.nextId
    let keep := match w.work with
      | .job _ => []
      | _ => [w]
    let s := { s with mil := { s.mil with waiting := s.mil.waiting.filter (fun y => y.id != w.id), held := s.mil.held ++ keep, nextId := s.mil.nextId + 1 } }
    let m : Matrix := { parish := t.q, pa := pa, va := t.va, k := BitVec.ofNat 16 t.k, n := BitVec.ofNat 16 t.n, format := BitVec.ofNat 8 t.fmt,
                        gang := BitVec.ofNat 3 w.gang, ident := t.ident }
    let s := g.foldl (fun s n => modStone n (fun y =>
      if res then { y with work := some w.work, took := order, used := y.used + 1 }
      else { y with work := some w.work, took := order, used := 1, loading := true, matrix := some m }) s) s
    if res then gangGo w.work s
    else
      let cls : BitVec 3 := if (millCmd s w.work).isSome then 3 else 1
      watchLocal t.q wRead [(t.va, t.bytes)]
        (issueRead (.matrix w.work) (x.ranges.map fun r => (r.pa, r.len)) cls (some 51) (some (t.q, t.va, t.bytes)) s)

/-- GANG_ALLOCATE (R322): the work that is served next takes its gang; with none, jobs whose shape can no longer be formed end. CLEAR commands whose ID has fallen out of use complete. -/
def execGangAllocate (s : State) : Host.Outcome State Fault Refusal :=
  .next (if !(running s) then s
    else
      let s := millClears s
      match nextWork s with
      | none => poolShrunk s
      | some (w, t, g) => takeGang w t g s)

/-- A matrix has been read: its tiles are staged, and its stones join the load path in order (R311, R314). -/
def matrixBack (w : MillWork) (bs : List Byte) (s : State) : State :=
  let g := (workStones s w).filter fun n => (stone s n).loading
  match taskOf s w with
  | none => s
  | some t =>
    let s := stageTiles g (gangShape s w) t.q (matrixCodes t.fmt t.k t.n bs) s
    { s with mil := { s.mil with loads := s.mil.loads ++ g } }

/-- A matrix's read was answered with an error (R412): the work fails with DATA_UNCORRECTABLE. -/
def matrixFailed (w : MillWork) (s : State) : State :=
  if (workStones s w).isEmpty then s
  else match w with
    | .job id => feed id (failSelf id ((cmd? s id).map (fun c => c.next) |>.getD 0) stData (modCmd id (fun c => { c with phase := .active }) s))
    | .egress id =>
      feed id (failSelf id ((cmd? s id).map (fun c => c.next) |>.getD 0) stData (modCmd id (fun c => { c with phase := .active, staged := [] }) (giveBack w s)))
    | .ingress id => match arrival? s id with
      | none => giveBack w s
      | some a => match a.cmd with
        | some c => failResponse a c stData (giveBack w s)
        | none => retryArrivals (refuseArrival a stData (giveBack w s))

/-- STONE_LOAD_DONE (R314): the stone's cells hold its tile. Loads take turns in request order, past stones that are QUIET. -/
def loadDone (n : Nat) (s : State) : State :=
  if !(running s) || s.mil.loads.find? (fun m => (stone s m).running) != some n then s
  else
    let s := modStone n Stone.load { s with mil := { s.mil with loads := s.mil.loads.erase n } }
    match (stone s n).work with
    | some w => gangGo w s
    | none => s

/-- STONE_LOAD_DONE. -/
def execStoneLoadDone (stone : BitVec 3) (s : State) : Host.Outcome State Fault Refusal := .next (loadDone stone.toNat s)

/-- A rotation still waits for a gang that works: for stones, or for its stones to be RUNNING (R324, R328). -/
def rotationWait (s : State) (id : Nat) : Option MillWait :=
  (s.mil.waiting ++ s.mil.held.filter fun w => !((workStones s w.work).all fun n => (stone s n).running)).find? fun w => w.id == id

/-- MILL_GANG_TIMEOUT (R324): a rotation has waited for the effective timeout. -/
def gangTimeout (id : Nat) (s : State) : State :=
  match rotationWait s id with
  | none => s
  | some w =>
    if !(reached s w.waitEnd) then s
    else
      let out := giveBack w.work { s with mil := { s.mil with waiting := s.mil.waiting.filter fun x => x.id != id } }
      match w.work with
      | .job _ => s
      | .egress c => resumeXlate c (feed c (modCmd c (fun x => { x with phase := .active, staged := [], late := x.late ++ [stTimeout], halt := true }) out))
      | .ingress n => match arrival? out n with
        | none => out
        | some a => match a.cmd with
          | some c => failResponse a c stTimeout out
          | none => retryArrivals (refuseArrival a stTimeout out)

/-- MILL_GANG_TIMEOUT. -/
def execMillGangTimeout (unit : Nat) (s : State) : Host.Outcome State Fault Refusal := .next (whileRunning (fun s => millClears (gangTimeout unit s)) s)

/-! ## RUNNING and QUIET (R326-R328) -/

/-- A stone may change: none has in the last 100 ns (R327). -/
def mayToggle (s : State) : Bool := match s.mil.toggled with
  | none => true
  | some t => reached s (later t 1600)

/-- RUNNING stones. -/
def runningStones (s : State) : List Nat := (List.range 8).filter fun n => (stone s n).running

/-- A stone changes between RUNNING and QUIET. -/
def toggle (n : Nat) (on : Bool) (s : State) : State :=
  modStone n (fun x => { x with running := on }) { s with mil := { s.mil with toggled := some (now s) } }

/-- BRAKE_N or THERM_WARN_N is asserted, or the stones that run exceed the ceiling (R328). -/
def millPressed (s : State) : Bool := s.pins.brake || s.pins.therm || decide (s.pwr.ceiling.toNat < (runningStones s).length)

/-- RUNNING stones whose gang is not frozen: those that count against the ceiling from then on. -/
def drawing (s : State) : List Nat := (runningStones s).filter fun m => !(stone s m).frozen

/-- A gang is frozen: it waits anew, with all its stones (R327, R328). -/
def freeze (w : MillWork) (s : State) : State :=
  let n := s.mil.nextId
  (workStones s w).foldl (fun s m => modStone m (fun x => { x with frozen := true, took := n }) s) { s with mil := { s.mil with nextId := n + 1 } }

/-- STONE_QUIET (R326, R328): after 2 µs without work; at once under pressure; and, above the ceiling with none idle, the highest
stone at work, whose gang freezes and goes QUIET whole. -/
def stoneQuiet (n : Nat) (s : State) : State :=
  let x := stone s n
  if !x.running || !(mayToggle s) then s
  else match x.work with
    | none => if millPressed s ∨ (s.pwr.state ≠ .active ∧ reached s (later x.lastWork (2 * usUnits))) then toggle n false s else s
    | some w =>
      if x.frozen then toggle n false s
      else if s.pwr.ceiling.toNat < (drawing s).length ∧ (runningStones s).all (fun m => (stone s m).work.isSome)
          ∧ (drawing s).all (fun m => decide (m ≤ n)) then toggle n false (freeze w s)
      else s

/-- STONE_QUIET. -/
def execStoneQuiet (stone : BitVec 3) (s : State) : Host.Outcome State Fault Refusal := .next (whileRunning (stoneQuiet stone.toNat) s)

/-- The ceiling allows a QUIET stone of some work to wake: of a frozen gang, all that are QUIET (R328). -/
def mayWake (s : State) (x : Stone) (w : MillWork) : Bool :=
  let quiet := if x.frozen then ((workStones s w).filter fun m => !(stone s m).running).length else 1
  decide ((runningStones s).length + quiet ≤ s.pwr.ceiling.toNat)

/-- STONE_WAKE (R327, R328): a QUIET stone of the gang that has waited longest, below the ceiling; a frozen gang is frozen no more. -/
def stoneWake (n : Nat) (s : State) : State :=
  let x := stone s n
  let first := (List.range 8).all fun m => (stone s m).running || (stone s m).work.isNone || decide (x.took ≤ (stone s m).took)
  match x.work with
  | none => s
  | some w =>
    if x.running || !first || !(mayToggle s) || !(running s) || !(mayWake s x w) then s
    else gangGo w (toggle n true ((workStones s w).foldl (fun s m => modStone m (fun y => { y with frozen := false }) s) s))

/-- STONE_WAKE. -/
def execStoneWake (stone : BitVec 3) (s : State) : Host.Outcome State Fault Refusal := .next (stoneWake stone.toNat s)

/-! ## Pools (R321, R322) -/

/-- A stone leaves its pool: it drops its matrix, once its work has ended, and serves the old pool until then (R315, R321). -/
def stoneLeaves (old n : Nat) (s : State) : State :=
  modStone n (fun x => if x.work.isSome then { x with dropAfter := true, oldPool := some (x.oldPool.getD old) } else { x with matrix := none }) s

/-- A write of MIL_POOL: one that holds a 3 is ignored with CONFIG; a written field clears its stone's AUTO_OOS (R330). The bytes
that the write touches are `mask`. -/
def milPool (val mask : Word) (s : State) : State :=
  let new := (merge (s.mil.pool.zeroExtend 64) val mask).extractLsb' 0 16
  if (List.range 8).any fun n => (new.toNat / 4 ^ n) % 4 == 3 then raise srcMill kConfig 0x2028 [] none s
  else
    let old := s
    let written := fun (n : Nat) => bits mask (2 * n) 2 != 0
    let s := { s with mil := { s.mil with pool := new, autoOos := (List.range 8).foldl (fun a n => if written n then setBit a n false else a) s.mil.autoOos } }
    let s := (List.range 8).foldl (fun s n => if poolSet s n ≠ poolSet old n then stoneLeaves (poolSet old n) n s else s) s
    poolShrunk s

/-! ## A parish goes (R325, R361) -/

/-- Everything the Mill holds of a parish: registrations, matrices, the cells last loaded with one, work, and the staging slots that hold its data
(R325). -/
def millScrub (q : BitVec 6) (s : State) : State :=
  let s : State := { s with mil := { s.mil with regs := s.mil.regs.filter fun r => r.parish != q } }
  let s := (List.range 8).foldl (fun s n =>
    let s := modStone n (Stone.clearStage fun _ p => p == q) s
    let s := if (stone s n).holds == some q then modStone n (fun x => { x with cells := [], holds := none }) s else s
    if (stone s n).matrix.any fun m => m.parish == q then
      modStone n (fun x => { x with matrix := none, loading := false, work := none, dropAfter := false, frozen := false, oldPool := none }) s else s) s
  { s with mil := { s.mil with loads := s.mil.loads.filter fun n => (stone s n).loading } }

end Sys2Proof.Machine
end

