-- ==== Sys2Proof/Machine/Planes.lean ====
section
/-! DEFINITION. Planes, routes, stripe maps, plans and fences as the operator sets them (R170-R185, R239-R242), and plane notices
(R177). -/

namespace Sys2Proof.Machine

/-! ## Masks that change (R53, R171, R185) -/

/-- The rotation no longer bounds the sources per plane towards `d`: a valid destination other than the device itself whose window has no position
by right (R111, R185). -/
def degraded (s : State) (d : Nat) : Bool :=
  let e := routeEntry s (BitVec.ofNat 9 d)
  let a := (bitsSet (activeMask s (BitVec.ofNat 9 d))).length
  systemLevel s && reValid e && d != (ownId s).toNat && windowC (reLinks e) * a / 512 == 0

/-- Active masks have changed from those of `old`: PLANE_DEGRADED where a destination became degraded, and accesses held for a plane
that has left are pinned anew (R53, R185). -/
def planesChanged (old s : State) : State :=
  let s := (bankOf s (activeBank s)).foldl (fun s e => if degraded s e.1 && !(degraded old e.1) then raise srcMapper kPlaneDegraded e.1 [] none s else s) s
  s.dap.pins.foldl (fun s p => repin p.1 p.2.1 s) s

/-- The tallies of a pair are reset as its entry becomes valid (R242). -/
def resetTally (d : Nat) (s : State) : State :=
  let s := modSrcTally d (fun _ => { seen := BitVec.ofNat 32 (planPreload (planOf s d)) }) s
  modTgtTally d (fun t => { held := t.held }) s

/-- Entries of the active bank have changed from those of `old`: tallies of peers that became valid are reset, the default grant is
computed anew, and grants follow (R237, R239, R242). -/
def routesChanged (old s : State) : State :=
  let fresh := (bankOf s (activeBank s)).filter fun e => reValid e.2 && e.1 != (ownId s).toNat && !(reValid (routeEntry old (BitVec.ofNat 9 e.1)))
  planesChanged old (issueAll (fresh.foldl (fun s e => resetTally e.1 s) s))

/-! ## ROUTE_LOAD and ROUTE_COMMIT (R172, R178, R179) -/

/-- The inactive bank's settle time is not over (R179). -/
def unsettled (s : State) : Bool := !s.route.settled

/-- ROUTE_LOAD: the checks on its fields, then its entries are read (R172, R178, R179). -/
def runRouteLoad (pkt : List Word) (id : Nat) (s : State) : State :=
  let w := pw pkt 1
  let bank := bitAt w 32
  let n := bits w 16 10
  let first := bits w 0 9
  let pa := bits (pw pkt 2) 0 52
  if n = 0 ∨ 512 < n ∨ 512 < first + n ∨ pa % 16 ≠ 0 ∨ (!(systemLevel s) ∧ bank) ∨ (systemLevel s ∧ bank = s.route.epoch) then done id stBadCommand 0 s
  else if systemLevel s ∧ unsettled s then done id stBusy 0 s
  else issueRead (.mgmt id) [(pa, 16 * n)] 3 none none (mgmtWait id s)

/-- ROUTE_LOAD. -/
def execRouteLoad (ch : BitVec 21) (pkt : List Word) (s : State) : Host.Outcome State Fault Refusal :=
  .next (asOp 0x84 pkt (startOther ch pkt (runRouteLoad pkt)) s)

/-- An entry passes the checks of R170 and R172 for its index. -/
def routeOk (s : State) (d : Nat) (e : BitVec 128) : Bool :=
  !(e.getLsbD 104) && !(e.getLsbD 96)
  && (!(reValid e) || (decide (reRack e = d / 64) && decide (reSlot e = d % 64) && [48, 72, 96].contains (reLinks e)
      && (!(reMapEn e) || ((Tab.get [] s.route.maps (reMapIndex e)).headD 0 != 0))))

/-- Write an entry of a bank; its cursor starts at 0 (R174). -/
def loadEntry (bank : Bool) (d : Nat) (e : BitVec 128) (s : State) : State :=
  let r := if bank then { s.route with bank1 := Tab.put 0 s.route.bank1 d e } else { s.route with bank0 := Tab.put 0 s.route.bank0 d e }
  { s with route := { r with cursors := if bank = activeBank s then Tab.erase r.cursors d else r.cursors } }

/-- The entries of ROUTE_LOAD are back: all are checked before any is written (R172). -/
def routeLoadBack (id : Nat) (c : Cmd) (bs : List Byte) (s : State) : State :=
  let w := pw c.pkt 1
  let bank := bitAt w 32
  let first := bits w 0 9
  let es := (chunks 16 (bits w 16 10) bs).map fun b => BitVec.ofNat 128 (ofLE b)
  let ix := (List.range es.length).map fun i => (first + i, es.getD i 0)
  if ix.all fun x => routeOk s x.1 x.2 then
    let t := ix.foldl (fun s x => loadEntry bank x.1 x.2 s) s
    let t := if bank = activeBank t then routesChanged s t else { t with route := { t.route with loaded := true } }
    done id stOk 0 t
  else done id stBadCommand 0 s

/-- Accesses of pairs whose route changes are held until those of the old epoch have ended (R53, R180). -/
def unpin (changed : BitVec 9 → Bool) (s : State) : State :=
  let accs := s.dap.accs
  let mine := fun (u : Xu) => !u.charged && (match u.use with
    | .dap n => accs.any fun a => a.id == n && changed a.dest
    | _ => false)
  { s with
    dap := { s.dap with pins := s.dap.pins.map fun p => if changed p.2.1 then (p.1, p.2.1, noPlane) else p }
    tx := { s.tx with units := s.tx.units.map fun u => if mine u then { u with pinned := some noPlane } else u } }

/-- ROUTE_COMMIT (R179, R180). -/
def runRouteCommit (id : Nat) (s : State) : State :=
  if !(systemLevel s) then done id stBadCommand 0 s
  else if s.route.loaded ∧ unsettled s then done id stBusy 0 s
  else
    let t := { s with route := { s.route with epoch := !s.route.epoch, loaded := false, settled := false, cursors := [] } }
    let t := cmpNext 0 (settleUnits s) t
    let t := unpin (fun d => routeEntry t d != routeEntry s d) t
    done id stOk 0 (routesChanged s t)

/-- ROUTE_COMMIT. -/
def execRouteCommit (ch : BitVec 21) (pkt : List Word) (s : State) : Host.Outcome State Fault Refusal :=
  .next (asOp 0x85 pkt (startOther ch pkt runRouteCommit) s)

/-- Comparator 0 fires: SETTLE_US, as it stood at the commit, has passed since the inactive bank was last active (R179, R376; log entry 182). -/
def settleExpired (s : State) : State :=
  if cmpFires s 0 then markFired 0 (cmpOff 0 { s with route := { s.route with settled := true } }) else s

/-- ROUTE_SETTLE_EXPIRY. -/
def execRouteSettleExpiry (s : State) : Host.Outcome State Fault Refusal := .next (settleExpired s)

/-! ## STRIPE_MAP_SET (R172, R175) -/

/-- STRIPE_MAP_SET: its map is read. -/
def runStripeMap (pkt : List Word) (id : Nat) (s : State) : State :=
  let pa := bits (pw pkt 2) 0 52
  if pa % 64 ≠ 0 then done id stBadCommand 0 s else issueRead (.mgmt id) [(pa, 128)] 3 none none (mgmtWait id s)

/-- STRIPE_MAP_SET. -/
def execStripeMapSet (ch : BitVec 21) (pkt : List Word) (s : State) : Host.Outcome State Fault Refusal :=
  .next (asOp 0x86 pkt (startOther ch pkt (runStripeMap pkt)) s)

/-- A map keeps to R175. -/
def mapOk (m : List Byte) : Bool :=
  let len := (m.headD 0).toNat
  decide (1 ≤ len) && decide (len ≤ 127) && ((m.drop 1).take len).all (fun b => decide (b.toNat < 128)) && (m.drop (1 + len)).all (· == 0)

/-- The map is back: checked, then refused while a valid entry of either bank names it, then written (R175). -/
def stripeMapBack (id : Nat) (c : Cmd) (bs : List Byte) (s : State) : State :=
  let n := bits (pw c.pkt 1) 0 12
  let named := (s.route.bank0 ++ s.route.bank1).any fun e => reValid e.2 && reMapEn e.2 && e.1 != (ownId s).toNat && reMapIndex e.2 == n
  if !(mapOk bs) then done id stBadCommand 0 s
  else if named then done id stBusy 0 s
  else done id stOk 0 { s with route := { s.route with maps := Tab.put [] s.route.maps n bs } }

/-! ## PLANE_DRAIN (R172) -/

/-- Something on a plane is outstanding: neither acknowledged, answered nor lost, though its command may have ended (R172). -/
def planeBusy (s : State) (p : Nat) : Bool := (s.tx.units ++ s.tx.ghosts).any fun u => u.charged && u.plane == p && !u.owed.isEmpty

/-- Drains whose plane has nothing outstanding complete. -/
def drainsEnd (s : State) : State :=
  s.route.drains.foldl (fun s x =>
    if planeBusy s x.2 then s
    else done x.1 stOk 0 { s with route := { s.route with drains := s.route.drains.filter fun y => y.1 != x.1 } }) s

/-- PLANE_DRAIN or UNDRAIN (R171, R172). -/
def runPlaneDrain (on : Bool) (pkt : List Word) (id : Nat) (s : State) : State :=
  let p := bits (pw pkt 1) 0 7
  if !(hasLink s p) then done id stBadCommand 0 s
  else
    let t := planesChanged s (withRoute { s.route with drain := setBit s.route.drain p on } s)
    if on then drainsEnd (mgmtWait id { t with route := { t.route with drains := t.route.drains ++ [(id, p)] } }) else done id stOk 0 t

/-- PLANE_DRAIN. -/
def execPlaneDrain (ch : BitVec 21) (pkt : List Word) (s : State) : Host.Outcome State Fault Refusal :=
  .next (asOp 0x87 pkt (fun s => if bitAt (pw pkt 0) 16 then s else startOther ch pkt (runPlaneDrain true pkt) s) s)

/-- PLANE_UNDRAIN. -/
def execPlaneUndrain (ch : BitVec 21) (pkt : List Word) (s : State) : Host.Outcome State Fault Refusal :=
  .next (asOp 0x87 pkt (fun s => if bitAt (pw pkt 0) 16 then startOther ch pkt (runPlaneDrain false pkt) s else s) s)

/-! ## PLANE_NOTICE (R177) -/

/-- The fabric IDs a notice names. -/
def noticed (racks : BitVec 8) (slots : BitVec 64) (d : Nat) : Bool := memb racks (d / 64) && memb slots (d % 64)

/-- Bit `p` of PLANE_MASK leaves the entries that `hit` names. -/
def clearPlane (p : Nat) (hit : Nat → Bool) (bank : List (Nat × BitVec 128)) : List (Nat × BitVec 128) :=
  bank.foldl (fun b e => if hit e.1 then Tab.put 0 b e.1 (setBit e.2 p false) else b) bank

/-- All that a queued transaction goes to is among the devices of `hit`: its destination, or every member it still goes to (R177). -/
def goesNowhere (s : State) (hit : BitVec 9 → Bool) (x : TxItem) : Bool :=
  x.dest.any hit || (x.dest.isNone && ((x.unit.bind fun n => (s.tx.units ++ s.tx.ghosts).find? fun u => u.id == n).any fun u => u.dests.all hit))

/-- What is queued on a plane's link towards the devices of `hit` alone, and of which nothing has left, is dropped (R56, R177). -/
def dropQueued (p : Nat) (hit : BitVec 9 → Bool) (s : State) : State :=
  let gone := fun (x : TxItem) => x.fresh && goesNowhere s hit x
  if (link s p).txq.any gone then modLink p (fun l => { l with txq := l.txq.filter fun x => !(gone x) }) s else s

/-- PLANE_NOTICE: masks in both banks, the losses of R56, the event (R177). -/
def planeNotice (l p : Nat) (racks : BitVec 8) (slots : BitVec 64) (s : State) : State :=
  let hit := noticed racks slots
  let t := withRoute { s.route with bank0 := clearPlane p hit s.route.bank0, bank1 := clearPlane p hit s.route.bank1 } s
  linkEvent 2 l (planesChanged s (losePlane p (fun d => hit d.toNat) (dropQueued p (fun d => hit d.toNat) t)))

/-- PLANE_NOTICE. -/
def execPlaneNotice (link : BitVec 7) (plane : BitVec 7) (racks : BitVec 8) (slots : BitVec 64) (s : State) : Host.Outcome State Fault Refusal :=
  .next (if linkHears s link && hasLink s plane.toNat then planeNotice link.toNat plane.toNat racks slots s else s)

/-! ## TALLY_PLAN (R239-R241) -/

/-- TALLY_PLAN: its entries are read (R240). -/
def runTallyPlan (pkt : List Word) (id : Nat) (s : State) : State :=
  let pa := bits (pw pkt 1) 0 52
  if pa % 64 ≠ 0 then done id stBadCommand 0 s else issueRead (.mgmt id) [(pa, 4096)] 3 none none (mgmtWait id s)

/-- TALLY_PLAN. -/
def execTallyPlan (ch : BitVec 21) (pkt : List Word) (s : State) : Host.Outcome State Fault Refusal :=
  .next (asOp 0x8A pkt (fun s => if bitAt (pw pkt 0) 16 then s else startOther ch pkt (runTallyPlan pkt) s) s)

/-- A plan entry keeps to R240, for its fabric ID. Its list of refusals does not name OWNED = 0 with a PARISH other than 0, which its table rules out:
the model refuses it. DESIGN CHOICE, safe: log entry 154. -/
def planOk (s : State) (d : Nat) (w : Word) : Bool :=
  !(outside w (maskAt 56 8 ||| maskAt 32 20 ||| maskAt 0 20)) && (d != (ownId s).toNat || w == 0)
  && (if bitAt w 62 then (parish s (bits w 56 6)).state == .active else bits w 56 6 == 0)

/-- The plan is back: stored whole or not at all; RESULT is the new default grant (R240). -/
def tallyPlanBack (id : Nat) (bs : List Byte) (s : State) : State :=
  let ws := bytesWords 512 bs
  let ix := (List.range 512).map fun i => (i, ws.getD i 0)
  let sum := (ix.map fun x => if planPlanned x.2 then planGrant x.2 else 0).foldl (· + ·) 0
  if (ix.all fun x => planOk s x.1 x.2) ∧ sum ≤ barnLines then
    let t := issueAll { s with tal := { s.tal with plan := ix.filter fun x => x.2 != 0 } }
    done id stOk (BitVec.ofNat 64 (defaultGrant t)) t
  else done id stBadCommand 0 s

/-- TALLY_PLAN with CLEAR (R240). -/
def runPlanClear (pkt : List Word) (id : Nat) (s : State) : State :=
  if pw pkt 1 ≠ 0 then done id stBadCommand 0 s
  else
    let t := issueAll { s with tal := { s.tal with plan := [] } }
    done id stOk (BitVec.ofNat 64 (defaultGrant t)) t

/-- TALLY_PLAN with CLEAR. -/
def execTallyPlanClear (ch : BitVec 21) (pkt : List Word) (s : State) : Host.Outcome State Fault Refusal :=
  .next (asOp 0x8A pkt (fun s => if bitAt (pw pkt 0) 16 then startOther ch pkt (runPlanClear pkt) s else s) s)

/-! ## FENCE and UNFENCE (R181-R183, R235, R273) -/

/-- A command still has something open towards a target. -/
def openTowards (s : State) (c : Cmd) (t : Target) : Bool :=
  (unitsOf s c.id).any (fun u => u.owed.contains t.dev) || s.tx.queries.any (fun q => q.cmd == c.id && q.dev == t.dev)
  || (t.live && (nextStripe c).isSome) || t.sig == .toSend || t.sig == .sent

/-- The stripe at which a command stops towards a device: the lowest outstanding, or the next. -/
def fenceKey (s : State) (c : Cmd) (d : BitVec 9) : Nat :=
  ((unitsOf s c.id).filter fun u => u.owed.contains d).foldl (fun m u => min m u.txn.stripe.toNat) c.next

/-- A charged unit ends towards a device that has neither answered it nor lost it: it counts in flight there on (R173, R250). -/
def unitLapses (u : Xu) (d : BitVec 9) (s : State) : State :=
  unitEnds u.id d { s with tx := { s.tx with ghosts := s.tx.ghosts ++ [{ u with owed := [d] }] } }

/-- The source synthesizes FENCED for what a command has open towards a device (R183, R235, R273). -/
def fenceCmd (id : Nat) (d : BitVec 9) (s : State) : State :=
  match cmd? s id with
  | none => s
  | some c =>
    match c.targets.find? fun t => t.dev == d with
    | some t =>
      if t.stopped || t.dropped || !(openTowards s c t) then s
      else
        let us := (unitsOf s id).filter fun u => u.charged && u.owed.contains d
        let s := refusedItem id (fenceKey s c d) stFenced d s
        let s := us.foldl (fun s u => unitLapses u d s) s
        feed id { s with tx := { s.tx with queries := s.tx.queries.filter fun q => !(q.cmd == id && q.dev == d) } }
    | none =>
      let op := pkOp c.pkt
      if !c.admitted && c.targets.isEmpty && opEngine op && op != opMput && op != opCopy && op != opXform && !(pkIndexed c.pkt) && pkDev c.pkt == d then
        finish id stFenced d 0 s
      else s

/-- A landed access has passed its window check and is not committed: it has written nothing, an atomic has no value yet, and what it has read has not
gone out (R183). -/
def uncommitted (s : State) (a : Arrival) : Bool :=
  a.cmd.isNone && match a.state with
    | .xlate | .staged | .group | .gang | .reading => true
    | .unit => txReduce a.txn || s.sig.ops.any fun o => o.use == .arrival a.id && o.old.isNone
    | .window | .writing | .reply => false

/-- An arrival gives up the Mill and the atomic unit. -/
def leaveUnits (id : Nat) (s : State) : State :=
  pumpOps (leaveMill id { s with sig := { s.sig with ops := s.sig.ops.filter fun o => o.use != .arrival id } })

/-- A fence entry has been set: commands, port accesses and responses in flight towards the device stop, its stripes and accesses that are
not committed into windows of the fenced parishes are answered FENCED, and pending signals there are cancelled (R183). -/
def fenceTakes (d : BitVec 9) (s : State) : State :=
  let hit := fun (q : BitVec 6) => fenced s q.toNat d.toNat
  let cs := s.eng.cmds.filter fun c => c.phase != .done && (match c.parish with
    | some q => hit q
    | none => false)
  let t := cs.foldl (fun s c => fenceCmd c.id d s) s
  let us := t.tx.units.filter fun u => u.owed.contains d && u.parish.any hit
  let t := us.foldl (fun s u => match u.use with
    | .dap n => dapEnd n false true [] s
    | .answer _ => if u.charged then unitLapses u d s else { s with tx := { s.tx with units := s.tx.units.filter fun v => v.id != u.id } }
    | .cmd _ => s) t
  let as_ := t.brn.arrivals.filter fun a => a.txn.src == d && hit a.parish && uncommitted t a
  let t := retryArrivals (wakeCombines (as_.foldl (fun s a => refuseArrival a stFenced (leaveUnits a.id s)) t))
  let mine := fun (e : SigEnt) => e.src == d && hit e.parish
  let t := cancelSignals (fun e => mine e && e.sig.isSome) stFenced t
  { t with sig := { t.sig with ents := t.sig.ents.map fun e => if mine e then cancelPending e (waitEnd t) else e } }

/-- Set fence bits; `byReeve` when Reeve sets them (R181, R339). -/
def setFence (d : BitVec 9) (device : Bool) (mask : BitVec 64) (byReeve : Bool) (s : State) : State :=
  let s := modFence d.toNat (fun f => { f with
    device := f.device || device, parishes := f.parishes ||| mask
    reeveDevice := f.reeveDevice || (byReeve && device), reeveParishes := if byReeve then f.reeveParishes ||| mask else f.reeveParishes }) s
  if d = ownId s then s else fenceTakes d s

/-- Clear fence bits: Steward cannot clear those that Reeve has set (R181). -/
def clearFence (d : BitVec 9) (device : Bool) (mask : BitVec 64) (byReeve : Bool) (s : State) : State :=
  modFence d.toNat (fun f =>
    if byReeve then { f with device := f.device && !device, parishes := f.parishes &&& ~~~mask,
                             reeveDevice := f.reeveDevice && !device, reeveParishes := f.reeveParishes &&& ~~~mask }
    else { f with device := f.device && (!device || f.reeveDevice), parishes := f.parishes &&& ~~~(mask &&& ~~~f.reeveParishes) }) s

/-- FENCE by its packet. -/
def runFence (set : Bool) (pkt : List Word) (id : Nat) (s : State) : State :=
  let d := (pw pkt 1).extractLsb' 0 9
  let dev := bitAt (pw pkt 0) 16
  done id stOk 0 (if set then setFence d dev (pw pkt 2) false s else clearFence d dev (pw pkt 2) false s)

/-- A command of Reeve's own: while the block works. -/
def byReeve (f : State → State) (s : State) : State := if running s then f s else s

/-- Reeve sets or clears fence bits on its own authority, with a note (R339, R341). -/
def reeveFence (set : Bool) (d : BitVec 9) (device : Bool) (mask : BitVec 64) (s : State) : State :=
  note 0x06 0 0 0 d 0 ((if set then 1 else 0) + (if device then 2 else 0)) mask.toNat
    (if set then setFence d device mask true s else clearFence d device mask true s)

/-- FENCE (R181). -/
def execFence (src : CmdSrc) (s : State) : Host.Outcome State Fault Refusal :=
  .next (match src with
    | .ring ch pkt => asOp 0x88 pkt (startOther ch pkt (runFence true pkt)) s
    | .reeve w m => byReeve (reeveFence true (w.extractLsb' 0 9) (bitAt w 9) m) s)

/-- UNFENCE (R181). -/
def execUnfence (src : CmdSrc) (s : State) : Host.Outcome State Fault Refusal :=
  .next (match src with
    | .ring ch pkt => asOp 0x89 pkt (startOther ch pkt (runFence false pkt)) s
    | .reeve w m => byReeve (reeveFence false (w.extractLsb' 0 9) (bitAt w 9) m) s)

end Sys2Proof.Machine
end

