-- ==== Sys2Proof/Machine/Observe.lean ====
section
/-! DEFINITION. Watchpoints, trace, telemetry snapshots and the check for hangs as commands and events (R415-R428, R435). -/

namespace Sys2Proof.Machine

/-! ## WATCH_SET (R427) -/

/-- The parish a WATCH_SET names: the channel's own, or PARISH in the operator form. -/
def watchParish (c : Cmd) : BitVec 6 := if pkOp c.pkt = 0x93 then (pw c.pkt 4).extractLsb' 16 6 else c.q

/-- WATCH_SET's own checks; with CLEAR the range and zero masks are not asked about (R427, log entry 164). -/
def watchOk (s : State) (q : BitVec 6) (clear : Bool) (pkt : List Word) : Bool :=
  let w4 := pw pkt 4
  let window := bitAt w4 63
  let start := bits (pw pkt 2) 0 57
  let len := bits (pw pkt 3) 0 57
  let h := bits w4 32 20
  let classes := bits w4 8 4
  let actions := bits w4 0 3
  (clear || (decide (1 ≤ len) && decide (start + len ≤ if window then 2 ^ 48 else 2 ^ 57) && classes != 0 && actions != 0))
  && (if window then (win s h).state == .opened && (win s h).parish == q else h == 0 && decide (classes < 4))
  && (actions < 4 || memb s.obs.watchCurfew q.toNat)

/-- The watchpoint a packet describes. -/
def watchOf (q : BitVec 6) (pkt : List Word) : Watch :=
  let w4 := pw pkt 4
  { owner := some q, window := bitAt w4 63, start := (pw pkt 2).extractLsb' 0 57, length := (pw pkt 3).extractLsb' 0 57,
    handle := w4.extractLsb' 32 20, classes := w4.extractLsb' 8 4, actions := w4.extractLsb' 0 3 }

/-- A watchpoint number belongs to another parish, or the operator form names one that is not active. -/
def watchTaken (s : State) (q : BitVec 6) (pkt : List Word) (n : Nat) : Bool :=
  (pkOp pkt == 0x93 && (parish s q.toNat).state != .active) || (match (Tab.get {} s.obs.watches n).owner with
    | some p => p != q
    | none => false)

/-- WATCH_SET without CLEAR; `clear` frees the number instead. RESULT is the count replaced (R427). -/
def runWatchSet (clear : Bool) (pkt : List Word) (id : Nat) (s : State) : State :=
  match cmd? s id with
  | none => s
  | some c =>
    let q := watchParish c
    let n := bits (pw pkt 1) 0 6
    let old := (Tab.get {} s.obs.watches n).count
    if watchTaken s q pkt n || !(watchOk s q clear pkt) then done id stBadCommand 0 s
    else if bitAt (pw pkt 4) 1 && !s.part.t then done id stUnitAbsent 0 s
    else done id stOk old { s with obs := { s.obs with watches := Tab.put {} s.obs.watches n (if clear then {} else watchOf q pkt) } }

/-- A row for both opcodes of WATCH_SET. -/
def asWatch (pkt : List Word) (clear : Bool) (f : State → State) (s : State) : State :=
  if (pkOp pkt = 0x48 ∨ pkOp pkt = 0x93) ∧ bitAt (pw pkt 0) 16 = clear then f s else s

/-- WATCH_SET. -/
def execWatchSet (ch : BitVec 21) (pkt : List Word) (s : State) : Host.Outcome State Fault Refusal :=
  .next (asWatch pkt false (startOther ch pkt (runWatchSet false pkt)) s)

/-- WATCH_SET with CLEAR. -/
def execWatchSetClear (ch : BitVec 21) (pkt : List Word) (s : State) : Host.Outcome State Fault Refusal :=
  .next (asWatch pkt true (startOther ch pkt (runWatchSet true pkt)) s)

/-! ## TRACE_CTL and samples (R424-R426) -/

/-- The channels a TRACE_CTL selects. -/
def traceChans (pkt : List Word) : List (BitVec 21) :=
  (List.range (bits (pw pkt 3) 0 7)).map fun i => BitVec.ofNat 21 (bits (pw pkt 2) 0 21 + i)

/-- TRACE_CTL: its values, then the descriptors of the channels it selects are read for their PARISH (R65, R424). -/
def runTraceCtl (pkt : List Word) (id : Nat) (s : State) : State :=
  let p := bits (pw pkt 1) 0 5
  let n := bits (pw pkt 3) 0 7
  if p < 10 ∨ 24 < p ∨ n = 0 ∨ 64 < n ∨ chnCount s < bits (pw pkt 2) 0 21 + n ∨ !(chnEn s) then done id stBadCommand 0 s
  else issueRead (.mgmt id) ((traceChans pkt).map fun ch => (descAddr s ch, 8)) 3 none none (mgmtWait id s)

/-- The PARISH of a channel as a descriptor's word 0 gives it, or as the controller holds it. -/
def channelOf (s : State) (ch : BitVec 21) (w0 : Word) : Option (BitVec 6) :=
  match chan? s ch with
  | some c => if ch = 0 then none else some c.parish
  | none => if bitAt w0 0 && ch != 0 then some (w0.extractLsb' 4 6) else none

/-- The descriptors are back: the setting is replaced when every channel is the parish's own (R424). -/
def traceCtlBack (id : Nat) (c : Cmd) (bs : List Byte) (s : State) : State :=
  let chs := traceChans c.pkt
  let ws := bytesWords chs.length bs
  if (chs.zip ws).all fun x => channelOf s x.1 x.2 == some c.q then
    done id stOk 0 (modParish c.q.toNat (fun p => { p with
      traceOn := bitAt (pw c.pkt 0) 16, tracePeriod := (pw c.pkt 1).extractLsb' 0 5, traceFirst := (pw c.pkt 2).extractLsb' 0 21,
      traceCount := (pw c.pkt 3).extractLsb' 0 7, traceLast := [] }) s)
  else done id stBadCommand 0 s

/-- TRACE_CTL. -/
def execTraceCtl (ch : BitVec 21) (pkt : List Word) (s : State) : Host.Outcome State Fault Refusal :=
  .next (asOp 0x49 pkt (startOther ch pkt (runTraceCtl pkt)) s)

/-- A channel as a sample shows it: as it is held, else as its descriptor stands in memory. -/
def sampled (s : State) (ch : BitVec 21) : Chan :=
  match chan? s ch with
  | some c => c
  | none =>
    let ws := bytesWords 16 (gather s.mem s.memp.writes [(descAddr s ch, 128)])
    { descChan ws with state := if descValid ws then .parked else .disabled }

/-- LAYER and OPERATOR of the packet at HEAD, zero while it is not fetched. -/
def headLayer (s : State) (c : Chan) : Nat :=
  if dist32 c.fetched c.head = 0 then 0
  else bits (BitVec.ofNat 64 (ofLE (gather s.mem s.memp.writes [(c.ringBase.toNat + 64 * (c.head.toNat % 2 ^ c.ringLog2.toNat), 8)]))) 32 32

/-- The SAMPLE entry of a channel (R425), and the words by which a change shows. -/
def sampleWords (s : State) (ch : BitVec 21) (c : Chan) : List Word :=
  [place (chCode c.state) 57 3 ||| place c.blockCause.toNat 55 2 ||| place ch.toNat 32 21 ||| place c.head.toNat 0 32,
   place (headLayer s c) 32 32 ||| place c.tail.toNat 0 32, place ((cmdsOf s ch).filter fun x => x.phase != .done).length 0 32, now s]

/-- One channel is sampled: IDLE, PARKED and DISABLED ones only when they have changed (R424). A sample beyond what the trace unit may write is
dropped and counted (R426); one that is not written leaves the channel's last entry as it was. -/
def sampleOne (q : BitVec 6) (ch : BitVec 21) (s : State) : State :=
  let c := sampled s ch
  let ws := sampleWords s ch c
  let key := (ws.getD 0 0, place c.tail.toNat 0 32)
  let p := parish s q.toNat
  let quiet := c.state == .idle || c.state == .parked || c.state == .disabled
  if !(ringEn (.trace q) s) || quiet && (p.traceLast.find? fun x => x.1 == ch.toNat) == some (ch.toNat, key) then s
  else if Config.traceOver s.free then modParish q.toNat (fun p => { p with traceLost := p.traceLost + 1 }) s.drawn
  else
    let t := tracePut q ws s.drawn
    if (parish t q.toNat).traceLost = 0 then modParish q.toNat (fun p => { p with traceLast := (p.traceLast.filter fun x => x.1 != ch.toNat) ++ [(ch.toNat, key)] }) t
    else t

/-- TRACE_SAMPLE (R424). -/
def execTraceSample (q : BitVec 6) (s : State) : Host.Outcome State Fault Refusal :=
  .next (
    let p := parish s q.toNat
    if running s && s.part.t && p.traceOn then
      (List.range p.traceCount.toNat).foldl (fun s i => sampleOne q (p.traceFirst + BitVec.ofNat 21 i) s) s
    else s)

/-! ## Telemetry (R419, R422) -/

/-- Counters whose values the model leaves open: cycles and busy times of ports, engines and domains, which are timing, and the three
of each link whose kind R417 does not define for their direction. -/
def openCounter (i : Nat) : Bool :=
  (decide (i < 0x3C0) && (i % 10 == 4 || i % 10 == 7 || i % 10 == 8)) || (decide (0x4E0 ≤ i) && decide (i < 0x520)) || (decide (0x800 ≤ i) && decide (i < 0xB00) && decide (i % 16 < 11)) || (decide (0xB40 ≤ i) && decide (i < 0xB68))

/-- The value a snapshot writes for counter `i`; `k` numbers the free values. -/
def snapCounter (s : State) (k i : Nat) : Word := if openCounter i then Config.freeWord (k + i) else Tab.get 0 s.obs.cnt i

/-- The cells of a snapshot entry (R422). -/
def snapCells (s : State) : List (Nat × Byte) :=
  let a := s.obs.snapBase.toNat / 4096 * 4096 + ((s.obs.snapSeq - 1).toNat % 2 ^ bits s.obs.ctl 8 5) * 32768
  let seq := place s.obs.snapSeq.toNat 0 32
  cellsAt a (wordsBytes [seq ||| place (if diagMode s then 2 else 1) 32 2, now s])
  ++ cellsAt (a + 64) (wordsBytes ((List.range 0xB68).map (snapCounter s s.free)))
  ++ cellsAt (a + 32760) (wordBytes seq)

/-- TELEMETRY_SNAPSHOT (R422): comparator 5, every 1 ms. -/
def telemetry (s : State) : State :=
  if !(cmpFires s 5) then s
  else
    let s := markFired 5 (cmpNext 5 msUnits s)
    if running s && bitAt s.obs.ctl 7 then
      let t := issueWrite .background (snapCells s) 4 false none none s
      { t with free := t.free + 0xB68, obs := { t.obs with snapSeq := t.obs.snapSeq + 1 } }
    else s

/-- TELEMETRY_SNAPSHOT. -/
def execTelemetrySnapshot (s : State) : Host.Outcome State Fault Refusal := .next (telemetry s)

/-- DIAG_HOLD_EXPIRY (R419): 100 ms have passed since a link-down or a promotion. -/
def execDiagHoldExpiry (s : State) : Host.Outcome State Fault Refusal :=
  .next (match s.obs.diagUntil with
    | some t => if reached s t && !(stoppedByCurfew s) then { s with obs := { s.obs with diagUntil := none } } else s
    | none => s)

/-! ## Hangs (R435) -/

/-- The oldest command in flight or BLOCKED channel: its channel and its age in units. -/
def oldestWaiting (s : State) : Option (BitVec 21 × Nat) :=
  let cs := (s.eng.cmds.filter fun c => c.phase != .done).map fun c => (c.ch, elapsed s c.hangAt)
  let bs := (s.chn.chans.filter fun e => e.2.state == .blocked).map fun e => (BitVec.ofNat 21 e.1, elapsed s e.2.blockedAt)
  (cs ++ bs).foldl (fun o x => match o with
    | none => some x
    | some y => if y.2 < x.2 then some x else some y) none

/-- HANG_CHECK (R435): comparator 6, every 10 ms. -/
def hangCheck (s : State) : State :=
  if !(cmpFires s 6) then s
  else
    let s := markFired 6 (cmpNext 6 (10 * msUnits) s)
    match oldestWaiting s with
    | none => s
    | some (ch, age) =>
      if running s && decide (bits s.obs.ctl 48 16 * msUnits < age) then event 18 (logEntry 0x03 (place ch.toNat 0 21) (BitVec.ofNat 64 (age / usUnits)) s) else s

/-- HANG_CHECK. -/
def execHangCheck (s : State) : Host.Outcome State Fault Refusal := .next (hangCheck s)

end Sys2Proof.Machine
end

