-- ==== Sys2Proof/Machine/Hang.lean ====
section
/-! DEFINITION. Hang reports (R435, R436): what SNAPSHOT and GRAPH take from the state, and HANG_REPORT. -/

namespace Sys2Proof.Machine

/-! ## LNK_STATUS (R228) -/

/-- Sequenced flits held for replay. -/
def unacked (l : Link) : Nat := l.replay.length + l.spilled

/-- LNK_STATUS.STATE (R228). -/
def linkCode : LinkState → Nat
  | .off => 0 | .calibrating => 1 | .training => 2 | .up => 3 | .retraining => 4 | .lpi => 5 | .parked => 6

/-- LNK_STATUS (R228). -/
def lnkStatus (l : Link) : Word :=
  place l.expected.toNat 48 16 ||| place l.nextSeq.toNat 32 16 ||| place (unacked l) 17 15 ||| flag l.lock1 11 ||| flag l.lock0 10
  ||| place l.lanes.toNat 8 2 ||| place (linkCode l.state) 0 4

/-! ## SNAPSHOT (R436) -/

/-- An entry of a report: its kind and its words. -/
def reportItem (kind : Nat) (ws : List Word) : List Word := BitVec.ofNat 64 kind :: ws
def nums (ns : List Nat) : List Word := ns.map (BitVec.ofNat 64)

/-- Where a started command stands, as a report shows it. -/
def standCode : Phase → Nat
  | .tags => 0 | .translating => 1 | .parked => 2 | .active => 3 | .gang => 4 | .mgmt => 5 | .done => 6

/-- The state of a pending-signal entry, as a report shows it. -/
def sigCode : SigState → Nat
  | .pending => 0 | .handed => 1 | .done => 2 | .cancelled => 3

/-- Every cached channel: words 3 to 5 and the packet at HEAD, where it has been fetched. -/
def chanItems (s : State) : List (List Word) :=
  (s.chn.chans.filter fun e => e.2.cached).map fun e =>
    reportItem 1 (nums [e.1] ++ chanWords e.2 ++ (if dist32 e.2.fetched e.2.head = 0 then [] else headPkt s e.2))

/-- Every engine's command list. -/
def engineItems (s : State) : List (List Word) :=
  (List.range 48).map fun n => reportItem 2 (nums [n] ++ ((s.eng.cmds.filter fun c => c.engine == some n).flatMap fun c =>
    nums [c.id, c.ch.toNat, c.ringIx.toNat, c.op.toNat, standCode c.phase, c.next]))

/-- Every tally count pair, as a source and as a target. -/
def tallyItems (s : State) : List (List Word) :=
  (List.range 512).map fun d => reportItem 3 (nums [d, (srcTally s d).sent.toNat, (srcTally s d).seen.toNat, (tgtTally s d).freed.toNat, (tgtTally s d).issued.toNat])

/-- The WAIT, pending-signal and ordered-group tables. -/
def waitItems (s : State) : List (List Word) :=
  (s.chn.waits.filter fun w => w.table).map fun w => reportItem 4 ([BitVec.ofNat 64 w.ch.toNat, w.va, w.mask, w.val, BitVec.ofNat 64 w.op.toNat, w.due])
def sigItems (s : State) : List (List Word) :=
  s.sig.ents.map fun e => reportItem 5 (nums [e.src.toNat, e.tag.toNat, sigCode e.state, e.count, e.window.toNat, e.parish.toNat]
    ++ (match e.sig with
      | some (ctl, v, n) => [ctl, v, BitVec.ofNat 64 n]
      | none => []))
def groupItems (s : State) : List (List Word) :=
  s.groups.map fun g => reportItem 6 (nums [g.window.toNat, g.offset.toNat, g.stripe.toNat, g.count, g.next])

/-- The open Terrier records, and LNK_STATUS of every link. -/
def recItems (s : State) : List (List Word) :=
  s.ter.recs.map fun r => reportItem 7 (nums [r.seq.toNat, r.parish.toNat, r.kind.toNat, r.granule, r.firstVa, r.layer.toNat] ++ [r.time])
def linkItems (s : State) : List (List Word) := (List.range s.part.links).map fun p => reportItem 8 (nums [p] ++ [lnkStatus (link s p)])

/-- What SNAPSHOT copies. -/
def snapshotItems (s : State) : List (List Word) :=
  chanItems s ++ engineItems s ++ tallyItems s ++ waitItems s ++ sigItems s ++ groupItems s ++ recItems s ++ linkItems s

/-! ## GRAPH (R436) -/

/-- A node of the wait-for graph: a channel, a command in flight, a Terrier record, a window, an access that a closing window waits for (an arrival, or a
signal being applied), another device, a signal slot or transaction tags towards one, a gang of the Mill, and the software that owns a completion
ring or drives the Terrier. -/
inductive HangNode
  | channel (ch : Nat)
  | command (id : Nat)
  | record (seq : Nat)
  | window (h : Nat)
  | arrival (id : Nat)
  | signal (src tag : Nat)
  | external (d : Nat)
  | slot (d : Nat)
  | gang
  | software
  | driver
  deriving DecidableEq, Repr

/-- A node in a word of the report. -/
def HangNode.word : HangNode → Word
  | .channel n => place 1 56 8 ||| place n 0 56
  | .command n => place 2 56 8 ||| place n 0 56
  | .record n => place 3 56 8 ||| place n 0 56
  | .window n => place 4 56 8 ||| place n 0 56
  | .arrival n => place 5 56 8 ||| place n 0 56
  | .signal d n => place 6 56 8 ||| place d 32 9 ||| place n 0 16
  | .external n => place 7 56 8 ||| place n 0 56
  | .slot n => place 8 56 8 ||| place n 0 56
  | .gang => place 9 56 8
  | .software => place 10 56 8
  | .driver => place 11 56 8

/-- The signals whose word a WAIT reads: pending-signal entries of the same parish at that address (R44, R131). -/
def signalsAt (s : State) (q : BitVec 6) (va : Nat) : List SigEnt :=
  s.sig.ents.filter fun e => e.parish == q && (e.state == .pending || e.state == .handed) && e.sig.any fun x => (win s e.window.toNat).vaBase.toNat + sigOffset x.1 == va

/-- What a WAIT waits for: local producers, the commands of this device whose signal is on its way there, and the other sources of such signals. -/
def producers (s : State) (c : Chan) (w : Waiter) : List HangNode :=
  (signalsAt s c.parish (w.va.toNat % 2 ^ 57)).flatMap fun e =>
    if e.src == ownId s then (s.eng.cmds.filter fun x => x.phase != .done && x.targets.any fun t => t.dev == e.src && t.tag == e.tag).map fun x => .command x.id
    else [.external e.src.toNat]

/-- What a BLOCKED channel waits for, by its BLOCK_CAUSE (R73). -/
def chanWaits (s : State) (ch : Nat) (c : Chan) : List HangNode :=
  if c.blockCause = 1 then ((cmdsOf s (BitVec.ofNat 21 ch)).filter fun x => x.phase != .done).map fun x => .command x.id
  else if c.blockCause = 2 then (s.chn.waits.filter fun w => w.ch.toNat == ch).flatMap (producers s c)
  else if c.blockCause = 3 then [.software]
  else []

/-- What a unit of a command waits for (R235, R45): a slot, or credit, while it is not charged; then its targets' answers. -/
def unitWaits (s : State) (u : Xu) : List HangNode :=
  if u.charged then u.owed.map fun d => .external d.toNat
  else u.dests.map fun d => if sigRoom s u d.toNat then .external d.toNat else .slot d.toNat

/-- What a command in flight waits for: where it is stalled, as R420 names the reasons, and whose answers it awaits. -/
def cmdWaits (s : State) (c : Cmd) : List HangNode :=
  (if c.phase == .tags then c.needTags.map fun d => .slot d.toNat else [])
  ++ c.recs.map (fun r => .record r.toNat)
  ++ (if c.phase == .gang || s.mil.waiting.any (fun x => x.work == .job c.id || x.work == .egress c.id) then [.gang] else [])
  ++ (unitsOf s c.id).flatMap (unitWaits s)
  ++ (s.tx.queries.filter fun x => x.cmd == c.id).map (fun x => .external x.dev.toNat)

/-- The accesses that a closing window waits for (R142). -/
def windowWaits (s : State) (h : Nat) : List HangNode :=
  let hw := BitVec.ofNat 20 h
  (s.brn.arrivals.filter fun a => a.cmd.isNone && a.state != .window && txWindow a.txn == hw).map (fun a => .arrival a.id)
  ++ (s.sig.ents.filter fun e => e.state == .handed && e.window == hw).map (fun e => .signal e.src.toNat e.tag.toNat)

/-- The wait-for graph: each node of R436's table with what it waits for. -/
def waitGraph (s : State) : List (HangNode × List HangNode) :=
  (s.chn.chans.filter fun e => e.2.state == .blocked).map (fun e => (.channel e.1, chanWaits s e.1 e.2))
  ++ (s.eng.cmds.filter fun c => c.phase != .done).map (fun c => (.command c.id, cmdWaits s c))
  ++ s.ter.recs.map (fun r => (.record r.seq.toNat, [.driver]))
  ++ (s.wins.entries.filter fun e => e.2.state == .closing).map (fun e => (.window e.1, windowWaits s e.1))

/-- The nodes reached from some in at most `n` further edges. -/
def reachedFrom (g : List (HangNode × List HangNode)) : Nat → List HangNode → List HangNode
  | 0, seen => seen
  | n + 1, seen => reachedFrom g n (seen ++ ((g.filter fun e => seen.contains e.1).flatMap fun e => e.2).filter fun x => !(seen.contains x))

/-- A node stands on a cycle. Steward reads the nodes of a cycle a second time: the report is one step here, in which none has changed. DESIGN CHOICE:
log entry 105. -/
def onCycle (g : List (HangNode × List HangNode)) (e : HangNode × List HangNode) : Bool := (reachedFrom g g.length e.2).contains e.1

/-- What GRAPH writes: each node, whether it stands on a cycle, and what it waits for. -/
def graphItems (s : State) : List (List Word) :=
  let g := waitGraph s
  g.map fun e => reportItem 9 ([e.1.word, flag (onCycle g e) 0] ++ e.2.map HangNode.word)

/-! ## HANG_REPORT (R435) -/

/-- A report: its header, marked where it is cut short to the room that it has, and its entries, as Steward lays them out. A SNAPSHOT is at most 2 MiB. The
layout is not stated: log entry 105. -/
def hangBytes (snapshot : Bool) (size : Nat) (s : State) : List Byte :=
  let items := if snapshot then snapshotItems s else graphItems s
  let room := if snapshot then min size (2 ^ 21) else size
  let whole := Config.hangLayout snapshot false items
  if whole.length ≤ room then whole else (Config.hangLayout snapshot true items).take room

/-- HANG_REPORT: the report is written into the buffer as class 4; RESULT is the bytes written. -/
def runHangReport (snapshot : Bool) (pkt : List Word) (id : Nat) (s : State) : State :=
  let pa := bits (pw pkt 1) 0 52
  let size := bits (pw pkt 2) 0 32
  if pa % 4096 ≠ 0 ∨ size % 4096 ≠ 0 then done id stBadCommand 0 s
  else
    let bs := hangBytes snapshot size s
    if bs = [] then done id stOk 0 s
    else issueWrite (.mgmt id) (cellsAt pa bs) 4 false none none
      (modCmd id (fun c => { c with phase := .mgmt, status := stOk, result := BitVec.ofNat 64 bs.length, writing := c.writing + 1 }) s)

/-- HANG_REPORT waits while Curfew is not IDLE (R435). -/
def hangReport (snapshot : Bool) (ch : BitVec 21) (pkt : List Word) (s : State) : State :=
  if s.cur.state == .idle && bitAt (pw pkt 0) 16 == snapshot then startOther ch pkt (runHangReport snapshot pkt) s else s

/-- HANG_REPORT GRAPH. -/
def execHangReportGraph (ch : BitVec 21) (pkt : List Word) (s : State) : Host.Outcome State Fault Refusal :=
  .next (asOp 0x95 pkt (hangReport false ch pkt) s)

/-- HANG_REPORT SNAPSHOT. -/
def execHangReportSnapshot (ch : BitVec 21) (pkt : List Word) (s : State) : Host.Outcome State Fault Refusal :=
  .next (asOp 0x95 pkt (hangReport true ch pkt) s)

end Sys2Proof.Machine
end

