-- ==== Sys2Proof/Machine/Parishes.lean ====
section
/-! DEFINITION. Parishes: created, set, retired and scrubbed (R332-R337, R361-R364); Reeve's messages, pair keys and notes
(R339-R351). -/

namespace Sys2Proof.Machine

/-! ## PARISH_CREATE and PARISH_SET (R334-R336) -/

/-- A parish is ACTIVE and sealed (R348). -/
def sealedNow (s : State) (q : BitVec 6) : Bool := (parish s q.toNat).state == .active && (parish s q.toNat).sealed

/-- Reeve records a parish in REE_SEAL_MAP: the bit of a sealed one is set until its retirement ends (R340, R361). -/
def sealRecord (q : BitVec 6) (s : State) : State :=
  { s with ree := { s.ree with sealMap := setBit s.ree.sealMap q.toNat ((parish s q.toNat).sealed && (parish s q.toNat).state != .free) } }

/-- A new parish as PARISH_CREATE leaves it (R83, R281, R335): the registers that the operator wrote keep their values, but PAR_TER_CTL.MODE
(R475). -/
def newParish (p : Parish) (tag : BitVec 16) (sealed_ : Bool) : Parish :=
  { p with
    state := .active, tag := tag, sealed := sealed_, share := 16, maxPrio := 3, reserve := 0, maxInflight := 256, windowQuota := 16384
    terMode := 0, profiles := [], tabs := [] }

/-- What a parish keeps when it becomes FREE: the notification, Terrier and trace bases and controls (R475). -/
def freedParish (p : Parish) : Parish :=
  { notify := { base := p.notify.base, ctl := p.notify.ctl }, terMode := p.terMode, terRoot := p.terRoot
    traceBase := p.traceBase, traceCtl := p.traceCtl }

/-- The parish becomes ACTIVE: its counters start at zero, and its creation count advances (R335, R346, R415). -/
def createParish (q : BitVec 6) (tag : BitVec 16) (sealed_ : Bool) (s : State) : State :=
  sealRecord q { s with
    par := Tab.put {} s.par q.toNat (newParish (parish s q.toNat) tag sealed_)
    ree := { s.ree with created := Tab.upd 0 s.ree.created q.toNat (· + 1) }
    obs := { s.obs with everCreated := true, parCnt := s.obs.parCnt.filter fun e => e.1 / 64 != q.toNat } }

/-- PARISH_CREATE: the first matching case of R335. -/
def runParishCreate (pkt : List Word) (id : Nat) (s : State) : State :=
  let w := pw pkt 1
  let q : BitVec 6 := w.extractLsb' 0 6
  let tag : BitVec 16 := w.extractLsb' 16 16
  let st := (parish s q.toNat).state
  if st = .active then done id stBadCommand 0 s
  else if st = .retiring ∨ st = .clearing then done id stBusy 0 s
  else if tag = 0 ∨ s.par.any (fun e => e.1 != q.toNat && e.2.state != .free && e.2.tag == tag) then done id stBadCommand 0 s
  else if bitAt w 32 ∧ (!s.part.s ∨ !s.ree.sealReady) then done id stUnitAbsent 0 s
  else done id stOk 0 (createParish q tag (bitAt w 32) s)

/-- PARISH_CREATE. -/
def execParishCreate (ch : BitVec 21) (pkt : List Word) (s : State) : Host.Outcome State Fault Refusal :=
  .next (asOp 0x80 pkt (startOther ch pkt (runParishCreate pkt)) s)

/-- PARISH_SET's values are in range and keep ΣRESERVE within 1,536 (R83, R334, R336). -/
def parishSetOk (s : State) (q : Nat) (pkt : List Word) : Bool :=
  let w := pw pkt 2
  let reserve := bits w 16 11
  let flight := bits w 0 11
  (parish s q).state == .active && bits w 40 8 != 0 && decide (reserve ≤ 1536) && decide (1 ≤ flight) && decide (flight ≤ 1536)
  && decide (bits (pw pkt 3) 0 21 ≤ 1048576) && decide (reserveSum s - (parish s q).reserve.toNat + reserve ≤ 1536)

/-- PARISH_SET (R336). -/
def runParishSet (pkt : List Word) (id : Nat) (s : State) : State :=
  let q := bits (pw pkt 1) 0 6
  let w := pw pkt 2
  if parishSetOk s q pkt then
    done id stOk 0 (tidyDeficits (modParish q (fun p => { p with
      share := w.extractLsb' 40 8, maxPrio := w.extractLsb' 32 3, reserve := w.extractLsb' 16 11, maxInflight := w.extractLsb' 0 11,
      windowQuota := (pw pkt 3).extractLsb' 0 21 }) s))
  else done id stBadCommand 0 s

/-- PARISH_SET. -/
def execParishSet (ch : BitVec 21) (pkt : List Word) (s : State) : Host.Outcome State Fault Refusal :=
  .next (asOp 0x81 pkt (startOther ch pkt (runParishSet pkt)) s)

/-! ## Pair slots and KEY_PAIR jobs (R348-R351) -/

/-- Reeve frees a pair slot with a KEY_REMOVED note: reason 0 drained, 1 parish retired, 2 block scrub, 3 parish recreated (R341). -/
def freeSlot (reason n : Nat) (s : State) : State :=
  let p := slot s n
  if p.state = .free then s
  else note 0x03 0 p.gen.toNat p.parish p.peer (parish s p.parish.toNat).tag reason 0 (modSlot n (fun _ => {}) s)

/-- Free every slot that `hit` names. -/
def freeSlots (reason : Nat) (hit : PairSlot → Bool) (s : State) : State :=
  (s.ree.slots.filter fun e => hit e.2).foldl (fun s e => freeSlot reason e.1 s) s

/-- The generation a job installs (R351): 0 for NEW, the pair's latest and one for a REKEY, 0 where it has no key. -/
def jobGen (s : State) (j : KeyJob) : BitVec 8 :=
  if !j.rekey then 0
  else match (slotsOf s j.parish j.peer).find? (fun e => e.2.state == .active) with
    | some e => e.2.gen + 1
    | none => match (slotsOf s j.parish j.peer).getLast? with
      | some e => e.2.gen + 1
      | none => 0

/-- A job's pair. -/
def isJob (q : BitVec 6) (d : BitVec 9) (j : KeyJob) : Bool := j.parish == q && j.peer == d

/-- A job's session as requester (R349). -/
def jobSession (q : BitVec 6) (d : BitVec 9) (x : SpdmSession) : Bool := x.job == some q && x.peer == some d

/-- A job is over, and its session with it (R349 step 5). -/
def dropJob (q : BitVec 6) (d : BitVec 9) (s : State) : State :=
  { s with ree := { s.ree with
    jobs := s.ree.jobs.filter fun k => !(isJob q d k), sessions := s.ree.sessions.filter fun x => !(jobSession q d x) } }

/-- A job ends without a key: a KEY_PAIR_FAILED note, and a slot still in RECEIVE goes (R341, R349). -/
def jobFails (j : KeyJob) (cause detail : Nat) (s : State) : State :=
  let s := dropJob j.parish j.peer s
  let s := { s with ree := { s.ree with
    slots := s.ree.slots.filter fun e => !(e.2.state == .receive && e.2.parish == j.parish && e.2.peer == j.peer) } }
  note 0x02 cause (jobGen s j).toNat j.parish j.peer (parish s j.parish.toNat).tag detail 0 s

/-- Ten seconds, in units. -/
def keyLimit : Nat := 10000 * msUnits

/-- Install a key in state RECEIVE in the lowest free slot; a pair's older slots go when the peer's parish has been created again, when the pair starts
anew with generation 0, which is not the 0 that follows 255, and its draining one when two are in use (R341, R350, R351). None when no slot is free. -/
def installKey (q : BitVec 6) (d : BitVec 9) (gen : BitVec 8) (peerPar : BitVec 6) (created : BitVec 32) (key : BitVec 256) (s : State) : Option State :=
  let wraps := (slotsOf s q d).any fun e => e.2.state == .active && e.2.gen == 255
  let s := freeSlots 3 (fun p => p.parish == q && p.peer == d && p.created != created) s
  let s := if gen = 0 ∧ wraps = false then freeSlots 3 (fun p => p.parish == q && p.peer == d) s
    else if 2 ≤ (slotsOf s q d).length then freeSlots 0 (fun p => p.parish == q && p.peer == d && p.state != .active) s else s
  match firstBelow 4096 fun n => (slot s n).state == .free with
  | none => none
  | some n => some (modSlot n (fun _ =>
      { key := key, txCtr := 1, ansCtr := 1, rxTop := 0, rxMap := 1, peer := d, parish := q, peerParish := peerPar, gen := gen, created := created,
        state := .receive, due := later (now s) keyLimit }) s)

/-- SEAL_DONE is exchanged: the pair's new slot becomes ACTIVE and its old one DRAINING (R351). -/
def activateKey (q : BitVec 6) (d : BitVec 9) (s : State) : State :=
  if (slotsOf s q d).any fun e => e.2.state == .receive then
    let s := { s with ree := { s.ree with slots := s.ree.slots.map fun e =>
      if e.2.parish == q && e.2.peer == d then
        (if e.2.state == .receive then (e.1, { e.2 with state := .active })
         else if e.2.state == .active then (e.1, { e.2 with state := .draining, due := waitEnd s }) else e)
      else e } }
    s
  else s

/-- The KEY_PAIR_DONE note of a pair (R341): ROLE, and whether the key is a REKEY's. -/
def keyDone (q : BitVec 6) (d : BitVec 9) (responder rekey : Bool) (s : State) : State :=
  let gen := match (slotsOf s q d).find? (fun e => e.2.state == .active) with
    | some e => e.2.gen.toNat
    | none => 0
  note 0x01 0 gen q d (parish s q.toNat).tag ((if responder then 1 else 0) + (if rekey then 2 else 0)) (pairsInUse s) s

/-- The pair has a key that a new one replaces: at this end as responder, that is a REKEY (R348, R351). -/
def hasKey (s : State) (q : BitVec 6) (d : BitVec 9) : Bool := (slotsOf s q d).any fun e => e.2.state == .active

/-- Reeve accepts a job (R348, R349). -/
def addJob (q : BitVec 6) (d : BitVec 9) (rekey : Bool) (s : State) : State :=
  { s with ree := { s.ree with jobs := s.ree.jobs ++ [{ parish := q, peer := d, rekey := rekey, start := now s }] } }

/-- KEY_PAIR (R348). -/
def runKeyPair (rekey : Bool) (pkt : List Word) (id : Nat) (s : State) : State :=
  let d : BitVec 9 := (pw pkt 1).extractLsb' 0 9
  let q : BitVec 6 := (pw pkt 1).extractLsb' 16 6
  if !(sealedNow s q) ∨ !(reValid (routeEntry s d)) then done id stBadCommand 0 s
  else if s.ree.jobs.any (isJob q d) then done id stBusy 0 s
  else done id stOk 0 (addJob q d rekey s)

/-- KEY_PAIR NEW. -/
def execKeyPair (ch : BitVec 21) (pkt : List Word) (s : State) : Host.Outcome State Fault Refusal :=
  .next (asOp 0x8B pkt (fun s => if bitAt (pw pkt 0) 16 then s else startOther ch pkt (runKeyPair false pkt) s) s)

/-- KEY_PAIR REKEY. -/
def execKeyPairRekey (ch : BitVec 21) (pkt : List Word) (s : State) : Host.Outcome State Fault Refusal :=
  .next (asOp 0x8B pkt (fun s => if bitAt (pw pkt 0) 16 then startOther ch pkt (runKeyPair true pkt) s else s) s)

/-- KEY_PAIR_TIMEOUT (R349): a job that has not reached step 4 within 10 s fails; a key installed for a peer whose SEAL_DONE has not come
by then goes too. -/
def keyTimeout (q : BitVec 6) (d : BitVec 9) (s : State) : State :=
  let s := match s.ree.jobs.find? (isJob q d) with
    | none => s
    | some j => if j.step < 4 && reached s (later j.start keyLimit) then jobFails j 1 0 s else s
  let late := fun (p : PairSlot) => p.state == .receive && p.parish == q && p.peer == d && reached s p.due
    && !(s.ree.jobs.any (isJob q d))
  { s with ree := { s.ree with slots := s.ree.slots.filter fun e => !(late e.2) } }

/-- KEY_PAIR_TIMEOUT. -/
def execKeyPairTimeout (q : BitVec 6) (peer : BitVec 9) (s : State) : Host.Outcome State Fault Refusal := .next (if stoppedByCurfew s then s else keyTimeout q peer s)

/-- Nothing that a slot sealed is in flight. -/
def slotQuiet (s : State) (p : PairSlot) : Bool :=
  !((s.tx.units ++ s.tx.ghosts).any fun u => u.charged && u.owed.contains p.peer && u.parish == some p.parish && u.txn.sealSlot.any fun g => g.gen == p.gen)
  && !(s.tx.queries.any fun x => x.dev == p.peer && x.auth.any fun g => g.gen == p.gen)

/-- PAIR_SLOT_DRAIN_END (R351). -/
def execPairSlotDrainEnd (n : BitVec 12) (s : State) : Host.Outcome State Fault Refusal :=
  .next (let p := slot s n.toNat
    if p.state = .draining ∧ slotQuiet s p ∧ reached s p.due ∧ stoppedByCurfew s = false then freeSlot 0 n.toNat s else s)

/-! ## REEVE_MSG (R345-R349) -/

/-- The buffer of a REEVE_MSG and the length of its message. -/
def msgAddr (pkt : List Word) : Nat := bits (pw pkt 1) 0 52
def msgLen (pkt : List Word) : Nat := bits (pw pkt 2) 0 16

/-- The parish that a tag names, when it is ACTIVE and sealed. -/
def sealedTag (s : State) (tag : BitVec 16) : Option (BitVec 6) :=
  (s.par.find? fun e => e.2.state == .active && e.2.sealed && e.2.tag == tag).map fun e => BitVec.ofNat 6 e.1

/-- Bytes as a memory of Reeve's or Steward's holds them, by offset. -/
def asMemory (bs : List Byte) : Memory := Memory.writeAll [] (bs.zipIdx.map fun b => (b.2, b.1))

/-- The first `n` bytes of a memory from an offset. -/
def bytesAt (m : Memory) (o n : Nat) : List Byte := (List.range n).map fun i => Memory.read m (o + i)

/-- The header of Steward's image (R343). -/
structure FwHeader where
  magic     : Nat
  svn       : BitVec 16
  flags     : BitVec 8
  codeBytes : Nat
  dataBytes : Nat
  entry     : Word
  zeros     : Bool
  deriving DecidableEq, Repr

/-- The header of the image that Reeve has copied (R343). -/
def fwHeader (s : State) : FwHeader :=
  let at_ := fun (o n : Nat) => ofLE (bytesAt s.ree.fwHead o n)
  { magic := at_ 0 4, svn := BitVec.ofNat 16 (at_ 4 2), flags := BitVec.ofNat 8 (at_ 6 1), codeBytes := at_ 8 4, dataBytes := at_ 12 4, entry := BitVec.ofNat 64 (at_ 16 8)
    zeros := at_ 7 1 == 0 && (s.ree.fwHead.all fun c => decide (c.1 < 24) || decide (4000 ≤ c.1)) }

/-! ### Measurements (R346) -/

/-- The bytes of a digest, first byte first. -/
def digest (bs : List Byte) : List Byte := (leBytes 48 (Config.sha384 bs).toNat).reverse

/-- Reeve's policy as measurement block 5 covers it: power floors, orphan cap, the fault collector's configuration (R391, R413). -/
def policyBytes (r : Ree) : List Byte :=
  wordsBytes [r.pwrFloor, r.orphan, r.fltCtl, r.fltCount, r.fltImm, r.fltFatal]
  ++ r.srcProfile.flatMap (fun e => leBytes 2 e.1 ++ leBytes 1 ((e.2.getD 0).toNat + (if e.2.isSome then 16 else 0)))
  ++ r.profiles.flatMap (fun e => leBytes 2 e.1 ++ leBytes 1 (if e.2.isSome then 1 else 0) ++ leBytes 8 (e.2.getD 0).toNat)

/-- A parish's line of measurement block 16: STATE, TAG, SEALED, creation count. -/
def parishLine (s : State) (q : Nat) : List Byte :=
  leBytes 1 (parCode (parish s q).state) ++ leBytes 2 (parish s q).tag.toNat ++ leBytes 1 (if (parish s q).sealed then 1 else 0)
  ++ leBytes 4 (Tab.get 0 s.ree.created q).toNat

/-- Measurement block `i` of the state as it is (R346); empty where there is none. How the raw fields follow each other the rule does not say. DESIGN
CHOICE: log entry 185. -/
def measurement (s : State) (i : Nat) : List Byte :=
  if i = 1 then (leBytes 48 Config.romDigest.toNat).reverse
  else if i = 2 then digest (bytesAt s.ree.fwHead 0 4096 ++ bytesAt s.stw.code 0 (fwHeader s).codeBytes ++ bytesAt s.stw.data 0 (fwHeader s).dataBytes)
  else if i = 3 then leBytes 2 s.ree.fwSvn.toNat ++ leBytes 2 s.ree.otpSvn.toNat
  else if i = 4 then partName s.part ++ wordsBytes [unitDir s.part]
  else if i = 5 then digest (policyBytes s.ree)
  else if i = 16 then (List.range 64).flatMap (parishLine s)
  else []

/-- What GET_MEASUREMENTS brings: one block, every block for index 255, their number for 0. -/
def measurements (s : State) (i : BitVec 8) : SpdmReply :=
  let all : List Nat := [1, 2, 3, 4, 5, 16]
  if i = 0 then .message [BitVec.ofNat 8 all.length]
  else if i = 255 then .message (all.flatMap (measurement s))
  else if all.contains i.toNat then .message (measurement s i.toNat) else .error

/-! ### Reeve as responder (R345, R349) -/

/-- KEY_EXCHANGE opens a session while fewer than 8 are open (R345). -/
def openSession (peer : Option (BitVec 9)) (job : Option (BitVec 6)) (s : State) : State :=
  { s with ree := { s.ree with
    sessions := s.ree.sessions ++ [{ id := Config.sessionId s.ree.sessionSeq, secret := Config.exportSecret s.ree.sessionSeq, peer := peer, job := job }]
    sessionSeq := s.ree.sessionSeq + 1 } }
def sessionRoom (s : State) : Bool := decide (s.ree.sessions.length < 8)

/-- SEAL_OFFER of peer `d` (R349 step 3): for an ACTIVE sealed parish with the tag the key is derived and installed, and SEAL_ACCEPT carries that
parish and its creation count. -/
def sealOffered (x : SpdmSession) (d : BitVec 9) (tag : BitVec 16) (gen : BitVec 8) (par : BitVec 6) (created : BitVec 32) (s : State) : State × SpdmReply :=
  match sealedTag s tag with
  | none => (s, .error)
  | some q => match installKey q d gen par created (Config.pairKey x.secret d (ownId s) tag gen) s with
    | none => (s, .error)
    | some t => (t, .message (leBytes 1 q.toNat ++ leBytes 4 (Tab.get 0 s.ree.created q.toNat).toNat))

/-- SEAL_DONE of peer `d` (R349 step 4): the new slot seals from now on, and Reeve writes its note. -/
def sealFinished (d : BitVec 9) (tag : BitVec 16) (s : State) : State × SpdmReply :=
  match sealedTag s tag with
  | none => (s, .error)
  | some q =>
    if (slotsOf s q d).any fun e => e.2.state == .receive then (keyDone q d true (hasKey s q d) (activateKey q d s), .message []) else (s, .error)

/-- A request that comes inside a session, or none, as Reeve answers it (R345, R349): key setup needs a session that has authenticated the peer. -/
def answerMsg (ses : Option SpdmSession) (v : BitVec 8) (m : SpdmMsg) (s : State) : State × SpdmReply :=
  match m, ses with
  | .getVersion, none => ({ s with ree := { s.ree with version := 0 } }, .message [0x12, 0x13])
  | .getCapabilities, none => ({ s with ree := { s.ree with version := v } }, .message [])
  | .negotiateAlgorithms, none => (s, .message [])
  | .getDigests, _ => (s, .message (digest s.otp.certificate))
  | .getCertificate slot, _ => (s, if slot = 0 then .message s.otp.certificate else .error)
  | .challenge slot, none => (s, if slot = 0 then .message (digest s.otp.certificate) else .error)
  | .getMeasurements i, _ => (s, measurements s i)
  | .keyExchange, none => if sessionRoom s then (openSession none none s, .message []) else (s, .error)
  | .finish d, some x =>
    ({ s with ree := { s.ree with sessions := modFirst (fun y => y.id == x.id) (fun y => { y with peer := d, ready := true }) s.ree.sessions } }, .message [])
  | .keyUpdate, some _ | .heartbeat, some _ => (s, .message [])
  | .endSession, some x => ({ s with ree := { s.ree with sessions := s.ree.sessions.filter fun y => y.id != x.id } }, .message [])
  | .sealOffer tag gen par created, some x => match x.peer with
    | some d => if x.ready then sealOffered x d tag gen par created s else (s, .error)
    | none => (s, .error)
  | .sealDone tag, some x => match x.peer with
    | some d => if x.ready then sealFinished d tag s else (s, .error)
    | none => (s, .error)
  | _, _ => (s, .error)

/-- What a message relayed to Reeve as responder does and how Reeve answers: versions 1.2 and 1.3 alone, the agreed one once there is one, and a
secured message only in a session that is open (R345). The rest of SPDM is DMTF's. PRESUMED: log entry 19. -/
def asResponder (bs : List Byte) (s : State) : State × SpdmReply :=
  let v := Config.spdmVersion bs
  let open_ := s.ree.sessions.filter fun x => x.job.isNone
  let ses := (Config.spdmSession bs).bind fun n => open_.find? fun x => x.id == n
  let m := Config.spdmMsg (ses.map fun x => x.secret) bs
  if (Config.spdmSession bs).isSome && ses.isNone then (s, .error)
  else if m != .getVersion && !((v == 0x12 || v == 0x13) && (m == .getCapabilities || v == s.ree.version)) then (s, .error)
  else answerMsg ses v m s

/-- The bytes of a message of Reeve's, 1 to 16,384 of them (R345). -/
def reeveBytes (asked : List Byte) (r : SpdmReply) (s : State) : List Byte :=
  (List.range ((Config.freeWord s.free).toNat % 16384 + 1)).map (Config.spdmByte asked r s.free)

/-- Write a message of Reeve's that begins with given bytes into the buffer; RESULT is its length (R347). -/
def reeveWrites (pkt : List Word) (id : Nat) (first asked : List Byte) (r : SpdmReply) (s : State) : State :=
  let bs := (first ++ reeveBytes asked r s).take 16384
  doneAfter id stOk (BitVec.ofNat 64 bs.length) (cellsAt (msgAddr pkt) bs) { s with free := s.free + 1 }

/-- REEVE_MSG with a message to read; one that is longer than its buffer is refused. -/
def runReeveRead (pkt : List Word) (id : Nat) (s : State) : State :=
  if 16384 < msgLen pkt then done id stBadCommand 0 s
  else issueRead (.mgmt id) [(msgAddr pkt, msgLen pkt)] 3 none none (mgmtWait id s)

/-- REEVE_MSG REQUEST: the message is read. -/
def execReeveMsgRequest (ch : BitVec 21) (pkt : List Word) (s : State) : Host.Outcome State Fault Refusal :=
  .next (asOp 0x8C pkt (fun s => if pkSubop pkt % 4 = 0 then startOther ch pkt (runReeveRead pkt) s else s) s)

/-- A job's fields change. -/
def modJob (j : KeyJob) (f : KeyJob → KeyJob) (s : State) : State := { s with ree := { s.ree with jobs := modFirst (isJob j.parish j.peer) f s.ree.jobs } }

/-- What the next message of a job says (R349): step 2 sends SEAL_OFFER with T, G, the local parish and its creation count; step 4 SEAL_DONE with T. -/
def jobMessage (j : KeyJob) (s : State) : SpdmReply :=
  let tag := leBytes 2 (parish s j.parish.toNat).tag.toNat
  if j.step = 2 then .message (tag ++ leBytes 1 (jobGen s j).toNat ++ leBytes 1 j.parish.toNat ++ leBytes 4 (Tab.get 0 s.ree.created j.parish.toNat).toNat)
  else if j.step = 4 then .message tag
  else .message []

/-- A job's message has been pulled: SEAL_DONE makes the new slot ACTIVE, and the job ends with its note and its session (R349 steps 4 and 5). That the
session ends there is a DESIGN CHOICE: log entry 187. -/
def jobPulled (j : KeyJob) (s : State) : State :=
  if j.step = 4 then keyDone j.parish j.peer false j.rekey (activateKey j.parish j.peer (dropJob j.parish j.peer s))
  else modJob j (fun k => { k with ready := false, step := if k.step = 2 then 3 else k.step }) s

/-- REEVE_MSG PULL: the next message of Reeve's as requester, its destination in bytes 0 and 1 (R347). -/
def runReevePull (pkt : List Word) (id : Nat) (s : State) : State :=
  match s.ree.jobs.find? fun j => j.ready with
  | none => done id stOk 0 s
  | some j => reeveWrites pkt id (leBytes 2 j.peer.toNat) [] (jobMessage j s) (jobPulled j s)

/-- REEVE_MSG PULL. -/
def execReeveMsgPull (ch : BitVec 21) (pkt : List Word) (s : State) : Host.Outcome State Fault Refusal :=
  .next (asOp 0x8C pkt (fun s => if pkSubop pkt % 4 = 1 then startOther ch pkt (runReevePull pkt) s else s) s)

/-- REEVE_MSG PUSH: the message is read. -/
def execReeveMsgPush (ch : BitVec 21) (pkt : List Word) (s : State) : Host.Outcome State Fault Refusal :=
  .next (asOp 0x8C pkt (fun s => if pkSubop pkt % 4 = 2 then startOther ch pkt (runReeveRead pkt) s else s) s)

/-- SEAL_ACCEPT ends step 3 of R349: the key of the job's session is installed. -/
def sealAccepted (j : KeyJob) (secret : BitVec 384) (par : BitVec 6) (created : BitVec 32) (s : State) : State :=
  let gen := jobGen s j
  match installKey j.parish j.peer gen par created (Config.pairKey secret (ownId s) j.peer (parish s j.parish.toNat).tag gen) s with
  | none => jobFails j 2 0 s
  | some s => modJob j (fun k => { k with step := 4, ready := true }) s

/-- What a peer's response does to its job (R349): in step 1 the session opens, while fewer than 8 are open, and the peer's parish table must have the
tag; in step 3 SEAL_ACCEPT comes. An error, or a response out of its step, fails the job (R341). -/
def jobHears (j : KeyJob) (bs : List Byte) (s : State) : State :=
  let ses := s.ree.sessions.find? (jobSession j.parish j.peer)
  match Config.peerMsg (ses.map fun x => x.secret) bs, ses with
  | .goesOn, _ => if j.step = 1 then modJob j (fun k => { k with ready := true }) s else s
  | .opens, none => if j.step = 1 then modJob j (fun k => { k with ready := true }) (if sessionRoom s then openSession (some j.peer) (some j.parish) s else s) else s
  | .measured tags, some _ =>
    if j.step ≠ 1 then s
    else if tags.contains (parish s j.parish.toNat).tag then modJob j (fun k => { k with step := 2, ready := true }) s else jobFails j 3 0 s
  | .accept par created, some x => if j.step = 3 then sealAccepted j x.secret par created s else jobFails j 4 0 s
  | .fails code, _ => jobFails j 4 code.toNat s
  | _, _ => jobFails j 4 0 s

/-- A peer's response goes to the job that waits for it. -/
def asRequester (bs : List Byte) (s : State) : State :=
  match s.ree.jobs.find? fun j => j.peer == Config.spdmPeer bs && !j.ready with
  | none => s
  | some j => jobHears j bs s

/-- A REEVE_MSG's message has been read: a request is answered in the buffer, a peer's response has RESULT 0 (R347). -/
def reeveMsgBack (id : Nat) (c : Cmd) (bs : List Byte) (s : State) : State :=
  if pkSubop c.pkt = 0 then
    let r := asResponder bs s
    reeveWrites c.pkt id [] bs r.2 r.1
  else done id stOk 0 (asRequester bs s)

/-- REEVE_MSG NOTES: the pending notes, oldest first. -/
def runReeveNotes (pkt : List Word) (id : Nat) (s : State) : State :=
  let bs := s.ree.notes.flatMap fun n => wordsBytes [n.w0, n.w1, n.w2, n.w3]
  doneAfter id stOk (BitVec.ofNat 64 bs.length) (cellsAt (msgAddr pkt) bs) { s with ree := { s.ree with notes := [], noteLost := false } }

/-- REEVE_MSG NOTES. -/
def execReeveMsgNotes (ch : BitVec 21) (pkt : List Word) (s : State) : Host.Outcome State Fault Refusal :=
  .next (asOp 0x8C pkt (fun s => if pkSubop pkt % 4 = 3 then startOther ch pkt (runReeveNotes pkt) s else s) s)

/-! ## Retirement (R361) -/

/-- Step 1 of R361. -/
def retire (q : BitVec 6) (s : State) : State :=
  let s := modParish q.toNat (fun p => { p with state := .retiring, retireAt := now s, stoppedCmds := 0 }) s
  let s := sealRecord q s
  let mine := s.chn.chans.filter fun e => e.1 != 0 && e.2.parish == q
  let stopCh := fun (s : State) (e : Nat × Chan) => orphanRing (BitVec.ofNat 21 e.1) (dropWait (BitVec.ofNat 21 e.1) (putChan (BitVec.ofNat 21 e.1)
    { e.2 with state := .stopped, blockCause := 0, fetched := e.2.head, ringError := none, resumeHeld := false } s))
  let s : State := tidyDeficits (mine.foldl stopCh s)
  let off := fun (e : Nat × Aperture) => if e.2.enabled && e.2.parish == q then (e.1, { e.2 with enabled := false }) else e
  let s : State := { s with dap := { s.dap with aps := s.dap.aps.map off } }
  let wins := s.wins.entries.filter fun e => e.2.state == .opened && e.2.parish == q
  let s := wins.foldl (fun s e => let s := closeWindow e.1 none s
                                  issueWrite .background (winCells s e.1) 3 false none none s) s
  let s := (s.ter.recs.filter fun r => r.parish == q).foldl (fun s r => stopRec r s) s
  (s.ree.jobs.filter fun j => j.parish == q).foldl (fun s j => jobFails j 6 0 s) s

/-- PARISH_RETIRE by its packet. -/
def runParishRetire (pkt : List Word) (id : Nat) (s : State) : State :=
  let q : BitVec 6 := (pw pkt 1).extractLsb' 0 6
  if (parish s q.toNat).state = .active then done id stOk 0 (retire q s) else done id stBadCommand 0 s

/-- Reeve retires a parish on its own authority, with a note (R339, R341). -/
def reeveRetire (q : BitVec 6) (s : State) : State :=
  if (parish s q.toNat).state = .active then
    let tag := (parish s q.toNat).tag
    note 0x07 0 0 q 0 tag 0 0 (retire q s)
  else s

/-- PARISH_RETIRE (R361). -/
def execParishRetire (src : CmdSrc) (s : State) : Host.Outcome State Fault Refusal :=
  .next (match src with
    | .ring ch pkt => asOp 0x82 pkt (startOther ch pkt (runParishRetire pkt)) s
    | .reeve w _ => byReeve (reeveRetire (w.extractLsb' 0 6)) s)

/-- Commands of a parish in flight. -/
def parishCmds (s : State) (q : BitVec 6) : List Cmd := s.eng.cmds.filter fun c => c.parish == some q && c.phase != .done

/-- Arrivals for a parish's windows that have passed the window check and are not committed: none of their writes has been issued. -/
def parishArrivals (s : State) (q : BitVec 6) : List Arrival :=
  s.brn.arrivals.filter fun a => a.cmd.isNone && a.parish == q && a.state != .window && a.state != .writing
    && !(s.sig.ops.any fun o => o.use == .arrival a.id && o.new.isSome)

/-- Signals of a parish's windows that the atomic unit has and has not applied. -/
def parishSignals (s : State) (q : BitVec 6) : List SigEnt :=
  s.sig.ents.filter fun e => e.state == .handed && e.parish == q && !(s.sig.ops.any fun o => o.use == .signal e.src e.tag && o.new.isSome)

/-- Nothing of a parish is in flight on either side (R361). -/
def quiet (s : State) (q : BitVec 6) : Bool :=
  (parishCmds s q).isEmpty && !(s.brn.arrivals.any fun a => a.cmd.isNone && a.parish == q && a.state != .window)
  && !(s.sig.ents.any fun e => e.state == .handed && e.parish == q)

/-- A command ends with PARISH_STOPPED; what it has on the fabric counts as lost (R56, R60, R361). -/
def stopCmd (id : Nat) (s : State) : State :=
  let ds := (unitsOf s id).flatMap fun u => if u.charged then u.owed.filter (· ≠ ownId s) else []
  let s := ds.foldl (fun s d => tallyLoss d.toNat s) s
  let s := modCmd id (fun c => { c with targets := c.targets.map fun t => { t with lost := t.lost || ds.contains t.dev } }) s
  let s := { s with tx := { s.tx with units := s.tx.units.filter fun u => u.use != .cmd id } }
  let resp := s.brn.arrivals.filter fun a => a.cmd == some id && a.state != .writing
  let s := endStopped id stStopped s
  resp.foldl (fun s a => discardResponse a (leaveMill a.id s)) s

/-- Accesses of the parish's apertures end with errors; its responses that have not been sent go, with the buffers they hold (R332, R361). -/
def endUnits (q : BitVec 6) (s : State) : State :=
  let s := (s.tx.units.filter fun u => u.parish == some q).foldl (fun s u => match u.use with
    | .dap n => dapEnd n false true [] s
    | _ => s) s
  dropUnits (fun u => u.parish == some q && (match u.use with
    | .answer _ => true
    | _ => false)) s

/-- Step 4 of R361: what is still in flight ends, and clearing begins. -/
def stopParish (q : BitVec 6) (s : State) : State :=
  let s := (parishCmds s q).foldl (fun s c => stopCmd c.id s) s
  let s := endUnits q s
  let as_ := parishArrivals s q
  let es := parishSignals s q
  let s := { s with sig := { s.sig with ops := s.sig.ops.filter fun o =>
    !(as_.any fun a => o.use == .arrival a.id) && !(es.any fun e => o.use == .signal e.src e.tag) } }
  let s := as_.foldl (fun s a => refuseArrival a stNoWindow (leaveMill a.id s)) s
  let s := es.foldl (fun s e => signalEnds e false stNoWindow s) s
  pumpOps (wakeCombines (modParish q.toNat (fun p => { p with state := .clearing }) s))

/-- PARISH_QUIESCENT (R361): nothing of the parish is in flight, or 2 ms have passed. -/
def execParishQuiescent (q : BitVec 6) (s : State) : Host.Outcome State Fault Refusal :=
  .next (let p := parish s q.toNat
    if running s && p.state == .retiring && (quiet s q || reached s (later p.retireAt (2 * msUnits))) then stopParish q s else s)

/-- A write at the memory ports that a parish's own rings still wait for. -/
def parishWrite (q : BitVec 6) (w : WriteReq) : Bool :=
  match w.use with
  | .record o _ _ _ _ => o == .parish q
  | .park o _ _ _ _ => o == .parish q
  | .ring (.notify o) _ => o == .parish q
  | .ring (.trace x) _ => x == q
  | _ => false

/-- Every record of the parish has been posted and its writes are acknowledged. -/
def cleared (s : State) (q : BitVec 6) : Bool :=
  !(s.eng.cmds.any fun c => c.parish == some q) && !(s.memp.writes.any (parishWrite q))
  && !(s.brn.arrivals.any fun a => a.cmd.isNone && a.parish == q && a.state != .window) && !(s.sig.ents.any fun e => e.state == .handed && e.parish == q)

/-- A parish's windows enter QUARANTINE (R142, R361). -/
def quarantine (q : BitVec 6) (s : State) : State :=
  let hs := s.wins.entries.filter fun e => e.2.parish == q && (e.2.state == .opened || e.2.state == .closing)
  let s := hs.foldl (fun s e =>
    let s := modWin e.1 (fun w => { w with state := .quarantine, qEnd := later (now s) (2 * effTimeout s) }) s
    issueWrite .background (winCells s e.1) 3 false none none s) s
  { s with wins := { s.wins with closing := s.wins.closing.filter fun x => !(hs.any fun e => e.1 == x.1) } }

/-- Step 5 of R361: every entry of R332 as its last column says. -/
def clearParish (q : BitVec 6) (s : State) : State :=
  let s := endUnits q (quarantine q s)
  let inWin := fun (h : BitVec 20) => (win s h.toNat).parish == q && (win s h.toNat).state != .free
  let s := { s with
    chn := { s.chn with
      chans := s.chn.chans.filter fun e => e.1 == 0 || e.2.parish != q
      ovf := s.chn.ovf.filter fun c => (chan? s c).all fun x => c == 0 || x.parish != q }
    dap := { s.dap with aps := s.dap.aps.filter fun e => e.2.parish != q || e.2.enabled }
    tal := { s.tal with plan := s.tal.plan.filter fun e => !(bitAt e.2 62 && bits e.2 56 6 == q.toNat) }
    sig := { s.sig with ents := s.sig.ents.map fun e => if e.parish == q then cancelPending e (waitEnd s) else e }
    groups := s.groups.filter fun g => !(inWin g.window)
    ter := { s.ter with
      cache := s.ter.cache.filter (fun e => e.parish != q), recs := s.ter.recs.filter (fun r => r.parish != q), noRec := s.ter.noRec.filter (fun x => x.2.parish != q)
      walkq := s.ter.walkq.filter fun w => w.parish != q }
    memp := { s.memp with reads := s.memp.reads.filter fun r => match r.use with
      | .walk x _ _ _ _ _ => x != q
      | _ => true }
    obs := { s.obs with watches := s.obs.watches.filter fun e => e.2.owner != some q, parCnt := s.obs.parCnt.filter fun e => e.1 / 64 != q.toNat }
    route := { s.route with fences := s.route.fences.filterMap fun e =>
      let f := { e.2 with parishes := setBit e.2.parishes q.toNat (e.2.reeveParishes.getLsbD q.toNat) }
      if f = {} then none else some (e.1, f) } }
  let s := wakeGroups (pumpWalks (millScrub q s))
  issueAll (freeSlots 1 (fun p => p.parish == q) s)

/-- Steps 5 and 6 of R361: the parish is FREE, and Steward logs it. -/
def parishCleared (q : BitVec 6) (s : State) : State :=
  let p := parish s q.toNat
  let s := clearParish q s
  let s := sealRecord q { s with par := Tab.put {} s.par q.toNat (freedParish p) }
  logEntry 0x01 (place p.tag.toNat 16 16 ||| place q.toNat 0 6) (BitVec.ofNat 64 p.stoppedCmds) s

/-- PARISH_CLEARED. -/
def execParishCleared (q : BitVec 6) (s : State) : Host.Outcome State Fault Refusal :=
  .next (if running s && (parish s q.toNat).state == .clearing && cleared s q then parishCleared q s else s)

/-! ## Block scrub (R363) -/

/-- Every parish that is not FREE is retired; `own` when Reeve orders it, with a note. -/
def scrub (own : Bool) (s : State) : State :=
  let qs := (List.range 64).filter fun q => (parish s q).state != .free
  let m := qs.foldl (fun (m : BitVec 64) q => setBit m q true) 0
  let old := match s.stw.scrub with
    | some (x, _) => x
    | none => 0
  let s := qs.foldl (fun s q => if (parish s q).state == .active then retire (BitVec.ofNat 6 q) s else s) s
  let s := { s with stw := { s.stw with scrub := some (old ||| m, own) } }
  if own then note 0x08 0 0 0 0 0 0 0 s else s

/-- BLOCK_SCRUB (R363). -/
def execBlockScrub (src : CmdSrc) (s : State) : Host.Outcome State Fault Refusal :=
  .next (match src with
    | .ring ch pkt => asOp 0x83 pkt (startOther ch pkt (fun id s => done id stOk 0 (scrub false s))) s
    | .reeve _ _ => byReeve (scrub true) s)

/-- What the scrub clears, a parish created since apart: every entry of a parish's SRAM words that no retirement has cleared, the Mill's and the answers
that still wait among them. -/
def scrubClears (s : State) : State :=
  let alive := fun (q : BitVec 6) => (parish s q.toNat).state == .active
  let s := ((List.range 64).filter fun q => !(alive (BitVec.ofNat 6 q))).foldl (fun s q => millScrub (BitVec.ofNat 6 q) (endUnits (BitVec.ofNat 6 q) s)) s
  let s := freeSlots 2 (fun p => !(alive p.parish)) s
  wakeGroups { s with
    chn := { s.chn with chans := s.chn.chans.filter fun e => e.1 == 0 || alive e.2.parish, waits := s.chn.waits.filter fun w => w.ch == 0 || (chan? s w.ch).any fun c => alive c.parish }
    wins := { s.wins with cached := [] }
    dap := { s.dap with aps := s.dap.aps.filter fun e => e.2.enabled && alive e.2.parish }
    ter := { s.ter with cache := s.ter.cache.filter fun e => alive e.parish }
    sig := { s.sig with ents := s.sig.ents.filter fun e => alive e.parish }
    groups := s.groups.filter fun g => alive (win s g.window.toNat).parish
    mil := { s.mil with regs := s.mil.regs.filter fun r => alive r.parish } }

/-- BLOCK_SCRUB_CLEARED (R363): the last of the parishes it retired is FREE. -/
def execBlockScrubCleared (s : State) : Host.Outcome State Fault Refusal :=
  .next (match s.stw.scrub with
    | none => s
    | some (m, _) =>
      if running s && (bitsSet m).all fun q => (parish s q).state == .free || (parish s q).state == .active then
        let s := scrubClears s
        logEntry 0x02 m 0 { s with stw := { s.stw with scrub := none } }
      else s)

/-! ## The mailbox (R339) -/

/-- Reeve's answer to a request that its policy refuses: a job fails with POLICY_REFUSED. -/
def refuseJob (q : BitVec 6) (d : BitVec 9) (s : State) : State := note 0x02 5 0 q d (parish s q.toNat).tag 0 0 s

/-- STEWARD_MAILBOX_REQUEST (R339): Reeve records parishes, takes jobs of sealed parishes, and refuses what would install a key for
another, clear a fence bit of its own, or write an entry it owns. -/
def mailbox (req : MailboxReq) (s : State) : State :=
  match req with
  | .parishCreated q => sealRecord q s
  | .parishRetired q => sealRecord q s
  | .spdmRelay => s
  | .keyPairJob q d => if !(sealedNow s q) then refuseJob q d s else if s.ree.jobs.any (isJob q d) then s else addJob q d false s
  | .blockScrub => s
  | .installKey q d => if sealedNow s q then (if s.ree.jobs.any (isJob q d) then s else addJob q d false s) else refuseJob q d s
  | .clearFence d dev m => clearFence d dev m false s
  | .writeReeveOwned => s

/-- STEWARD_MAILBOX_REQUEST. -/
def execStewardMailboxRequest (req : MailboxReq) (s : State) : Host.Outcome State Fault Refusal :=
  .next (if running s then mailbox req s else s)

end Sys2Proof.Machine
end

