-- ==== Sys2Proof/Machine/Flits.lean ====
section
/-! DEFINITION. Flits on the wire: layout, Reed-Solomon code, CRC-64 (R186-R191, R200). -/

namespace Sys2Proof.Machine

/-! ## GF(2^8) with x^8 + x^4 + x^3 + x^2 + 1 (R187) -/

/-- A field element times x. -/
def gfDouble (a : Nat) : Nat := if a < 128 then 2 * a else (2 * a) ^^^ 0x11D

/-- The product over `n` bits of the second factor. -/
def gfMulBits : Nat → Nat → Nat → Nat
  | 0, _, _ => 0
  | n + 1, a, b => (if b % 2 = 1 then a else 0) ^^^ gfMulBits n (gfDouble a) (b / 2)

/-- The product of two field elements; that of zero is known at once. -/
def gfMul (a b : Nat) : Nat := if a = 0 then 0 else gfMulBits 8 a b

/-- A power of a field element. -/
def gfPow (a : Nat) : Nat → Nat
  | 0 => 1
  | n + 1 => gfMul a (gfPow a n)

/-- The inverse of a non-zero element: its 254th power. -/
def gfInv (a : Nat) : Nat := gfPow a 254

/-- The powers of α = 2 from `a` on. -/
def gfPowers : Nat → Nat → List Nat
  | 0, _ => []
  | n + 1, a => a :: gfPowers n (gfDouble a)

/-- The elements of positions 0 to 254, α^j; position 255 has the element 0 (R187). -/
def betas : List Nat := gfPowers 255 1

/-- The element of a position. -/
def beta (j : Nat) : Nat := betas.getD j 0

/-- A sum of field elements. -/
def gfSum (xs : List Nat) : Nat := xs.foldl (· ^^^ ·) 0

/-! ## The code (R187) -/

/-- Σ c_j · β_j^i over positions 0 to 254, with β_j^i = (α^i)^j: `r` is the power that the first byte takes, `a` is α^i. -/
def synFrom (a : Nat) : Nat → List Byte → Nat
  | _, [] => 0
  | r, c :: cs => gfMul c.toNat r ^^^ synFrom a (gfMul r a) cs

/-- The i-th check sum of a word of 256 bytes, with 0^0 = 1 (R187). -/
def syndrome (c : List Byte) (i : Nat) : Nat :=
  synFrom (beta i) 1 (c.take 255) ^^^ (if i = 0 then (c.getD 255 0).toNat else 0)

/-- The sixteen check sums. -/
def syndromes (c : List Byte) : List Nat := (List.range 16).map (syndrome c)

/-- A word is a codeword. -/
def isCodeword (c : List Byte) : Bool := (syndromes c).all (· == 0)

/-- A polynomial, lowest coefficient first, times (x + b). -/
def polyTimes (b : Nat) (p : List Nat) : List Nat :=
  (List.range (p.length + 1)).map fun i => (if i = 0 then 0 else p.getD (i - 1) 0) ^^^ gfMul b (p.getD i 0)

/-- The values v with Σ v_k · b_k^l = t_l for every l below the number of elements `bs`, which are distinct. -/
def vander (bs t : List Nat) : List Nat :=
  bs.map fun b =>
    let others := bs.filter (· ≠ b)
    let p := others.foldl (fun p m => polyTimes m p) [1]
    let q := others.foldl (fun q m => gfMul q (b ^^^ m)) 1
    gfMul (gfInv q) (gfSum ((p.zip t).map fun x => gfMul x.1 x.2))

/-- The sixteen parity bytes of 240 bytes of content: the check sums 1 to 15 fix bytes 240 to 254, the check sum 0 fixes byte 255. -/
def parity (content : List Byte) : List Byte :=
  let bs := (List.range 15).map fun i => beta (240 + i)
  let t := (List.range 15).map fun l => syndrome content (l + 1)
  let ps := (vander bs t).zip bs |>.map fun x => BitVec.ofNat 8 (gfMul x.1 (gfInv x.2))
  ps ++ [BitVec.ofNat 8 (syndrome (content ++ ps) 0)]

/-- The state of the search for an error locator: the locator, the one before its length last changed, its length, steps since, and
the discrepancy then. -/
structure Bm where
  c : List Nat := [1]
  b : List Nat := [1]
  l : Nat := 0
  m : Nat := 1
  d : Nat := 1
  deriving DecidableEq, Repr

/-- A polynomial plus `k` · x^m times another. -/
def polyAdd (p : List Nat) (k m : Nat) (q : List Nat) : List Nat :=
  (List.range (max p.length (q.length + m))).map fun i => p.getD i 0 ^^^ (if i < m then 0 else gfMul k (q.getD (i - m) 0))

/-- One check sum more: the discrepancy, and the locator that explains it. -/
def bmStep (s : List Nat) (x : Bm) (n : Nat) : Bm :=
  let d := gfSum ((List.range (x.l + 1)).map fun i => gfMul (x.c.getD i 0) (s.getD (n - i) 0))
  if d = 0 then { x with m := x.m + 1 }
  else
    let c := polyAdd x.c (gfMul d (gfInv x.d)) x.m x.b
    if 2 * x.l ≤ n then { c := c, b := x.c, l := n + 1 - x.l, m := 1, d := d } else { x with c := c, m := x.m + 1 }

/-- The positions below 255 that the shortest locator of a sequence of check sums names. -/
def locate (s : List Nat) : List Nat :=
  let x := (List.range s.length).foldl (bmStep s) {}
  (List.range 255).filter fun j =>
    let r := beta ((255 - j) % 255)
    x.c.reverse.foldl (fun v k => gfMul v r ^^^ k) 0 == 0

/-- A word with values added at positions. -/
def addAt (c : List Byte) (es : List (Nat × Nat)) : List Byte :=
  es.foldl (fun c e => c.set e.1 (c.getD e.1 0 ^^^ BitVec.ofNat 8 e.2)) c

/-- The word corrected from the check sums 1 to 15 where position 255 may be wrong: byte 255 then follows from the check sum 0. -/
def correctTail (c : List Byte) : List Byte :=
  let s := (List.range 15).map fun i => syndrome c (i + 1)
  let ps := locate s
  let vs := vander (ps.map beta) s
  let c := addAt c ((ps.zip vs).map fun x => (x.1, gfMul x.2 (gfInv (beta x.1))))
  addAt c [(255, syndrome c 0)]

/-- The word corrected from all sixteen check sums. -/
def correctAll (c : List Byte) : List Byte :=
  let s := syndromes c
  let ps := locate s
  addAt c (ps.zip (vander (ps.map beta) s))

/-- The positions at which two words differ. -/
def differs (a b : List Byte) : List Nat := (List.range 256).filter fun j => a.getD j 0 != b.getD j 0

/-- The codeword within 8 bytes of a word, with the positions corrected; none where there is none (R187). -/
def rsDecode (c : List Byte) : Option (List Byte × List Nat) :=
  let good := fun (d : List Byte) => isCodeword d && decide ((differs c d).length ≤ 8)
  let a := correctTail c
  if good a then some (a, differs c a)
  else
    let b := correctAll c
    if good b then some (b, differs c b) else none

/-! ## CRC-64 (R200) -/

/-- Eight bits of the register, most significant first. -/
def crcBits : Nat → Nat → Nat
  | 0, r => r
  | n + 1, r => crcBits n (if r.testBit 63 then ((r <<< 1) % 2 ^ 64) ^^^ 0x42F0E1EBA9EA3693 else (r <<< 1) % 2 ^ 64)

/-- CRC-64 over bytes. -/
def crc64 (bs : List Byte) : Nat := bs.foldl (fun r b => crcBits 8 (r ^^^ (b.toNat <<< 56))) 0

/-! ## The flit (R186, R190, R191) -/

/-- Flit types. -/
def ftIdle : Nat := 0
def ftData : Nat := 1
def ftNack : Nat := 2
def ftTally : Nat := 3
def ftTime : Nat := 4
def ftCurfew : Nat := 5
def ftTrain : Nat := 6
def ftCtrl : Nat := 7

/-- A type is sequenced (R191). -/
def ftSequenced (t : Nat) : Bool := t == ftData || t == ftCurfew || t == ftCtrl

/-- The link header (R190). The controller never sets ABORT (R194). -/
def flitHeader (f : Flit) (ack : BitVec 16) : Word :=
  place f.used.toNat 45 3 ||| place f.start.toNat 38 7 ||| place f.epoch.toNat 36 1 ||| place f.type.toNat 32 4
  ||| place ack.toNat 16 16 ||| place f.seq.toNat 0 16

/-- The 256 bytes of a flit (R186). -/
def flitBytes (f : Flit) (ack : BitVec 16) : List Byte :=
  let head := wordBytes (flitHeader f ack) ++ ((List.range 7).flatMap fun k => slotBytes (f.body.getD k 0))
  let content := head ++ leBytes 8 (crc64 head)
  content ++ parity content

/-- The slots of a body given by its words. -/
def wordSlots (ws : List Word) : List (BitVec 256) := bytesSlots 7 (wordsBytes ws)

/-- The header word of 256 received bytes. -/
def headerOf (bs : List Byte) : Word := BitVec.ofNat 64 (ofLE (bs.take 8))

/-- Slot `k` of a flit's bytes. -/
def slotOf (bs : List Byte) (k : Nat) : List Byte := (bs.drop (8 + 32 * k)).take 32

/-- The CRC of a flit's bytes holds. -/
def crcOk (bs : List Byte) : Bool := crc64 (bs.take 232) == ofLE ((bs.drop 232).take 8)

/-- A flit as its bytes spell it. -/
def flitOf (bs : List Byte) : Flit :=
  let w := headerOf bs
  { type := w.extractLsb' 32 4, epoch := w.extractLsb' 36 1, start := w.extractLsb' 38 7, used := w.extractLsb' 45 3,
    body := (List.range 7).map fun k => BitVec.ofNat 256 (ofLE (slotOf bs k)), seq := w.extractLsb' 0 16 }

end Sys2Proof.Machine
end

