-- ==== Sys2Proof/Machine/Clock.lean ====
section
/-! DEFINITION. Which partner Almanac follows, TIME_SET and TIME_PPS (R369, R372, R373), links that leave and enter the link-up mask (R171, R221, R226), and
the fabric ID (R444). -/

namespace Sys2Proof.Machine

/-! ## Which partner is followed (R369, R372) -/

/-- The time exchange of link `p`. -/
def timeLink (s : State) (p : Nat) : TimeLink := Tab.get {} s.alm.links p

/-- The state with a link's time exchange changed. -/
def modTime (p : Nat) (f : TimeLink → TimeLink) (s : State) : State :=
  { s with alm := { s.alm with links := Tab.put {} s.alm.links p (f (timeLink s p)) } }

/-- The device is the grandmaster: ALM_CTL.ROLE. -/
def isMaster (s : State) : Bool := bitAt s.alm.ctl 0

/-- Links whose partners report SYNCED. -/
def syncedLinks (s : State) : List (Nat × TimeLink) := s.alm.links.filter fun e => e.2.synced

/-- The better of two links to follow: the lower GM_ID, then the lower STEPS, then the lower plane, which comes first (R369). -/
def betterTime (a b : Nat × TimeLink) : Nat × TimeLink :=
  if b.2.gmId.toNat < a.2.gmId.toNat ∨ (b.2.gmId = a.2.gmId ∧ b.2.steps.toNat < a.2.steps.toNat) then b else a

/-- The link to follow. -/
def parentOf (s : State) : Option (Nat × TimeLink) :=
  match syncedLinks s with
  | [] => none
  | e :: es => some (es.foldl betterTime e)

/-- The rate limit of the servo: 500 ppm of 640 units, in 1/2^32 of a unit per AON cycle (R365, R371). -/
def rateLimit : Int := 1374389534

/-- The servo's next adjustment: the spec bounds it and gives no law for it, so it is a free value within ±500 ppm (R371, R373). -/
def servo (s : State) : State :=
  { s with free := s.free + 1, alm := { s.alm with rate := max (-rateLimit) (min rateLimit (Config.freeWord s.free).toInt) } }

/-- The parent is chosen anew after what a partner reports changed, or a link left (R369, R372): with none a follower that has had one
is in HOLDOVER at its last rate, one that never had one goes on in FREE_RUN. -/
def followTime (s : State) : State :=
  if isMaster s then s
  else match parentOf s with
    | none =>
      let st := match s.alm.state with
        | .freeRun => AlmState.freeRun
        | _ => .holdover
      { s with alm := { s.alm with parent := 0x7F, steps := 0xFF, state := st, goodRun := 0 } }
    | some (p, t) =>
      let st := if s.alm.state = .freeRun then AlmState.acquiring else s.alm.state
      { s with alm := { s.alm with parent := BitVec.ofNat 7 p, steps := if t.steps = 0xFF then 0xFF else t.steps + 1, gmId := t.gmId, state := st } }

/-- What link `p`'s partner reported is no longer used. -/
def timeLost (p : Nat) (s : State) : State := followTime { s with alm := { s.alm with links := Tab.put {} s.alm.links p {} } }

/-! ## Control flits and LINK_ID (R223, R226) -/

/-- Queue a CTRL flit on a link. -/
def queueCtrl (p : Nat) (sub : BitVec 8) (w1 : Word) (s : State) : State := modLink p (fun l => { l with ctrlq := l.ctrlq ++ [(sub, w1, 0, 0)] }) s

/-- The LINK_ID a device sends on link `p` (R223): plane, link count, role 0, fabric ID and ID_VALID, every rate supported. -/
def linkIdWord (s : State) (p : Nat) : Word :=
  place p 0 7 ||| place s.part.links 7 7 ||| place s.gbl.fabricId.toNat 15 9 ||| flag s.gbl.fabricValid 24 ||| place 7 25 3

/-- Send LINK_ID on link `p`. -/
def sendLinkId (p : Nat) (s : State) : State := queueCtrl p 0x08 (linkIdWord s p) s

/-! ## Leaving the link-up mask (R201, R221) -/

/-- The lines of stripes partly landed over link `p` are freed (R194, R221). -/
def dropPartials (p : Nat) (s : State) : State :=
  let mine := s.brn.partials.filter fun x => x.1 == p
  let s := { s with brn := { s.brn with partials := s.brn.partials.filter fun x => x.1 != p } }
  mine.foldl (fun s x => releaseLines x.2.1.toNat x.2.2 s) s

/-- A link's sequence state, queues, requests and replay copies as a link that has not joined has them (R201, R221). -/
def freshLink (l : Link) : Link :=
  { l with expected := 0, nextSeq := 0, acked := 0xFFFF, replay := [], resend := none, spillNext := 0, spillOldest := 0, spilled := 0,
           granaryIn := [], timer := none, nackHold := none, nackDue := none, txq := [], ctrlq := [], curfewq := [], tallyq := [], refreshq := [],
           tallyDue := none, rxLeft := 0, rxOver := false, overs := [], joined := false, retrainAt := none, quietAt := none, lpiWake := none, pause := none,
           phase := .detect, idDue := false, confirmed := false, switched := false, widthAsked := false, widthReq := none, widthTo := none, speedReq := false, speedAck := false, parkReq := false, parkSent := false, parkAgree := false,
           partnerId := none, standby := 0, timeAt := none }

/-- The sequence number of the copy that a read of link `p`'s Granary brings. -/
def granarySeq (p : Nat) : ReadFor → Option (BitVec 16)
  | .granary l q => if l.toNat = p then some q else none
  | _ => none

/-- Link `p` leaves the link-up mask: what is placed on its plane is lost, its copies and partly landed stripes go, its sequence state is
reset (R56, R201, R221 steps 5 to 7). -/
def leaveMask (p : Nat) (s : State) : State :=
  let t := planesChanged s (withRoute { s.route with
    linkUp := setBit s.route.linkUp p false, parkDrain := setBit s.route.parkDrain p false } s)
  let t := losePlane p (fun _ => true) t
  let t := dropPartials p t
  let t := { t with memp := { t.memp with reads := t.memp.reads.filter fun r => (granarySeq p r.use).isNone } }
  timeLost p (modLink p freshLink t)

/-- What a link does once it is out of the mask: it trains again, or is OFF with its EN clear (R221 step 7, R228). -/
def afterDown (l : Link) : Link := { l with state := if l.en then .training else .off, lanes := if l.en then l.lanes else 0 }

/-- A link is declared down (R221): LINK_DOWN, the event on operator vector 3, and the effects of R56 to R60. -/
def linkDown (p : Nat) (s : State) : State :=
  let s := leaveMask p (linkEvent 0 p (raise (srcLink p) kLinkDown p [] none s))
  holdDiag (modLink p afterDown s)

/-- A link raises MISWIRED and trains again every 100 ms (R226, R444); a joined one leaves the mask first. -/
def miswired (p plane : Nat) (s : State) : State :=
  let s := linkEvent 3 p (raise (srcLink p) kMiswired plane [] none s)
  let s := leaveMask p s
  modLink p (fun l => { l with state := .training, miswiredAt := some (now s) }) s

/-! ## The fabric ID (R444) -/

/-- The fabric ID a partner offers with ID_VALID = 1. -/
def offered (l : Link) : Option (BitVec 9) :=
  match l.partnerId with
  | some w => if bitAt w 24 then some (w.extractLsb' 15 9) else none
  | none => none

/-- Joined links, by number. -/
def joinedLinks (s : State) : List (Nat × Link) := s.lnk.links.filter fun e => e.2.joined

/-- The ID to take now: from the lowest joined link whose partner offers one, or as the operator wrote it; only with Almanac LOCKED or on
the grandmaster. -/
def idToTake (s : State) : Option (BitVec 9) :=
  if s.gbl.fabricValid || !(s.alm.state == .locked || isMaster s) then none
  else if s.gbl.fabricMode then (if s.gbl.idWritten then some s.gbl.fabricId else none)
  else (joinedLinks s).findSome? fun e => offered e.2

/-- A link's partner offers another valid ID than the device's own. -/
def mismatched (s : State) (l : Link) : Bool :=
  (s.gbl.fabricValid || (s.gbl.fabricMode && s.gbl.idWritten)) && (offered l).any (· ≠ s.gbl.fabricId)

/-- The fabric ID is taken when it can be: every joined link sends LINK_ID with ID_VALID = 1 (R442), and one whose partner offers another
ID leaves the mask. -/
def takeFabricId (s : State) : State :=
  match idToTake s with
  | none => s
  | some d =>
    let s := { s with gbl := { s.gbl with fabricId := d, fabricValid := true } }
    let s := (joinedLinks s).foldl (fun s e => sendLinkId e.1 s) s
    ((joinedLinks s).filter fun e => mismatched s e.2).foldl (fun s e => miswired e.1 (bits (e.2.partnerId.getD 0) 0 7) s) s

/-- A link joins: it enters the link-up mask with its numbers as R201 sets them, with the event on operator vector 3 (R226, R473). -/
def join (p : Nat) (s : State) : State :=
  let t := modLink p (fun l => { l with joined := true, miswiredAt := none, expected := 0, nextSeq := 0, acked := 0xFFFF, spillNext := 0, spillOldest := 0 }) (withRoute { s.route with linkUp := setBit s.route.linkUp p true } s)
  takeFabricId (linkEvent 1 p (planesChanged s t))

/-! ## TIME_SET and TIME_PPS (R373) -/

/-- TIME_SET. -/
def runTimeSet (pkt : List Word) (id : Nat) (s : State) : State :=
  let t := pw pkt 1
  if !(isMaster s) ∨ (earlier t (now s) ∧ s.route.linkUp ≠ 0) then done id stBadCommand 0 s
  else
    let old := now s
    done id stOk old { s with alm := { s.alm with now := t, frac := 0 } }

/-- TIME_SET. -/
def execTimeSet (ch : BitVec 21) (pkt : List Word) (s : State) : Host.Outcome State Fault Refusal :=
  .next (asOp 0x8D pkt (startOther ch pkt (runTimeSet pkt)) s)

/-- TIME_PPS: on the grandmaster with PPS_EN the servo moves the counter towards the second; followers ignore the edge. -/
def execTimePps (s : State) : Host.Outcome State Fault Refusal :=
  .next (if s.pins.pwrOk && !s.pins.aonReset && isMaster s && bitAt s.alm.ctl 1 && !(stoppedByCurfew s) then servo s else s)

end Sys2Proof.Machine
end

