-- ==== Sys2Proof/Machine/Links.lean ====
section
/-! DEFINITION. Links: flits sent and received, replay, width and speed changes, training, parking, low-power idle, link-down
(R186-R230). -/

namespace Sys2Proof.Machine

/-! ## Counters of a link (R417) -/

/-- Counter `k` of a link in a direction (0 send, 1 receive) counts `n` more (R417). -/
def countLink (p d k n : Nat) (s : State) : State := count (10 * p + 5 * d + k) n s

/-- A sequenced flit passes: it counts, and so do the bytes of the slots of a DATA flit (R417). -/
def countFlit (p d type used : Nat) (s : State) : State :=
  countLink p d 1 1 (if type = ftData then countLink p d 0 (32 * used) s else s)

/-- A sequenced flit goes onto the lanes: the link is busy for a flit time (R417). -/
def countSent (p : Nat) (f : Flit) (s : State) : State := count (0x480 + p) 1 (countFlit p 0 f.type.toNat f.used.toNat s)

/-! ## Acknowledgement and replay (R201-R209) -/

/-- The transmitter's window (R203). -/
def replayWindow (l : Link) : Nat := min 32767 (256 + l.granaryFlits.toNat)

/-- The ACK every flit carries: EXPECTED − 1 (R204). -/
def ackOf (l : Link) : BitVec 16 := l.expected - 1

/-- How far a copy lies behind the oldest one held. -/
def copyIndex (l : Link) (q : BitVec 16) : Nat := (q - l.acked - 1).toNat

/-- The state without the Granary reads of a link for its oldest `n` copies: a copy that is freed is never read (R207). -/
def dropGranaryReads (p n : Nat) (s : State) : State :=
  let l := link s p
  { s with memp := { s.memp with reads := s.memp.reads.filter fun r => !((granarySeq p r.use).any fun q => copyIndex l q < n) } }

/-- The oldest `n` copies are freed: spilled ones first (R206, R207). -/
def freeCopies (n : Nat) (t : Time) (l : Link) : Link :=
  let k := min n l.spilled
  let left := unacked l - n
  { l with acked := l.acked + BitVec.ofNat 16 n, spilled := l.spilled - k, replay := l.replay.drop (n - k), ackAt := t,
           spillOldest := BitVec.ofNat 15 ((l.spillOldest.toNat + k) % max 1 l.granaryFlits.toNat),
           granaryIn := l.granaryIn.filter fun x => !(decide (copyIndex l x.1 < n)),
           resend := if left = 0 then none else l.resend.map (· - n),
           timer := if left = 0 then none else some t }

/-- An ACK received in any flit (R206). -/
def takeAck (p : Nat) (a : BitVec 16) (s : State) : State :=
  let l := link s p
  let n := (a - l.acked).toNat
  if 0 < n ∧ n ≤ unacked l then
    setLink p (freeCopies n (now s) l) (dropGranaryReads p n s)
  else s

/-- A rewind (R206): every held copy is sent again from the oldest, and the rewind counts (R417). -/
def rewind (p : Nat) (s : State) : State :=
  let t := now s
  let s := if unacked (link s p) = 0 then s else countLink p 0 2 1 s
  dropGranaryReads p 65536 (modLink p (fun l =>
    if unacked l = 0 then { l with resend := none, granaryIn := [], timer := none, ackAt := t }
    else { l with resend := some 0, granaryIn := [], timer := some t }) s)

/-- A link enters RETRAINING: it keeps its replay state, sends nothing sequenced and trains from DETECT (R219, R220, R225). A width change
that had begun is asked for again afterwards. -/
def retrain (p : Nat) (s : State) : State :=
  let t := now s
  modLink p (fun l => { l with
    state := .retraining, retrainAt := some t, timer := none, pause := none, switched := false, widthAsked := l.widthAsked && l.widthTo.isNone, widthTo := none,
    lpiWake := none, quietAt := none, phase := .detect, idDue := false, confirmed := false }) s

/-- Send one NACK; no further one until the flit is accepted or 1 µs has passed (R205). -/
def nackFor (p : Nat) (cause : BitVec 3) (s : State) : State :=
  let l := link s p
  if l.nackHold.isSome then s
  else setLink p { l with nackDue := some (l.expected, cause), nackHold := some (l.expected, now s) } s

/-- NACK (R206). -/
def takeNack (p : Nat) (e : BitVec 16) (s : State) : State :=
  let l := link s p
  rewind p (if (e - 1 - l.acked).toNat ≤ unacked l then takeAck p (e - 1) s else s)

/-- NACK. A device without a fabric ID does not accept it (R226). -/
def execNack (link_ : BitVec 7) (expected : BitVec 16) (s : State) : Host.Outcome State Fault Refusal :=
  .next (if linkHears s link_ && s.gbl.fabricValid then takeNack link_.toNat expected s else s)

/-- NACK_HOLDOFF_EXPIRY (R205). -/
def execNackHoldoffExpiry (link_ : BitVec 7) (s : State) : Host.Outcome State Fault Refusal :=
  .next (let p := link_.toNat
    match (link s p).nackHold with
    | some (_, t) => if running s && reached s (later t usUnits) then modLink p (fun l => { l with nackHold := none }) s else s
    | none => s)

/-- REPLAY_TIMER_EXPIRY (R206): 4 µs with flits unacknowledged; the timer stops in a pause and while training. -/
def execReplayTimerExpiry (link_ : BitVec 7) (s : State) : Host.Outcome State Fault Refusal :=
  .next (let p := link_.toNat
    let l := link s p
    match l.timer with
    | some t => if running s && l.state == .up && l.pause.isNone && decide (0 < unacked l) && reached s (later t (4 * usUnits)) then rewind p s else s
    | none => s)

/-! ## Requests of this end (R212, R214, R217) -/

/-- The link may exchange requests: UP and not in a pause. -/
def linkFree (l : Link) : Bool := l.state == .up && l.pause.isNone

/-- Lanes named by a mask that are on neither the link nor STANDBY are brought to STANDBY; the link keeps running (R213). -/
def toStandby (p : Nat) (lanes : BitVec 2) (s : State) : State := modLink p (fun l => { l with standby := l.standby ||| (lanes &&& ~~~l.lanes) }) s

/-- Send the WIDTH_REQ that stands and has not gone out, when the link may: a lane to be added is in STANDBY then (R212, R213, R389). -/
def askWidth (p : Nat) (s : State) : State :=
  let l := link s p
  match l.widthReq with
  | some w => if linkFree l && l.joined && !l.widthAsked then queueCtrl p 0x01 (place w.toNat 0 2) (modLink p (fun l => { l with widthAsked := true }) (toStandby p w s)) else s
  | none => s

/-- Start a width change to given lanes for a reason (R212). -/
def startWidth (p : Nat) (lanes : BitVec 2) (why : Narrow) (s : State) : State :=
  let l := link s p
  if lanes = 0 ∨ (l.lanes = lanes ∧ l.widthReq.isNone) then modLink p (fun l => { l with narrow := why }) s
  else askWidth p (setLink p { l with widthReq := some lanes, widthAsked := false, narrow := why } s)

/-- A lane's source is severe. -/
def laneSevere (s : State) (p l : Nat) : Bool := (Tab.get {} s.flt.sources (srcLane p l)).severe

/-- Lane `l` has symbol lock. -/
def laneLock (x : Link) (l : Nat) : Bool := if l = 0 then x.lock0 else x.lock1

/-- AUTO_NARROW removes a lane that is severe or unlocked, when the other is neither severe nor unlocked (R217). -/
def narrowLane (p l : Nat) (s : State) : State :=
  let x := link s p
  if x.autoNarrow && x.lanes == 3 && !(laneSevere s p (1 - l)) && laneLock x (1 - l) then startWidth p (if l = 0 then 2 else 1) .health s else s

/-- Send the SPEED_REQ that stands on a link and has not gone out, when it may (R214). -/
def askSpeed (p : Nat) (s : State) : State :=
  let l := link s p
  match (croft s (p / 3)).rateTo with
  | some r =>
    if l.joined && linkFree l && !l.speedAck && !l.speedReq then queueCtrl p 0x03 (place r.toNat 0 2) (modLink p (fun l => { l with speedReq := true }) s) else s
  | none => s

/-- The requests that stand on a link go out (R212, R214). -/
def askChanges (p : Nat) (s : State) : State := askSpeed p (askWidth p s)

/-- A request stands that has not gone out. -/
def askDue (s : State) (p : Nat) (l : Link) : Bool :=
  l.joined && ((l.widthReq.isSome && !l.widthAsked) || ((croft s (p / 3)).rateTo.isSome && !l.speedAck && !l.speedReq))

/-- The lanes that the operator's WIDTH, the start-up calibration and a narrowing for health leave a link (R217, R218, R228, R442). -/
def allowedLanes (l : Link) : BitVec 2 :=
  let w : BitVec 2 := if l.width = 1 then 1 else if l.width = 2 then 2 else 3
  w &&& l.stay &&& ~~~((if l.badLane0 then 1 else 0) ||| (if l.badLane1 then 2 else 0))

/-- The lanes a link may come to: auto takes both only while neither is severe, and else keeps the one it has, or takes one that is not (R218). -/
def laneLimit (s : State) (p : Nat) : BitVec 2 :=
  let l := link s p
  let m := allowedLanes l
  if l.width == 0 && m == 3 && l.lanes != 3 && (laneSevere s p 0 || laneSevere s p 1) then
    (if l.lanes != 0 then l.lanes else if !(laneSevere s p 0) then 1 else if !(laneSevere s p 1) then 2 else 3)
  else m

/-- The lanes a link intends to use when it trains: those it may come to, and of these, narrowed by the power controller, those it has (R224, R389). -/
def wantLanes (s : State) (p : Nat) : BitVec 2 :=
  let l := link s p
  let m := laneLimit s p
  if l.narrow = .power ∧ l.lanes &&& m ≠ 0 then l.lanes &&& m else m

/-- The lanes a link trains on: in a pause those it goes on with, a width change's new ones or its own (R213, R224). -/
def trainLanes (s : State) (p : Nat) : BitVec 2 :=
  let l := link s p
  match l.pause with
  | some (.width, _) => l.widthTo.getD l.lanes
  | some _ => l.lanes
  | none => wantLanes s p

/-- Auto may take both lanes: both are allowed and lock, and neither is severe (R218). -/
def mayWiden (s : State) (p : Nat) : Bool :=
  let l := link s p
  l.width == 0 && allowedLanes l == 3 && l.lost == 0 && !(laneSevere s p 0) && !(laneSevere s p 1)

/-- The lanes WIDTH asks for: auto takes both when it may (R212, R218). -/
def widthLanes (s : State) (p w : Nat) : BitVec 2 := if w = 1 then 1 else if w = 2 then 2 else if mayWiden s p then 3 else (link s p).lanes

/-- Auto widens a joined link that nothing keeps at ×1 (R218, R389). -/
def autoWiden (p : Nat) (s : State) : State :=
  let l := link s p
  if l.joined && l.lanes != 3 && l.narrow == .none && mayWiden s p then startWidth p 3 .none s else s

/-- The links of a croft. -/
def linksOf (c : Nat) : List Nat := [3 * c, 3 * c + 1, 3 * c + 2]

/-- Start a speed change of a croft (R214). A rate asked for while a change is in progress is changed to after it; no rule speaks of it. DESIGN CHOICE: log
entry 178. -/
def startSpeed (c : Nat) (rate : BitVec 2) (s : State) : State :=
  match (croft s c).rateTo with
  | some r => modCroft c (fun x => { x with rateNext := if r = rate then none else some rate }) s
  | none =>
    if (croft s c).rate = rate then s
    else (linksOf c).foldl (fun s p => askSpeed p s) (modCroft c (fun x => { x with rateTo := some rate }) s)

/-- A speed change has ended: the one asked for meanwhile starts. -/
def nextSpeed (c : Nat) (s : State) : State :=
  match (croft s c).rateTo, (croft s c).rateNext with
  | none, some r => startSpeed c r (modCroft c (fun x => { x with rateNext := none }) s)
  | _, _ => s

/-- Start parking a link: it drains as under PLANE_DRAIN (R172, R227). -/
def startPark (p : Nat) (s : State) : State :=
  planesChanged s (modLink p (fun l => { l with parkReq := true, parkSent := false }) (withRoute { s.route with parkDrain := setBit s.route.parkDrain p true } s))

/-- A link parks: it leaves the mask without being declared down (R227). -/
def parkLink (p : Nat) (s : State) : State := modLink p (fun l => { l with state := .parked, lanes := 0 }) (leaveMask p s)

/-- A parked link rejoins through training from CALIBRATE (R225, R227). -/
def unparkLink (p : Nat) (s : State) : State :=
  modLink p (fun l => if l.state = .parked then { l with state := if l.en then .calibrating else .off } else l) s

/-! ## Sending (R202, R203, R207, R210) -/

/-- The lanes carry flits: powered, past step 4 of the start-up, not stopped, CORE and CROFT running (R408, R431, R442). -/
def lanesRun (s : State) : Bool :=
  s.pins.pwrOk && !s.pins.aonReset && !s.pins.blockReset && (s.gbl.stage == .ready || s.gbl.stage == .calibrating)
  && (s.cur.state == .idle || s.cur.state == .armed) && !s.pwr.gated

/-- The next bits of a lane's PRBS31 sequence, x^31 + x^28 + 1: a byte, lowest bit first, and the scrambler after it (R188). -/
def prbsByte (x : BitVec 31) : Byte × BitVec 31 :=
  (List.range 8).foldl (fun r k =>
    let b := r.2.getLsbD 30 ^^ r.2.getLsbD 27
    (setBit r.1 k b, (r.2 <<< 1) ||| (if b then 1 else 0))) (0, x)

/-- A lane's bytes XORed with its sequence, which runs on (R188). -/
def scramble : BitVec 31 → List Byte → List Byte × BitVec 31
  | x, [] => ([], x)
  | x, b :: bs =>
    let (k, y) := prbsByte x
    let (r, z) := scramble y bs
    ((b ^^^ k) :: r, z)

/-- Bytes at even positions, and at odd ones. -/
def unzipLanes : List Byte → List Byte × List Byte
  | a :: b :: r => let (x, y) := unzipLanes r; (a :: x, b :: y)
  | r => (r, [])

/-- The 64-B interface words of a lane's bytes, the lower-numbered bytes first. -/
def laneWords (n : Nat) (bs : List Byte) : List (Nat × List Byte) :=
  (List.range ((bs.length + 63) / 64)).map fun k => (n, (bs.drop (64 * k)).take 64)

/-- A flit's bytes on the lanes in use: at ×2 byte j on lane j mod 2, at ×1 all on the one lane; XORed with each lane's sequence but for a TRAIN
flit, for which the sequences run on alike (R188, R224). -/
def ontoLanes (train : Bool) (bs : List Byte) (l : Link) : Link :=
  let (b0, b1) := if l.lanes = 3 then unzipLanes bs else if l.lanes = 2 then ([], bs) else (bs, [])
  let r0 := scramble l.scram0 b0
  let r1 := scramble l.scram1 b1
  { l with scram0 := r0.2, scram1 := r1.2, wire := laneWords 0 (if train then b0 else r0.1) ++ laneWords 1 (if train then b1 else r1.1) }

/-- A flit goes onto given lanes. -/
def emitOn (lanes : BitVec 2) (p : Nat) (f : Flit) (s : State) : State :=
  modLink p (fun l =>
    let bs := flitBytes f (ackOf l)
    { ontoLanes (f.type.toNat == ftTrain) bs { l with lanes := lanes } with lastFlit := bs, lanes := l.lanes }) s

/-- A flit goes onto the lanes in use. -/
def emit (p : Nat) (f : Flit) (s : State) : State := emitOn (link s p).lanes p f s

/-- A flit of an unsequenced type carries the next number to be assigned (R190). -/
def plain (l : Link) (type : Nat) (body : List (BitVec 256)) : Flit := { type := BitVec.ofNat 4 type, body := body, seq := l.nextSeq }

/-- The oldest copy on the block goes to the Granary (R207). -/
def spill (p : Nat) (s : State) : State :=
  let l := link s p
  match l.replay with
  | [] => s
  | f :: rest =>
    let a := l.granaryBase.toNat + 256 * l.spillNext.toNat
    let s := issueWrite (.spill (BitVec.ofNat 7 p)) (cellsAt a (flitBytes f (ackOf l))) 2 false none none s
    setLink p { l with replay := rest, spilled := l.spilled + 1, spillNext := BitVec.ofNat 15 ((l.spillNext.toNat + 1) % max 1 l.granaryFlits.toNat) } s

/-- A spill write that the memory ports have not granted: new sequenced flits stall until they do (R207). Config's `grantDelay` says when. -/
def spillStalls (s : State) (p : Nat) : Bool :=
  s.memp.writes.any fun w => w.use == .spill (BitVec.ofNat 7 p) && !(reached s (later w.at_ (Config.grantDelay w.id)))

/-- A new sequenced flit: numbered, kept until it is acknowledged, sent (R201, R203). R206 restarts the replay timer and does not say when it
starts for a first flit: it starts when a flit is sent with none unacknowledged before it (DESIGN CHOICE, log entry 155; unsafe). -/
def sendNew (p : Nat) (f : Flit) (s : State) : State :=
  let l := link s p
  let f := { f with seq := l.nextSeq }
  let t := now s
  let fresh := unacked l == 0
  let s := countSent p f (emit p f s)
  let s := modLink p (fun l => { l with
    nextSeq := l.nextSeq + 1, replay := l.replay ++ [f], quietAt := none, timer := if fresh then some t else l.timer, ackAt := if fresh then t else l.ackAt }) s
  if 256 < (link s p).replay.length then spill p s else s

/-- The slots a DATA flit takes from a queue: up to `n`, transactions end to end, none begun that has another epoch than the first
(R192, R195). Answers the slots with whether each begins a transaction, and a unicast one's destination, the units begun, and what is left. -/
def takeSlots (ep : BitVec 1) : Nat → List TxItem → List (BitVec 256 × Bool × Option (BitVec 9)) × List Nat × List TxItem
  | 0, q => ([], [], q)
  | _, [] => ([], [], [])
  | n + 1, i :: q =>
    match i.slots with
    | [] => takeSlots ep n q
    | x :: xs =>
      if i.fresh ∧ i.epoch ≠ ep then ([], [], i :: q)
      else
        let rest := if xs.isEmpty then q else { i with slots := xs, fresh := false } :: q
        let (ss, us, q') := takeSlots ep n rest
        ((x, i.fresh, if i.fresh then i.dest else none) :: ss, (if i.fresh then i.unit.toList else []) ++ us, q')

/-- A DATA flit from the queue of a link; the units whose first slot it carries have been sent (R58, R192). -/
def sendData (p : Nat) (s : State) : State :=
  let l := link s p
  match l.txq with
  | [] => s
  | i :: _ =>
    let (xs, us, q) := takeSlots i.epoch 7 l.txq
    let (ss, s) := stampSlots xs s
    let start := (List.range 7).foldl (fun (m : BitVec 7) k => setBit m k ((ss.getD k (0, false)).2)) 0
    let f : Flit := { type := BitVec.ofNat 4 ftData, epoch := i.epoch, start := start, used := BitVec.ofNat 3 ss.length, body := ss.map fun x => x.1 }
    let s := sendNew p f (modLink p (fun l => { l with txq := q }) s)
    us.foldl (fun s u => modUnit u (fun x => { x with sent := true }) s) s

/-- A new sequenced flit is ready: CURFEW, CTRL, DATA, in that order; before a fabric ID only CTRL (R210, R226). -/
def newReady (s : State) (l : Link) : Bool :=
  !l.ctrlq.isEmpty || (s.gbl.fabricValid && l.joined && (!l.curfewq.isEmpty || !l.txq.isEmpty))

/-- A link stops for a planned pause: its replay timer stops (R206, R213, R215). -/
def pauseLink (p : Nat) (k : Pause) (s : State) : State :=
  let t := now s
  modLink p (fun l => { l with pause := some (k, t), timer := none, switched := false, phase := .detect, idDue := false, confirmed := false }) s

/-- What an answer of this end that grants a request does once it is sent: the exchange is complete, so a PARK_ACK parks the link, a WIDTH_ACK
and a SPEED_ACK begin the pause (R213, R215, R227). -/
def ackSent (p : Nat) (sub : BitVec 8) (w1 : Word) (s : State) : State :=
  if bitAt w1 8 then s
  else if sub = 0x06 then parkLink p s
  else if sub = 0x02 then pauseLink p .width (modLink p (fun l => { l with widthTo := some (w1.extractLsb' 0 2) }) s)
  else if sub = 0x04 then pauseLink p .speed (modLink p (fun l => { l with speedAck := true, speedReq := false }) s)
  else s

/-- A CTRL flit from the queue. -/
def sendCtrl (p : Nat) (s : State) : State :=
  let l := link s p
  match l.ctrlq with
  | [] => s
  | (sub, w1, w2, w3) :: rest =>
    let f : Flit := { type := BitVec.ofNat 4 ftCtrl, body := wordSlots [place sub.toNat 0 8, w1, w2, w3] }
    ackSent p sub w1 (sendNew p f (setLink p { l with ctrlq := rest } s))

/-- Send the next new sequenced flit. -/
def sendSequenced (p : Nat) (s : State) : State :=
  let l := link s p
  match s.gbl.fabricValid && l.joined, l.curfewq with
  | true, (w0, w1) :: rest =>
    sendNew p { type := BitVec.ofNat 4 ftCurfew, body := wordSlots [w0, w1] } (setLink p { l with curfewq := rest } s)
  | _, _ => if !l.ctrlq.isEmpty then sendCtrl p s else sendData p s

/-- The copies in the Granary that a replay standing at copy `i` reads ahead: in order, up to 64 outstanding (R207). -/
def readAhead (p i : Nat) (s : State) : State :=
  let l := link s p
  (List.range (min 64 (l.spilled - i))).foldl (fun s k =>
    let j := i + k
    let q := l.acked + 1 + BitVec.ofNat 16 j
    let slot := (l.spillOldest.toNat + j) % max 1 l.granaryFlits.toNat
    if (l.granaryIn.any fun x => x.1 == q) || (s.memp.reads.any fun r => granarySeq p r.use == some q) then s
    else issueRead (.granary (BitVec.ofNat 7 p) q) [(l.granaryBase.toNat + 256 * slot, 256)] 2 none none s) s

/-- Send the copy at which a replay stands. Copies in the Granary are read first, and IDLE goes out until this one has returned (R207). -/
def sendCopy (p i : Nat) (s : State) : State :=
  let s := readAhead p i s
  let l := link s p
  let q := l.acked + 1 + BitVec.ofNat 16 i
  let go := fun (f : Flit) (s : State) =>
    let s := countLink p 0 3 1 (countSent p f (emit p f s))
    modLink p (fun l => { l with granaryIn := l.granaryIn.filter fun x => x.1 != q, resend := if i + 1 < unacked l then some (i + 1) else none }) s
  if i < l.spilled then
    match l.granaryIn.find? fun x => x.1 == q with
    | some x => go x.2 s
    | none => emit p (plain l ftIdle []) s
  else match l.replay[i - l.spilled]? with
    | some f => go f s
    | none => modLink p (fun l => { l with resend := none }) s

/-- A TALLY flit: up to 28 of the entries that wait (R245). -/
def sendTally (p : Nat) (s : State) : State :=
  let l := link s p
  let n := 28 - l.refreshq.length
  emit p (plain l ftTally (wordSlots ((l.refreshq ++ l.tallyq).take 28)))
    (setLink p { l with refreshq := l.refreshq.drop 28, tallyq := l.tallyq.drop n, tallyDue := none } s)

/-- The interval of TIME flits (R370). -/
def timeInterval (s : State) : Nat :=
  if s.alm.state = .acquiring ∨ s.alm.state = .slewing then 10 * usUnits else bits s.alm.ctl 32 16 * usUnits

/-- The body of a TIME flit on a link (R370). -/
def timeWords (s : State) (p : Nat) : List Word :=
  let t := timeLink s p
  let synced := isMaster s || s.alm.state == .locked
  let steps := if isMaster s then 0 else if synced then s.alm.steps.toNat else 0xFF
  let gm := if isMaster s then s.gbl.fabricId else s.alm.gmId
  [s.alm.now + BitVec.ofNat 64 (bits s.alm.serdesLat 0 16), t.peerSend, t.peerRecv, place steps 0 8 ||| place gm.toNat 8 9 ||| flag synced 17]

/-- A TIME flit is due: the interval of the state of this moment has passed since the last, or none has gone out, or the time has been set back to before it
(R366, R370). -/
def timeDue (s : State) (l : Link) : Bool :=
  match l.timeAt with
  | none => true
  | some t => !(reached s t) || reached s (later t (timeInterval s))

/-- A TIME flit at its time. -/
def sendTime (p : Nat) (s : State) : State :=
  let t := now s
  emit p (plain (link s p) ftTime (wordSlots (timeWords s p))) (modLink p (fun l => { l with timeAt := some t }) s)

/-- The code of a phase (R224). -/
def phaseCode : TrainPhase → Nat
  | .detect => 0
  | .equalise => 1
  | .align => 2
  | .confirm | .stopped => 4

/-- The phase after one whose action is done; ALIGN ends when the lanes have trained (R225). -/
def nextPhase : TrainPhase → TrainPhase
  | .detect => .equalise
  | .equalise => .align
  | x => x

/-- A TRAIN flit of a phase code (R224). SWITCH goes out on the old lanes, the others on those to be used (R213). ALIGN carries a new seed for lane 0's scrambler, and lane 1's is seeded too: both are the training's own. -/
def trainWith (p code : Nat) (s : State) : State :=
  let l := link s p
  let free := Config.freeWord s.free
  let lanes := trainLanes s p
  let rate := ((croft s (p / 3)).rateTo.getD (croft s (p / 3)).rate).toNat
  let seed := if code = 2 then bits free 10 32 else 0
  let s := emitOn (if code = 3 then l.lanes else lanes) p (plain l ftTrain (wordSlots [place code 0 4 ||| place lanes.toNat 4 2 ||| place rate 6 2 ||| place seed 10 32])) { s with free := s.free + 1 }
  if code = 2 then
    modLink p (fun l => { l with scram0 := BitVec.ofNat 31 seed, scram1 := (Config.freeWord (s.free + 1)).extractLsb' 0 31 }) { s with free := s.free + 1 }
  else s

/-- A TRAIN flit of the phase training is in; whether the phase's action ends with it is the macro's, a free value (R225). -/
def sendTrain (p : Nat) (s : State) : State :=
  let done := bitAt (Config.freeWord s.free) 63
  modLink p (fun l => { l with phase := if done then nextPhase l.phase else l.phase }) (trainWith p (phaseCode (link s p).phase) s)

/-- CONFIRM's LINK_ID: no number is its own, since a link's numbers begin when it joins and one that trains sends nothing sequenced (R201, R219,
R225; DEDUCED, log entry 156). -/
def sendConfirm (p : Nat) (s : State) : State :=
  let f := plain (link s p) ftCtrl (wordSlots [place 0x08 0 8, linkIdWord s p, 0, 0])
  modLink p (fun l => { l with idDue := false }) (emit p f s)

/-- A flit boundary of a link that trains; one whose training has stopped sends nothing (R225). -/
def sendTraining (p : Nat) (s : State) : State :=
  let l := link s p
  if l.phase = .stopped then s else if l.idDue then sendConfirm p s else sendTrain p s

/-- A flit time of an unparked link: whether its calibration has ended is the macro's, a free value; it trains from DETECT then (R225). -/
def calibrateLink (p : Nat) (s : State) : State :=
  let done := bitAt (Config.freeWord s.free) 63
  modLink p (fun l => if done then { l with state := .training, phase := .detect, idDue := false, confirmed := false } else l) { s with free := s.free + 1 }

/-- A flit boundary of a link in a planned pause: one SWITCH flit of a width or speed change; then the realignment at a new width, which is
ALIGN, and at a new rate, once the croft has relocked, CONFIRM; a calibration trains from DETECT (R213, R215, R452). -/
def sendPaused (p : Nat) (k : Pause) (s : State) : State :=
  let l := link s p
  match k with
  | .calibration => sendTraining p s
  | .width => if l.switched then trainWith p 2 s else trainWith p 3 (setLink p { l with switched := true } s)
  | .speed =>
    if !l.switched then trainWith p 3 (setLink p { l with switched := true } s)
    else if l.phase = .confirm then sendTraining p s
    else s

/-- A TALLY flit is ready; `late` after 10 µs it goes ahead of sequenced flits (R210). -/
def tallyReady (s : State) (l : Link) (late : Bool) : Bool :=
  s.gbl.fabricValid && l.joined
  && (if late then l.tallyDue.any fun t => reached s (later t (10 * usUnits)) else !l.refreshq.isEmpty || !l.tallyq.isEmpty || l.tallyDue.isSome)

/-- A link that drains to park asks once nothing is outstanding (R227). -/
def askPark (p : Nat) (s : State) : State :=
  let l := link s p
  if l.parkReq && !l.parkSent && linkFree l && l.txq.isEmpty && unacked l == 0 && !(planeBusy s p) then
    queueCtrl p 0x05 0 (modLink p (fun l => { l with parkSent := true }) s)
  else s

/-- The partner's PARK_REQ is granted once the link has drained (R227). -/
def grantPark (p : Nat) (s : State) : State :=
  let l := link s p
  if l.parkAgree && linkFree l && l.txq.isEmpty && unacked l == 0 && !(planeBusy s p) then
    queueCtrl p 0x06 0 (modLink p (fun l => { l with parkAgree := false }) s)
  else s

/-- IDLE: with nothing unacknowledged and nothing queued the link has been quiet from now (R227). -/
def sendIdle (p : Nat) (s : State) : State :=
  let t := now s
  let s := emit p (plain (link s p) ftIdle []) s
  modLink p (fun l => if unacked l = 0 ∧ l.quietAt.isNone then { l with quietAt := some t } else l) s

/-- The NACK to send: none before a fabric ID (R226). -/
def nackOut (s : State) (l : Link) : Option (BitVec 16 × BitVec 3) := if s.gbl.fabricValid then l.nackDue else none

/-- The first flit that is ready on an UP link, in the order of R210. -/
def sendUp (p : Nat) (s : State) : State :=
  let s := grantPark p (askPark p s)
  let l := link s p
  if timeDue s l then sendTime p s
  else match nackOut s l with
    | some (e, c) => emit p (plain l ftNack (wordSlots [place c.toNat 16 3 ||| place e.toNat 0 16])) (setLink p { l with nackDue := none } s)
    | none =>
      if tallyReady s l true then sendTally p s
      else match l.resend with
        | some i => sendCopy p i s
        | none =>
          if newReady s l && decide (unacked l < replayWindow l) && !(spillStalls s p) then sendSequenced p s
          else if tallyReady s l false then sendTally p s
          else sendIdle p s

/-- An LPI link wakes for something to send: its lanes are to regain lock within 1 µs (R227). -/
def wakeLpi (p : Nat) (s : State) : State :=
  let l := link s p
  if l.lpiWake.isNone && (timeDue s l || (nackOut s l).isSome || newReady s l || tallyReady s l false || l.resend.isSome || l.parkReq || l.parkAgree || askDue s p l) then
    setLink p { l with lpiWake := some (now s), lock0 := false, lock1 := false } s
  else s

/-- FLIT_SEND: one flit boundary of a link (R202, R210). In the safe state only IDLE goes out, its ACK frozen (R408). -/
def flitSend (p : Nat) (s : State) : State :=
  let l := link s p
  if !(lanesRun s && hasLink s p) then s
  else if s.flt.safe then (if l.state = .up then emit p (plain l ftIdle []) s else s)
  else match l.state with
    | .up =>
      match l.pause with
      | some (k, _) => sendPaused p k s
      | none => sendUp p s
    | .training => if l.miswiredAt.isSome then s else sendTraining p s
    | .retraining => sendTraining p s
    | .calibrating => if s.gbl.calibrated.getLsbD (p / 3) then calibrateLink p s else s
    | .lpi => wakeLpi p s
    | _ => s

/-- FLIT_SEND. -/
def execFlitSend (link_ : BitVec 7) (s : State) : Host.Outcome State Fault Refusal := .next (flitSend link_.toNat s)

/-! ## Receiving (R187, R191, R192, R194, R204, R217) -/

/-- The lane that carried byte `j` (R188). -/
def laneOfByte (l : Link) (j : Nat) : Nat := if l.lanes = 3 then j % 2 else if l.lanes = 2 then 1 else 0

/-- Corrected bytes of a lane are counted; CSYM each time the count passes a multiple of 2^CSYM_SHIFT (R217). -/
def countCsym (p lane n : Nat) (s : State) : State :=
  if n = 0 then s
  else
    let l := link s p
    let old := if lane = 0 then l.csym0 else l.csym1
    let new := satAdd old n
    let k := 2 ^ l.csymShift.toNat
    let s := setLink p (if lane = 0 then { l with csym0 := new } else { l with csym1 := new }) s
    (List.range (new.toNat / k - old.toNat / k)).foldl (fun s _ => raise (srcLane p lane) kCsym (new.toNat % 2 ^ 52) [] none s) s

/-- A flit is discarded with LINK_PROTOCOL (R191, R223). -/
def protocolError (p : Nat) (w : Word) (s : State) : State :=
  raise (srcLink p) kLinkProtocol (bits w 0 52) [] none (modLink p (fun l => { l with discarded := l.discarded + 1 }) s)

/-- The header of a flit breaks R190 or R191: a reserved code or bit, or a DATA field on another type. -/
def headerBad (w : Word) : Bool :=
  decide (8 ≤ bits w 32 4) || outside w (maskAt 38 11 ||| maskAt 0 37)
  || (bits w 32 4 != ftData && (bits w 38 10 != 0 || bitAt w 36))

/-- The progress of a slot stream (R192): slots left of the transaction in progress, its source and charged lines, whether the stream
has kept to the rules, and transactions begun and completed in this flit. -/
structure Stream where
  left : Nat
  part : Option Txn
  ok   : Bool := true
  deriving DecidableEq, Repr

/-- What a header slot says of its transaction (R193, R196, R197, R244). -/
def headTxn (x : List Byte) : Txn :=
  let r := BitVec.ofNat 64 (ofLE (x.take 8))
  let w := BitVec.ofNat 64 (ofLE ((x.drop 8).take 8))
  let k := BitVec.ofNat 64 (ofLE ((x.drop 16).take 8))
  let st := BitVec.ofNat 64 (ofLE ((x.drop 24).take 8))
  let cast : BitVec 2 := r.extractLsb' 19 2
  { kind := k.extractLsb' 59 5, len := bits r 21 9, cast := cast, epoch := r.extractLsb' 18 1, src := r.extractLsb' 9 9, dest := r.extractLsb' 0 9,
    ptag := if cast = 0 then w.extractLsb' 48 16 else 0, signalled := !(bitAt k 63) && bitAt k 51, tag := st.extractLsb' 0 16, stripe := st.extractLsb' 16 40,
    signal := bitAt st 57, answer := bitAt st 56 }

/-- The lines a transaction takes as it lands: uncharged ones, of kind 16 and above, take none (R197, R233). -/
def headLines (t : Txn) : Nat := if t.kind.getLsbD 4 then 0 else txLines t

/-- One used slot of the stream. Zero fill longer than what is left of a failed stripe (R194) meets no header slot, and so ends the link before the
ABORT flit arrives, by R192's check (DESIGN CHOICE, log entry 157; safe). -/
def streamSlot (start : Bool) (x : List Byte) (t : Stream) : Stream :=
  if t.left = 0 then
    let len := bits (BitVec.ofNat 64 (ofLE (x.take 8))) 21 9
    { left := len - 1, part := if len ≤ 1 then none else some (headTxn x), ok := t.ok && start && len != 0 }
  else { left := t.left - 1, part := if t.left = 1 then none else t.part, ok := t.ok && !start }

/-- The stripe in progress over a link lands no more: its lines are given back, without FREED advancing, or the record that it found no room. -/
def clearPartial (p : Nat) (s : State) : State :=
  let s := match s.brn.partials.find? fun y => y.1 == p with
    | some y => modTgtTally y.2.1.toNat (fun t => { t with held := t.held - y.2.2 }) s
    | none => s
  modLink p (fun l => { l with rxOver := false }) { s with brn := { s.brn with partials := s.brn.partials.filter fun y => y.1 != p } }

/-- A stripe's header slot lands over a link: its lines are held until it is whole, or it is one that R252 discards. -/
def startPartial (p : Nat) (x : Txn) (s : State) : State :=
  let n := headLines x
  if n = 0 then s
  else if overLines s x.src.toNat n then countOverrun x (modLink p (fun l => { l with rxOver := true, overs := l.overs ++ [x] }) s)
  else highWater (modTgtTally x.src.toNat (fun t => { t with held := t.held + n }) { s with brn := { s.brn with partials := s.brn.partials ++ [(p, x.src, n)] } })

/-- A discarded transaction that ABORT cuts short is answered as it would have been once whole; a sealed one, whose answer needs its tag slot, gets none
(R252, R358). DESIGN CHOICE: log entry 179. -/
def abortOver (p : Nat) (x : Txn) (s : State) : State :=
  let sealed := match itemOf s x with
    | some u => u.parish.any (parSealed s)
    | none => parSealed s (tagParish s x.ptag)
  overrunItem x (if sealed then s else answerOverrun (.link (BitVec.ofNat 7 p)) x s)

/-- The stripe in progress ends under ABORT: its lines are freed, and it is counted (R194). -/
def abortStripe (p : Nat) (s : State) : State :=
  let l := link s p
  let s := modLink p (fun l => { l with rxLeft := 0, rxOver := false, overs := if l.rxOver then l.overs.dropLast else l.overs, aborts := l.aborts + 1 }) (dropPartials p s)
  match l.rxOver, l.overs.getLast? with
  | true, some x => abortOver p x s
  | _, _ => s

/-- The body of a DATA flit: its slots keep to the stream's rules, or the link is declared down at once (R192). -/
def takeData (p : Nat) (bs : List Byte) (s : State) : State :=
  let w := headerOf bs
  let s := if bitAt w 48 then abortStripe p s else s
  let l := link s p
  let used := bits w 45 3
  let starts := bits w 38 7
  let t := (List.range used).foldl (fun t k => streamSlot (starts.testBit k) (slotOf bs k) t) { left := l.rxLeft, part := none }
  if t.ok && starts / 2 ^ used == 0 && (used == 7 || t.left == 0) then
    let s := modLink p (fun l => { l with rxLeft := t.left }) s
    if starts = 0 ∧ t.left ≠ 0 then s
    else
      let s := clearPartial p s
      match t.part with
      | some x => startPartial p x s
      | none => s
  else linkDown p (raise (srcLink p) kLinkProtocol (bits w 0 52) [] none s)

/-- A sequenced flit that is next in order is delivered (R204). The contents it brings are rows of their own. -/
def deliver (p : Nat) (bs : List Byte) (s : State) : State :=
  let w := headerOf bs
  let type := bits w 32 4
  let s := countFlit p 1 type (bits w 45 3) s
  let s := modLink p (fun l => { l with expected := l.expected + 1, nackHold := if l.nackHold.any (fun x => x.1 == l.expected) then none else l.nackHold, quietAt := none }) s
  if type = ftData then takeData p bs s
  else if type = ftCtrl then
    let sub := ((slotOf bs 0).getD 0 0).toNat
    if sub = 0 ∨ 8 < sub then protocolError p w s else s
  else s

/-- The partner trains while the link is UP (R219). -/
def trainFlit (p : Nat) (s : State) : State := if (link s p).state = .up ∨ (link s p).state = .lpi then retrain p s else s

/-- A corrected flit gives its ACK, whatever its type, and is handled by type and sequence number (R191, R204). Without a fabric ID only TRAIN, CTRL, TIME and
IDLE flits are accepted: nothing of another is used, and it is counted (R226). -/
def takeFlit (p : Nat) (bs : List Byte) (s : State) : State :=
  let w := headerOf bs
  let type := bits w 32 4
  if headerBad w then protocolError p w s
  else if !s.gbl.fabricValid && [ftData, ftCurfew, ftNack, ftTally].contains type then modLink p (fun l => { l with discarded := l.discarded + 1 }) s
  else
    let s := takeAck p (w.extractLsb' 16 16) s
    if type = ftTrain then trainFlit p s
    else if !(ftSequenced type) then s
    else
      let d := (w.extractLsb' 0 16 - (link s p).expected).toNat
      if d = 0 then deliver p bs s
      else if 32769 ≤ d then modLink p (fun l => { l with duplicates := l.duplicates + 1 }) s
      else if d ≤ 32767 then nackFor p 3 s
      else linkDown p (raise (srcLink p) kLinkProtocol (bits w 0 52) [] none s)

/-- A link leaves LPI: it is UP, and what it had to ask goes out (R212, R214, R227). -/
def leaveLpi (p : Nat) (s : State) : State :=
  if (link s p).state = .lpi then askChanges p (modLink p (fun l => { l with state := .up, lpiWake := none, quietAt := none }) s) else s

/-- FLIT_RECEIVE: 256 bytes come in, are corrected and checked (R187, R200, R204). A flit on an LPI link wakes it. -/
def flitReceive (p : Nat) (raw : List Byte) (s : State) : State :=
  let s := leaveLpi p s
  match rsDecode raw with
  | none => nackFor p 1 (raise (srcLink p) kFlitUncorr (link s p).expected.toNat [] none (countLink p 1 4 1 s))
  | some (bs, ps) =>
    let l := link s p
    let on := fun n => (ps.filter fun j => laneOfByte l j == n).length
    let s := countCsym p 1 (on 1) (countCsym p 0 (on 0) s)
    if crcOk bs then takeFlit p bs s else nackFor p 2 (countLink p 1 4 1 s)

/-- A Granary copy has been read back (R207). -/
def granaryBack (p : Nat) (q : BitVec 16) (bs : List Byte) (s : State) : State :=
  modLink p (fun l => { l with granaryIn := l.granaryIn ++ [(q, flitOf bs)] }) s

/-! ## Training and joining (R219, R220, R224-R226) -/

/-- TRAIN_FLIT (R219). -/
def execTrainFlit (link_ : BitVec 7) (s : State) : Host.Outcome State Fault Refusal :=
  .next (if linkHears s link_ && (link s link_.toNat).pause.isNone then trainFlit link_.toNat s else s)

/-- CONFIRM is passed: a link that retrained rewinds and goes on, another joins; requests that stand go out (R220, R225, R226). -/
def trainDone (p : Nat) (s : State) : State :=
  let l := link s p
  let s := setLink p { l with state := .up, retrainAt := none } s
  askChanges p (if l.joined then rewind p s else join p s)

/-- A word of retimer diagnostics as LNK_RETIMER0 and LNK_RETIMER1 show it: reserved bits 0, PRESENT set (R228). -/
def retimerWord (d : BitVec 32) : BitVec 32 := (d &&& 0xFFFFFF02) ||| 1

/-- A link is in a pause of a kind. -/
def inPause (l : Link) (k : Pause) : Bool := l.pause.any fun x => x.1 == k

/-- A link waits for the partner's LINK_ID at a new rate. -/
def confirming (l : Link) : Bool := inPause l .speed && l.phase == .confirm

/-- Some lane in use has lock. -/
def someLock (l : Link) : Bool := (l.lanes.getLsbD 0 && l.lock0) || (l.lanes.getLsbD 1 && l.lock1)

/-- Every lane in use has lock. -/
def allLock (l : Link) : Bool := (!l.lanes.getLsbD 0 || l.lock0) && (!l.lanes.getLsbD 1 || l.lock1)

/-- A lane in use has no lock: the link narrows to the other, or retrains where that has none either (R217, R219). -/
def unlocked (p lane : Nat) (s : State) : State :=
  let l := link s p
  let t := now s
  if someLock l then narrowLane p lane s
  else modLink p (fun l => { l with noLock := some (l.noLock.getD t) }) (if l.state = .up then retrain p s else s)

/-- A pause ends: the transmitter rewinds. The pause has not run the down timer; a lane that lost its lock meanwhile is seen to now (R213, R215-R217,
R219). -/
def resumeLink (p : Nat) (s : State) : State :=
  let l := link s p
  let d := match l.pause with
    | some (_, t) => elapsed s t
    | none => 0
  let s := rewind p (setLink p { l with pause := none, ackAt := later l.ackAt d } s)
  if allLock (link s p) then s else unlocked p (if l.lanes.getLsbD 0 && !l.lock0 then 0 else 1) s

/-- CONFIRM is passed: a calibration pause ends, or the training does (R225, R452). -/
def confirmDone (p : Nat) (s : State) : State := if inPause (link s p) .calibration then askChanges p (resumeLink p s) else trainDone p s

/-- More than two retimers stop the training: a link that has not joined is OFF, another stays in RETRAINING until DOWN_TIME (R225; DEDUCED, log entry
83). -/
def stopTraining (p : Nat) (s : State) : State :=
  let l := link s p
  if l.state = .training then setLink p { l with state := .off } s
  else modLink p (fun l => { l with phase := .stopped }) (if l.state = .retraining then s else retrain p s)

/-- LINK_TRAINED (R225): the lanes have passed ALIGN, and of them the link uses those it is to. More than two retimers stop the training. The link
is in CONFIRM then: its LINK_ID goes out, and it is done once the partner's has passed. -/
def linkTrained (p : Nat) (lanes retimers : BitVec 2) (d0 d1 : BitVec 32) (s : State) : State :=
  let l := link s p
  if 2 < retimers.toNat then stopTraining p (raise (srcLink p) kRetimerLimit retimers.toNat [] none s)
  else
    let use := lanes &&& trainLanes s p
    let s := setLink p { l with
      phase := .confirm, idDue := true,
      lanes := use, standby := ~~~use, lock0 := use.getLsbD 0, lock1 := use.getLsbD 1, lost := allowedLanes l &&& ~~~lanes, noLock := none,
      retimer0 := if 1 ≤ retimers.toNat then retimerWord d0 else 0, retimer1 := if 2 ≤ retimers.toNat then retimerWord d1 else 0 } s
    if l.confirmed then confirmDone p s else s

/-- The links of a croft in a speed change go on together once each of them has confirmed LINK_ID at the new rate (R215). -/
def speedResume (c : Nat) (s : State) : State :=
  let ps := (linksOf c).filter fun p => (link s p).pause.any fun x => x.1 == .speed
  if ps.all fun p => confirming (link s p) && (link s p).confirmed then nextSpeed c (ps.foldl (fun s p => askChanges p (resumeLink p s)) s) else s

/-- A checked LINK_ID does what the link waits for it to do; one in service takes the fabric ID when it can (R215, R225, R444). -/
def identified (p : Nat) (s : State) : State :=
  let l := link s p
  if l.state = .training ∨ l.state = .retraining then
    let s := setLink p { l with confirmed := true } s
    if l.phase = .confirm then confirmDone p s else s
  else if !l.joined then join p s
  else if inPause l .calibration then
    let s := setLink p { l with confirmed := true } s
    if l.phase = .confirm then confirmDone p s else s
  else if l.pause.isSome then speedResume (p / 3) (setLink p { l with confirmed := true } s)
  else takeFabricId s

/-- LINK_ID (R226, R444): role, plane, rate and fabric ID are checked; a link that passes is identified. -/
def linkId (p : Nat) (w1 : Word) (s : State) : State :=
  let s := modLink p (fun l => { l with partnerId := some w1 }) s
  let l := link s p
  if bits w1 0 7 ≠ p ∨ mismatched s l then miswired p (bits w1 0 7) s
  else if !(bitAt w1 14) ∨ !(bitAt w1 (25 + (croft s (p / 3)).rate.toNat)) then s
  else identified p s

/-- A link to which a LINK_ID can come: in service, in a pause, or training (R225, R226). -/
def linkNames (s : State) (p : Nat) : Bool :=
  let l := link s p
  running s && hasLink s p && (l.state == .up || l.state == .lpi || l.state == .training || l.state == .retraining) && l.miswiredAt.isNone

/-- MISWIRED_RETRAIN (R226): 100 ms after MISWIRED the link trains again. -/
def execMiswiredRetrain (link_ : BitVec 7) (s : State) : Host.Outcome State Fault Refusal :=
  .next (let p := link_.toNat
    match (link s p).miswiredAt with
    | some t => if running s && reached s (later t (100 * msUnits)) then modLink p (fun l => { l with miswiredAt := none }) s else s
    | none => s)

/-! ## Width changes (R212, R213) -/

/-- WIDTH_REQ: granted unless it names a lane the link is not allowed; the partner's request prevails over one of this end, which is repeated after
the change. A lane to be added is in STANDBY then; the pause begins once the WIDTH_ACK is sent (R212, R213, R218, R442). -/
def widthReq (p : Nat) (lanes : BitVec 2) (s : State) : State :=
  if lanes = 0 ∨ lanes &&& ~~~(laneLimit s p) ≠ 0 then queueCtrl p 0x02 (flag true 8 ||| place lanes.toNat 0 2) s
  else queueCtrl p 0x02 (place lanes.toNat 0 2) (modLink p (fun l => { l with widthTo := some lanes }) (toStandby p lanes s))

/-- WIDTH_REQ. -/
def execWidthReq (link_ : BitVec 7) (lanes : BitVec 2) (s : State) : Host.Outcome State Fault Refusal :=
  .next (if linkHears s link_ && (link s link_.toNat).pause.isNone then widthReq link_.toNat lanes s else s)

/-- WIDTH_ACK (R212, R213): a grant begins the change; a refusal ends the request. One that comes while a change of the partner's is under way
answers nothing: this end's request is treated as refused and repeated. -/
def widthAck (p : Nat) (lanes : BitVec 2) (refuse : Bool) (s : State) : State :=
  if (link s p).widthReq.isNone ∨ (link s p).widthTo.isSome then s
  else if refuse ∨ lanes = 0 then modLink p (fun l => { l with widthReq := none, widthAsked := false, narrow := .none }) s
  else pauseLink p .width (modLink p (fun l => { l with widthTo := some lanes }) s)

/-- WIDTH_CHANGE_DONE (R213): lock is confirmed at the new width; a link narrowed for health stays so (R218); a request of this end that is still
open is repeated. -/
def widthDone (p : Nat) (s : State) : State :=
  let l := link s p
  let lanes := l.widthTo.getD l.lanes
  let mine := l.widthReq = some lanes
  let s := setLink p { l with
    lanes := lanes, standby := ~~~lanes, widthTo := none, lock0 := lanes.getLsbD 0, lock1 := lanes.getLsbD 1, lost := l.lost &&& ~~~lanes,
    stay := if mine ∧ l.narrow = .health then lanes else l.stay, widthReq := if mine then none else l.widthReq, widthAsked := false } s
  askChanges p (resumeLink p s)

/-! ## Speed changes (R214, R215) -/

/-- MAX_RATE of PWR_CTL (R391). -/
def maxRate (s : State) : Nat := bits s.pwr.ctl 4 2

/-- SPEED_REQ: the partner's request is refused for a reserved rate, a rate faster than MAX_RATE, or one other than a change in progress; the pause
begins once the SPEED_ACK is sent. The croft's other links ask their partners in turn (R214, R215). -/
def speedReq (p : Nat) (rate : BitVec 2) (s : State) : State :=
  let c := p / 3
  let x := croft s c
  if rate = 3 ∨ rate.toNat < maxRate s ∨ x.rateTo.any (· ≠ rate) then queueCtrl p 0x04 (flag true 8 ||| place rate.toNat 0 2) s
  else
    let s := modCroft c (fun x => { x with rateTo := some rate }) s
    let s := queueCtrl p 0x04 (place rate.toNat 0 2) (modLink p (fun l => { l with speedReq := false }) s)
    ((linksOf c).filter fun x => x != p).foldl (fun s x => askSpeed x s) s

/-- SPEED_REQ. -/
def execSpeedReq (link_ : BitVec 7) (rate : BitVec 2) (s : State) : Host.Outcome State Fault Refusal :=
  .next (if linkHears s link_ && (link s link_.toNat).pause.isNone then speedReq link_.toNat rate s else s)

/-- A refused speed change ends on all three links: the rate stands, and a fault is raised (R214). -/
def speedRefused (c : Nat) (s : State) : State :=
  let s := raise (srcCroft c) kConfig (0x200000 + 0x10000 * c) [] none (modCroft c (fun x => { x with rateTo := none }) s)
  nextSpeed c ((linksOf c).foldl (fun s p =>
    let paused := inPause (link s p) .speed
    let s := modLink p (fun l => { l with speedReq := false, speedAck := false }) s
    if paused then resumeLink p s else s) s)

/-- SPEED_ACK (R214, R215). -/
def speedAck (p : Nat) (refuse : Bool) (s : State) : State :=
  if !(link s p).speedReq then s
  else if refuse then speedRefused (p / 3) s
  else pauseLink p .speed (modLink p (fun l => { l with speedReq := false, speedAck := true }) s)

/-- SPEED_CHANGE_DONE (R215): every joined link has exchanged, and the croft has relocked. Its links confirm LINK_ID at the new rate, and go on
together then. -/
def speedDone (c : Nat) (r : BitVec 2) (s : State) : State :=
  let s := modCroft c (fun x => { x with rate := r, rateTo := none, pllLock := true }) s
  let s := (linksOf c).foldl (fun s p => modLink p (fun l => { l with
    speedReq := false, speedAck := false, phase := if inPause l .speed then .confirm else l.phase, idDue := l.idDue || inPause l .speed }) s) s
  speedResume c s

/-- The limit of a pause (R216). -/
def pauseLimit : Pause → Nat
  | .width => 32 * usUnits
  | .speed => 160 * usUnits
  | .calibration => 120 * usUnits

/-- PAUSE_LIMIT_EXPIRY (R216): the link is in RETRAINING, and the down timer starts. -/
def execPauseLimitExpiry (link_ : BitVec 7) (s : State) : Host.Outcome State Fault Refusal :=
  .next (match (link s link_.toNat).pause with
    | some (k, t) => if running s && reached s (later t (pauseLimit k)) then modLink link_.toNat (fun l => { l with ackAt := now s }) (retrain link_.toNat s) else s
    | none => s)

/-! ## Parking and low-power idle (R227) -/

/-- PARK_REQ: the partner asks. The link drains as under PLANE_DRAIN, and its PARK_ACK goes out once it has (R172, R227). No rule says when a device refuses:
the model never does. DESIGN CHOICE: log entry 180. -/
def parkReq (p : Nat) (s : State) : State :=
  planesChanged s (modLink p (fun l => { l with parkAgree := true }) (withRoute { s.route with parkDrain := setBit s.route.parkDrain p true } s))

/-- PARK_REQ. -/
def execParkReq (link_ : BitVec 7) (s : State) : Host.Outcome State Fault Refusal :=
  .next (if linkHears s link_ && (link s link_.toNat).pause.isNone then parkReq link_.toNat s else s)

/-- CORE, ARITH and the CROFT domains are gated once a block that goes to PARKED has parked its links and posted its records; every stone is
QUIET then (R378, R379). -/
def gateCheck (s : State) : State :=
  if s.pwr.state == .parked && !s.pwr.gated && s.eng.cmds.isEmpty && s.memp.writes.isEmpty && s.memp.reads.isEmpty && (joinedLinks s).isEmpty then
    (List.range 8).foldl (fun s n => modStone n (fun x => { x with running := false }) s) { s with pwr := { s.pwr with gated := true, gatedAt := now s } }
  else s

/-- PARK_ACK (R227). -/
def parkAck (p : Nat) (refuse : Bool) (s : State) : State :=
  if !(link s p).parkSent then s
  else if refuse then
    planesChanged s (modLink p (fun l => { l with parkReq := false, parkSent := false }) (withRoute { s.route with parkDrain := setBit s.route.parkDrain p false } s))
  else parkLink p s

/-- PARK_ACK. -/
def execParkAck (link_ : BitVec 7) (refuse : Bool) (s : State) : Host.Outcome State Fault Refusal :=
  .next (if linkHears s link_ then gateCheck (parkAck link_.toNat refuse s) else s)

/-- LPI_ENTER (R227): the power state permits it, 2 µs have passed with nothing unacknowledged, nothing is queued. -/
def execLpiEnter (link_ : BitVec 7) (s : State) : Host.Outcome State Fault Refusal :=
  .next (let p := link_.toNat
    let l := link s p
    let quiet := l.quietAt.any fun t => reached s (later t (2 * usUnits))
    if running s && s.pwr.state == .idle && linkFree l && quiet && unacked l == 0 && l.txq.isEmpty && l.ctrlq.isEmpty && l.curfewq.isEmpty && l.nackDue.isNone then
      setLink p { l with state := .lpi, lpiWake := none, quietAt := none } s
    else s)

/-- LPI_WAKE_TIMEOUT (R227). -/
def execLpiWakeTimeout (link_ : BitVec 7) (s : State) : Host.Outcome State Fault Refusal :=
  .next (match (link s link_.toNat).lpiWake with
    | some t => if running s && reached s (later t usUnits) then retrain link_.toNat s else s
    | none => s)

/-! ## Lanes and link-down (R189, R217, R219) -/

/-- LANE_LOCK_CHANGE: a loss is an event of the lane; the link narrows, or retrains with no lane locked (R217, R219, R221). A lane that locks may
let the link wake, or be widened (R218, R227). -/
def laneLockChange (p lane : Nat) (lock : Bool) (s : State) : State :=
  let s := modLink p (fun l =>
    let l := { l with lost := if lock then l.lost &&& ~~~((1 : BitVec 2) <<< lane) else l.lost ||| ((1 : BitVec 2) <<< lane) }
    if lane = 0 then { l with lock0 := lock } else { l with lock1 := lock }) s
  let l := link s p
  if lock then
    let s := setLink p { l with noLock := none } s
    autoWiden p (if l.lpiWake.isSome && allLock l then leaveLpi p s else s)
  else
    let s := raise (srcLane p lane) kLaneLock 0 [] none s
    if (l.state != .up && l.state != .retraining) || l.pause.isSome then s else unlocked p lane s

/-- LANE_LOCK_CHANGE. -/
def execLaneLockChange (link_ : BitVec 7) (lane1 : Bool) (lock : Bool) (s : State) : Host.Outcome State Fault Refusal :=
  .next (let p := link_.toNat
    let l := link s p
    let old := if lane1 then l.lock1 else l.lock0
    if running s && hasLink s p && l.state != .off && l.state != .parked && old != lock then laneLockChange p (if lane1 then 1 else 0) lock s else s)

/-- DOWN_TIME of a link, in units. -/
def downUnits (l : Link) : Nat := l.downTime.toNat * usUnits

/-- DOWN_TIME has passed without lock, in RETRAINING, or without an acknowledgement advance (R219). -/
def downDue (s : State) (l : Link) : Bool :=
  let past := fun (t : Time) => reached s (later t (downUnits l))
  (l.state == .up || l.state == .retraining) && l.pause.isNone
  && (l.noLock.any past || l.retrainAt.any past || (decide (0 < unacked l) && past l.ackAt))

/-- CROFT_PLL_UNLOCK (R396): CLOCK at the croft's source. -/
def execCroftPllUnlock (croft_ : BitVec 5) (s : State) : Host.Outcome State Fault Refusal :=
  .next (let c := croft_.toNat
    if running s && hasCroft s c && (croft s c).pllLock then raise (srcCroft c) kClock 0 [] none (modCroft c (fun x => { x with pllLock := false }) s) else s)

end Sys2Proof.Machine
end

