-- ==== Sys2Proof/Machine/Power.lean ====
section
/-! DEFINITION. The power controller: power states, the cap and its heartbeat, levers, overshoot, the emergency inputs (R378-R391). -/

namespace Sys2Proof.Machine

/-! ## POWER_SET (R379) -/

/-- Every channel other than channel 0 is IDLE, PARKED or DISABLED; nothing else is in flight, held, open or armed (R379). -/
def mayPark (s : State) (id : Nat) : Bool :=
  (s.chn.chans.all fun e => e.1 == 0 || e.2.state == .idle) && s.chn.bells.isEmpty
  && (s.eng.cmds.all fun c => c.id == id || c.phase == .done)
  && linesHeld s == 0 && s.brn.arrivals.isEmpty && s.ter.recs.isEmpty && s.cur.state == .idle

/-- A link stops draining to park. -/
def stopPark (p : Nat) (s : State) : State :=
  planesChanged s (modLink p (fun l => { l with parkReq := false, parkSent := false }) (withRoute { s.route with parkDrain := setBit s.route.parkDrain p false } s))

/-- A PARKED block wakes: CORE runs, the links unpark and train, and the block is in the state it was in before (R380). Links that the
power controller itself has parked stay so, and comparator 4 stays as it is (R376). -/
def wakeBlock (s : State) : State :=
  if s.pwr.state ≠ .parked then s
  else
    let s := { s with pwr := { s.pwr with state := s.pwr.before, gated := false, coreAt := some (now s) } }
    (s.lnk.links.filter fun e => (e.2.parkReq || e.2.state == .parked) && !(s.pwr.parked.contains e.1)).foldl (fun s e => unparkLink e.1 (stopPark e.1 s)) s

/-- Links in LPI wake: the state ACTIVE has none there (R227, R378). -/
def wakeLinks (s : State) : State :=
  (s.lnk.links.filter fun e => e.2.state == .lpi && e.2.lpiWake.isNone).foldl
    (fun s e => modLink e.1 (fun l => { l with lpiWake := some (now s), lock0 := false, lock1 := false }) s) s

/-- POWER_SET. In a block that is PARKED and not yet gated, ACTIVE and IDLE wake it as R380 has it (log entry 181). -/
def runPowerSet (pkt : List Word) (id : Nat) (s : State) : State :=
  let to_ := pkSubop pkt % 4
  let wake := pw pkt 1
  if to_ = 3 ∨ (to_ ≠ 2 ∧ wake ≠ 0) then done id stBadCommand 0 s
  else if to_ = 2 then
    if !(mayPark s id) then done id stBusy 0 s
    else
      let s := if wake = 0 then cmpOff 4 s else cmpAt 4 wake s
      let s := { s with pwr := { s.pwr with before := if s.pwr.state = .parked then s.pwr.before else s.pwr.state, state := .parked } }
      done id stOk 0 (((joinedLinks s).filter fun e => !e.2.parkReq).foldl (fun s e => startPark e.1 s) s)
  else
    let s := wakeBlock s
    let s := { s with pwr := { s.pwr with state := if to_ = 0 then .active else .idle } }
    done id stOk 0 (if to_ = 0 then wakeLinks s else s)

/-- POWER_SET. -/
def execPowerSet (ch : BitVec 21) (pkt : List Word) (s : State) : Host.Outcome State Fault Refusal :=
  .next (asOp 0x8E pkt (startOther ch pkt (runPowerSet pkt)) s)

/-- Every link with EN = 1 has rejoined after a wake: the scheduler waits no longer (R380). -/
def rejoined (s : State) : State :=
  if s.pwr.coreAt.isSome && s.lnk.links.all fun e => !e.2.en || e.2.joined then { s with pwr := { s.pwr with coreAt := none } } else s

/-- 2 ms have passed since CORE ran, or every enabled link has rejoined (R380). -/
def rejoinDeadline (s : State) : State :=
  let s := rejoined s
  match s.pwr.coreAt with
  | some t => if reached s (later t (2 * msUnits)) then { s with pwr := { s.pwr with coreAt := none } } else s
  | none => s

/-- WAKE_REJOIN_DEADLINE (R380). -/
def execWakeRejoinDeadline (s : State) : Host.Outcome State Fault Refusal := .next (if stoppedByCurfew s then s else rejoinDeadline s)

/-! ## The effective cap (R381, R382, R385) -/

/-- FLOOR of REE_PWR_FLOOR and MIN_UP_LINKS. -/
def pwrFloor (s : State) : Nat := bits s.ree.pwrFloor 0 16
def minUpLinks (s : State) : Nat := bits s.ree.pwrFloor 16 7

/-- The cap in force before the floor: the orphan cap or the last CAP message's. -/
def capNow (s : State) : Nat := if s.pwr.orphanCap then bits s.ree.orphan 16 16 else s.pwr.capMsg.toNat

/-- The effective cap in 1/8 W; 0xFFFF is none (R382). -/
def effCap (s : State) : Nat := max (capNow s) (pwrFloor s)

/-- HYST of PWR_CTL. -/
def hyst (s : State) : Nat := bits s.pwr.ctl 8 8

/-- CAP_UNREACHABLE with a cause, and the event on operator vector 4 (R382). -/
def unreachable (cause : Nat) (s : State) : State := event 8 (raise srcPower kCapUnreachable cause [] none s)

/-- The last CAP lies below the floor (R382). -/
def belowFloor (s : State) : Bool := !s.pwr.orphanCap && decide (s.pwr.capMsg.toNat < pwrFloor s)

/-! ## Levers (R384, R386, R389) -/

/-- A setting of the levers beyond those in force: the Mill ceiling, further links narrowed, the throttle, further links parked. -/
structure Levers where
  ceiling : Nat
  narrow  : Nat
  thr     : Nat
  park    : Nat
  deriving DecidableEq, Repr

/-- Links that may be narrowed, from the highest down: joined, at ×2, fixed by nobody else (R386, R389). -/
def mayNarrow (s : State) : List Nat :=
  if bitAt s.pwr.ctl 0 then
    ((joinedLinks s).filter fun e => e.2.lanes == 3 && e.2.narrow == .none && !(s.pwr.narrowed.contains e.1)).reverse.map fun e => e.1
  else []

/-- Links that may be parked: those that the controller has narrowed or may narrow, from the highest down, leaving MIN_UP_LINKS up beside those
that park already (R386, R389). -/
def mayParkLinks (s : State) : List Nat :=
  if bitAt s.pwr.ctl 1 then
    let up := (joinedLinks s).filter fun e => !e.2.parkReq
    ((up.filter fun e => (s.pwr.narrowed ++ mayNarrow s).contains e.1 && !(s.pwr.parked.contains e.1)).reverse.map fun e => e.1).take
      (up.length - minUpLinks s)
  else []

/-- Links at ×1: those the power controller has narrowed, and those narrowed for health or by the operator, which count as narrowed (R389). -/
def narrowCount (s : State) : Nat :=
  s.pwr.narrowed.length + ((joinedLinks s).filter fun e => e.2.lanes != 3 && !(s.pwr.narrowed.contains e.1)).length

/-- Of the links at ×1 those whose lane has gone, and of the parked ones those that have parked: levers in effect (R386, R389). -/
def narrowIn (s : State) : Nat :=
  narrowCount s - (s.pwr.narrowed.filter fun p => (link s p).joined && (link s p).lanes == 3).length
def parkIn (s : State) : Nat := (s.pwr.parked.filter fun p => !(link s p).joined).length

/-- The model's estimate under a setting. -/
def estimateOf (s : State) (v : Levers) : Nat :=
  Config.modelEstimate s.pwr.estimate v.ceiling (narrowCount s + v.narrow) v.thr (s.pwr.parked.length + v.park)

/-- The settings in the order in which levers are taken: the ceiling down, links narrowed, the throttle down, links parked (R386). -/
def leverOrder (s : State) : List Levers :=
  let c := s.pwr.ceiling.toNat
  let n := (mayNarrow s).length
  let k := (mayParkLinks s).length
  ((List.range (c + 1)).map fun i => { ceiling := c - i, narrow := 0, thr := 64, park := 0 })
  ++ ((List.range n).map fun i => { ceiling := 0, narrow := i + 1, thr := 64, park := 0 })
  ++ ((List.range 63).map fun i => { ceiling := 0, narrow := n, thr := 63 - i, park := 0 })
  ++ ((List.range k).map fun i => { ceiling := 0, narrow := n, thr := 1, park := i + 1 })

/-- The target: the first setting whose estimate is at most the effective cap less HYST; none where no lever reaches it. -/
def target? (s : State) : Option Levers := (leverOrder s).find? fun v => decide (estimateOf s v ≤ effCap s - hyst s)

/-- The last setting of the order: every permitted lever at its limit. -/
def allLevers (s : State) : Levers := ((leverOrder s).getLast?).getD { ceiling := 0, narrow := 0, thr := 1, park := 0 }

/-- Narrow links to lane 0 for the power controller. -/
def narrowAll (ps : List Nat) (s : State) : State :=
  ps.foldl (fun s p => startWidth p 1 .power { s with pwr := { s.pwr with narrowed := s.pwr.narrowed ++ [p] } }) s

/-- Park links for the power controller. -/
def parkAll (ps : List Nat) (s : State) : State :=
  ps.foldl (fun s p => startPark p { s with pwr := { s.pwr with parked := s.pwr.parked ++ [p] } }) s

/-- Every lever started has taken effect (R386). -/
def leversDone (s : State) : Bool :=
  decide ((runningStones s).length ≤ s.pwr.ceiling.toNat)
  && s.pwr.narrowed.all (fun p => (link s p).lanes != 3 || !(link s p).joined) && s.pwr.parked.all fun p => !(link s p).joined

/-- The highest throttle level from `n` down at which the estimate, counting only levers already in effect, is within the cap; 1 where
none is (R386). -/
def throttleFor (s : State) : Nat → Nat
  | 0 => 1
  | n + 1 =>
    if Config.modelEstimate s.pwr.estimate (runningStones s).length (narrowIn s) (n + 1) (parkIn s) ≤ effCap s then n + 1
    else throttleFor s n

/-- Every lever permitted is at its limit and in effect, and the estimate still exceeds the effective cap (R382). -/
def leversSpent (s : State) : Bool :=
  effCap s != 0xFFFF && s.pwr.ceiling == 0 && s.pwr.throttle == 1 && (mayNarrow s).isEmpty && (mayParkLinks s).isEmpty && leversDone s
  && decide (effCap s < s.pwr.estimate.toNat)

/-- UNREACHABLE as it holds now, with a fault for each cause that begins to hold (R382). -/
def reach (s : State) : State :=
  let t := if belowFloor s && !s.pwr.belowFloor then unreachable 1 s else s
  let t := if leversSpent s && !s.pwr.leversSpent then unreachable 2 t else t
  { t with pwr := { t.pwr with belowFloor := belowFloor s, leversSpent := leversSpent s } }

/-- PWR_OVERSHOOT of an episode (R387): PEAK, DURATION in ns, ENERGY in nJ, the last two saturating. -/
def overshootWord (peak : BitVec 16) (dur energy : Nat) : Word :=
  place peak.toNat 48 16 ||| place (min dur (2 ^ 24 - 1)) 24 24 ||| place (min energy (2 ^ 24 - 1)) 0 24

/-- An episode has ended: CAP_OVERSHOOT, and PWR_OVERSHOOT holds it if it is the largest in energy since that was written (R387). -/
def overshootEnds (peak : BitVec 16) (dur energy : Nat) (s : State) : State :=
  let s := event 10 (raise srcPower kCapOvershoot energy [] none { s with pwr := { s.pwr with episode := none } })
  if bits s.pwr.overshoot 0 24 < energy ∨ s.pwr.overshoot = 0 then { s with pwr := { s.pwr with overshoot := overshootWord peak dur energy } } else s

/-- An episode begins where the estimate exceeds the effective cap, and ends where it does so no longer; the time since the last change counts
with the excess that held during it (R387). -/
def overshoot (s : State) : State :=
  let excess := s.pwr.estimate.toNat - effCap s
  let t := now s
  match s.pwr.episode with
  | none =>
    if 0 < excess then { s with pwr := { s.pwr with episode := some (t, BitVec.ofNat 16 excess, 0), episodeAt := t, excess := excess } } else s
  | some (t0, peak, e) =>
    let e := e + s.pwr.excess * elapsed s s.pwr.episodeAt
    if 0 < excess then
      { s with pwr := { s.pwr with episode := some (t0, BitVec.ofNat 16 (max peak.toNat excess), e), episodeAt := t, excess := excess } }
    else overshootEnds peak (elapsed s t0 / 16) (e / 128) s

/-- While the brake settings are in force every link at ×2 narrows, one that joins meanwhile too (R390). -/
def brakeNarrow (s : State) : State :=
  if !s.pwr.braked then s
  else
    let wide := (joinedLinks s).filter fun e => e.2.lanes == 3 && e.2.widthReq.isNone && !(s.pwr.narrowed.contains e.1)
    narrowAll (wide.reverse.map fun e => e.1) s

/-- A target is set and its levers are started at once; the throttle covers what has not yet taken effect (R386). Levers are only added
here; R388 releases them. An overshoot begins, goes on or ends with what has changed (R387). -/
def retarget (s : State) : State :=
  let s := brakeNarrow (overshoot s)
  let v := (target? s).getD (allLevers s)
  let s := reach s
  if effCap s = 0xFFFF then s
  else
    let narrow := (mayNarrow s).take v.narrow
    let park := (mayParkLinks s).take v.park
    let s := { s with pwr := { s.pwr with ceiling := BitVec.ofNat 4 (min s.pwr.ceiling.toNat v.ceiling) } }
    let s := parkAll park (narrowAll narrow s)
    let to_ := min s.pwr.throttleTo.toNat v.thr
    let level := if leversDone s then min s.pwr.throttle.toNat to_ else min s.pwr.throttle.toNat (throttleFor s 64)
    { s with pwr := { s.pwr with throttleTo := BitVec.ofNat 7 to_, throttle := BitVec.ofNat 7 (max 1 level) } }

/-- The throttle rises towards the target by at most 8 levels in a microsecond once every lever has taken effect (R386). -/
def raiseThrottle (s : State) : State :=
  if leversDone s && decide (s.pwr.throttle.toNat < s.pwr.throttleTo.toNat) && reached s (later s.pwr.throttleAt usUnits) then
    { s with pwr := { s.pwr with throttle := BitVec.ofNat 7 (min (s.pwr.throttle.toNat + 8) s.pwr.throttleTo.toNat), throttleAt := now s } }
  else s

/-! ## Cap messages (R381, R385) -/

/-- The power controller works: the REF domain runs, out of reset and of the safe state, with Steward started (R408, R414). -/
def powerOn (s : State) : Bool :=
  s.pins.pwrOk && !s.pins.aonReset && !s.pins.blockReset && (s.gbl.stage == .ready || s.gbl.stage == .calibrating) && !s.flt.safe
  && (s.cur.state == .idle || s.cur.state == .armed)

/-- Comparator 2 is armed for the heartbeat's timeout (R385). -/
def armHeartbeat (s : State) : State :=
  cmpNext 2 (bits s.ree.orphan 0 16 * msUnits) s

/-- CAP_MESSAGE (R381, R385). -/
def capMessage (m : Word) (bad : Bool) (s : State) : State :=
  let seq : BitVec 16 := m.extractLsb' 48 16
  let kind := bits m 40 8
  if bad ∨ 2 ≤ kind ∨ bits m 16 24 ≠ 0 ∨ (kind = 1 ∧ bits m 0 16 ≠ 0) then raise srcCap kCapMessage seq.toNat [] none s
  else
    let gap := s.pwr.capSeq.any (fun x => x + 1 != seq)
    let s := armHeartbeat s
    let s := { s with pwr := { s.pwr with capSeq := some seq, capGaps := if gap then s.pwr.capGaps + 1 else s.pwr.capGaps, orphan := false } }
    retarget (if kind = 0 then { s with pwr := { s.pwr with capMsg := m.extractLsb' 0 16, orphanCap := false } } else s)

/-- CAP_MESSAGE. -/
def execCapMessage (msg : Word) (uncorrectable : Bool) (s : State) : Host.Outcome State Fault Refusal :=
  .next (if powerOn s then capMessage msg uncorrectable s else s)

/-- CAP_HEARTBEAT (R385): comparator 2 fires. -/
def capHeartbeat (s : State) : State :=
  let s := markFired 2 (cmpOff 2 s)
  let s := { s with pwr := { s.pwr with orphan := true, orphanCap := true } }
  retarget (event 9 (raise srcPower kCapHeartbeat 0 [] none s))

/-- The heartbeat's timeout, when it is due. -/
def heartbeatDue (s : State) : State := if powerOn s && cmpFires s 2 then capHeartbeat s else s

/-- CAP_HEARTBEAT. -/
def execCapHeartbeat (s : State) : Host.Outcome State Fault Refusal :=
  .next (heartbeatDue s)

/-! ## Estimates, overshoot, releases (R383, R386-R388) -/

/-- The lever that is released next, in the reverse of the cutting order: unpark, throttle up, widen from the lowest link up, ceiling up;
nothing beyond the brake settings while these are in force (R388, R390). -/
inductive Release
  | unpark (p : Nat)
  | throttle
  | widen (p : Nat)
  | ceiling
  deriving DecidableEq, Repr

/-- The throttle level and the Mill ceiling up to which levers may be released: the brake settings while they are in force (R390). -/
def thrLimit (s : State) : Nat := if s.pwr.braked then bits s.ree.pwrBrake 0 7 else 64
def ceilLimit (s : State) : Nat := if s.pwr.braked then bits s.ree.pwrBrake 8 4 else 8

/-- The next lever to release. -/
def nextRelease (s : State) : Option Release :=
  match s.pwr.parked.getLast? with
  | some p => some (.unpark p)
  | none =>
    if s.pwr.throttleTo.toNat < thrLimit s then some .throttle
    else match (if s.pwr.braked then none else s.pwr.narrowed.min?) with
      | some p => some (.widen p)
      | none => if s.pwr.ceiling.toNat < ceilLimit s then some .ceiling else none

/-- The model's estimate with a lever released. -/
def releasedEstimate (s : State) (r : Release) : Nat :=
  let c := s.pwr.ceiling.toNat
  let n := narrowCount s
  let t := s.pwr.throttleTo.toNat
  let k := s.pwr.parked.length
  match r with
  | .unpark _ => Config.modelEstimate s.pwr.estimate c n t (k - 1)
  | .throttle => Config.modelEstimate s.pwr.estimate c n (min (thrLimit s) (t + 8)) k
  | .widen _ => Config.modelEstimate s.pwr.estimate c (n - 1) t k
  | .ceiling => Config.modelEstimate s.pwr.estimate (c + 1) n t k

/-- Whether a lever could be released is timed: it must stay so for 100 µs (R388). -/
def watchRelease (s : State) : State :=
  let fits := (nextRelease s).any fun r => decide (releasedEstimate s r ≤ effCap s - hyst s)
  { s with pwr := { s.pwr with belowSince := if fits then some (s.pwr.belowSince.getD (now s)) else none } }

/-- POWER_ESTIMATE (R383, R386, R387). -/
def powerEstimate (e : BitVec 16) (s : State) : State :=
  watchRelease (raiseThrottle (retarget { s with pwr := { s.pwr with estimate := e } }))

/-- POWER_ESTIMATE. -/
def execPowerEstimate (estimate : BitVec 16) (s : State) : Host.Outcome State Fault Refusal :=
  .next (if powerOn s then powerEstimate estimate s else s)

/-- Release a lever. -/
def release (r : Release) (s : State) : State :=
  match r with
  | .unpark p => unparkLink p (stopPark p { s with pwr := { s.pwr with parked := s.pwr.parked.filter (· ≠ p) } })
  | .throttle => { s with pwr := { s.pwr with throttleTo := BitVec.ofNat 7 (min (thrLimit s) (s.pwr.throttleTo.toNat + 8)) } }
  | .widen p =>
    let t := { s with pwr := { s.pwr with narrowed := s.pwr.narrowed.filter (· ≠ p) } }
    if (link s p).narrow = .power then startWidth p (widthLanes s p (link s p).width.toNat) .none t else t
  | .ceiling => { s with pwr := { s.pwr with ceiling := s.pwr.ceiling + 1 } }

/-- LEVER_RELEASE (R388): the estimate with the lever released has stayed within the cap less HYST for 100 µs. -/
def execLeverRelease (estimate : BitVec 16) (s : State) : Host.Outcome State Fault Refusal :=
  .next (match nextRelease s, s.pwr.belowSince with
    | some r, some t =>
      if powerOn s && reached s (later t (100 * usUnits)) && decide (estimate.toNat ≤ effCap s - hyst s) then
        raiseThrottle (release r { s with pwr := { s.pwr with belowSince := none } })
      else s
    | _, _ => s)

/-! ## The emergency inputs (R390) -/

/-- An emergency input is asserted: throttle and ceiling are limited, every link at ×2 narrows (R390). -/
def brakeAssert (therm : Bool) (s : State) : State :=
  let was := if therm then s.pins.therm else s.pins.brake
  if was then s
  else
    let s := { s with pins := if therm then { s.pins with therm := true } else { s.pins with brake := true } }
    let s := event (if therm then 12 else 11) (raise srcBrake (if therm then kThermWarn else kBrake) 0 [] none s)
    let thr := bits s.ree.pwrBrake 0 7
    let mill := bits s.ree.pwrBrake 8 4
    let s := { s with pwr := { s.pwr with
      braked := true, brakeEnd := none, throttle := BitVec.ofNat 7 (min s.pwr.throttle.toNat thr), throttleTo := BitVec.ofNat 7 (min s.pwr.throttleTo.toNat thr)
      ceiling := BitVec.ofNat 4 (min s.pwr.ceiling.toNat mill), belowSince := none } }
    retarget s

/-- An emergency input is deasserted; with both deasserted the 1 ms begins (R390). -/
def brakeDeassert (therm : Bool) (s : State) : State :=
  let s := { s with pins := if therm then { s.pins with therm := false } else { s.pins with brake := false } }
  if s.pins.brake || s.pins.therm || s.pwr.brakeEnd.isSome then s
  else { s with pwr := { s.pwr with brakeEnd := if s.pwr.braked then some (now s) else none } }

/-- BRAKE_ASSERT (R390): an input is asserted, or deasserted. -/
def execBrakeAssert (edge : BrakeEdge) (s : State) : Host.Outcome State Fault Refusal :=
  .next (if powerOn s then
      match edge with
      | .low therm => brakeAssert therm s
      | .high therm => brakeDeassert therm s
    else s)

/-- Both inputs have been deasserted for 1 ms: the brake settings are in force no longer, and what they limited is released lever by lever under
R388. -/
def brakeRelease (s : State) : State :=
  match s.pwr.brakeEnd with
  | some t => if reached s (later t msUnits) then { s with pwr := { s.pwr with braked := false, brakeEnd := none } } else s
  | none => s

/-- BRAKE_RELEASE (R390). -/
def execBrakeRelease (s : State) : Host.Outcome State Fault Refusal := .next (if powerOn s then brakeRelease s else s)

/-- REE_PWR_FLOOR or REE_ORPHAN is written: the effective cap may have changed (R386). -/
def capChanged (s : State) : State := if powerOn s then retarget s else s

end Sys2Proof.Machine
end

