-- ==== Sys2Proof/Machine/Faults.lean ====
section
/-! DEFINITION. The fault collector: processing of messages, first error, the fault ring, the FAULT_N pin, forcing and clearing, the
safe state, patrol scrub (R23-R25, R393-R414). -/

namespace Sys2Proof.Machine

/-- The collector runs: from step 4 of the start-up on (R442), not stopped by Curfew (R431). -/
def alive (s : State) : Bool := ctrlpOpen s && !(stoppedByCurfew s)

/-! ## Sources (R395) and profiles (R398) -/

/-- A source number that R395 lists. -/
def srcListed (n : Nat) : Bool := decide (n < 0x1E8) || (decide (0x1E8 ≤ n) && decide (n ≤ 0x1FB)) || (decide (0x200 ≤ n) && decide (n < 0x400))

/-- The part has the source's unit (R395, R446). -/
def srcPresent (s : State) (n : Nat) : Bool :=
  if n < 0xC0 then hasLink s (n / 2)
  else if n < 0x120 then hasLink s (n - 0xC0)
  else if n < 0x180 then s.part.s && hasLink s (n - 0x120)
  else if n < 0x1A0 then hasCroft s (n - 0x180)
  else if n < 0x1E0 then true
  else if n < 0x1E8 then s.part.m
  else if n = srcMill then s.part.m
  else true

/-- The default profile of a source (R395). -/
def defaultProfile (n : Nat) : Nat :=
  if n < 0xC0 then 1 else if n < 0x120 then 3 else if n < 0x1E0 then 2 else if n < 0x1E8 then 4 else if n < 0x200 then 2 else 4

/-- A profile's word: NEVER, T in µs, N. -/
def profileWord (n t : Nat) (never : Bool) : Word := flag never 63 ||| place t 8 32 ||| place n 0 8

/-- The profiles at reset (R398). -/
def resetProfile (p : Nat) : Word :=
  if p = 0 then profileWord 1 1 false
  else if p = 1 then profileWord 4 1000000 false
  else if p = 2 then profileWord 16 1000000 false
  else if p = 3 then profileWord 8 1000 false
  else if p = 4 then profileWord 3 10000 false
  else profileWord 255 1 true

/-- The profile number of a source, and a profile. -/
def profileNo (s : State) (n : Nat) : Nat :=
  match Tab.get none s.ree.srcProfile n with
  | some p => p.toNat
  | none => defaultProfile n
def profile (s : State) (p : Nat) : Word := (Tab.get none s.ree.profiles p).getD (resetProfile p)

/-- A source's counting state. -/
def source (s : State) (n : Nat) : Source := Tab.get {} s.flt.sources n

/-- The state with a source's counting state changed by `f`. -/
def modSource (n : Nat) (f : Source → Source) (s : State) : State :=
  { s with flt := { s.flt with sources := Tab.put {} s.flt.sources n (f (source s n)) } }

/-! ## Records (R402, R403) -/

/-- Held records are written as entries free; in the safe state none is (R403, R408). -/
def faultFlush : Nat → State → State
  | 0, s => s
  | n + 1, s =>
    match s.flt.held with
    | [] => s
    | r :: rest =>
      if ringEn .fault s && ringRoom .fault s && !s.flt.safe then
        faultFlush n (ringPut .fault [r.w0, r.w1, r.w2, r.w3] { s with flt := { s.flt with held := rest } })
      else s

/-- A record is held until it is written. With 256 held, the oldest that is not urgent is replaced; with none the new one is dropped;
either sets RING_LOST (R403). -/
def holdRecord (r : HeldRec) (f : Flt) : Flt :=
  if f.held.length < 256 then { f with held := f.held ++ [r] }
  else { f with ringLost := true
                held := if f.held.any fun x => !x.urgent then dropFirst (fun x => !x.urgent) f.held ++ [r] else f.held }

/-- The message's event fails a command: one that has started, or a WAIT that has yet to (R393). -/
def failsCmd (m : FaultMsg) : Bool := !m.cmds.isEmpty || !m.waits.isEmpty

/-- The record of a message, with its CLASS, whether it was PROMOTED, its SEQ, REPEAT and COUNT (R403). -/
def faultRecord (s : State) (m : FaultMsg) (cls : Nat) (promoted urgent : Bool) (seq : BitVec 32) (rep count : Nat) : HeldRec :=
  { w0 := place cls 61 2 ||| flag promoted 60 ||| flag m.forced 59 ||| flag (failsCmd m) 58 ||| place m.src.toNat 48 10
      ||| flag m.pv 47 ||| place m.kind.toNat 40 6 ||| place m.parish.toNat 32 6 ||| place seq.toNat 0 32,
    w1 := place m.addr.toNat 0 52,
    w2 := place (min rep 65535) 48 16 ||| place count 40 8,
    w3 := s.alm.now, urgent := urgent }

/-! ## The first error and FAULT_N (R404, R405) -/

/-- FAULT_N outside a pulse: FLT_CTL.PIN, or the safe state. -/
def faultPin (s : State) : Bool := s.flt.safe || bitAt s.flt.ctl 8

/-- A fatal or promoted message, or a self-fault: the first is latched and pulses FAULT_N, a later one sets OVERFLOW. -/
def latchFirst (fatal forced : Bool) (src kind parish seq : Nat) (s : State) : State :=
  if s.flt.first then { s with flt := { s.flt with overflow := true } }
  else { s with
    flt := { s.flt with
      first := true
      firstWord := flag fatal 61 ||| flag forced 60 ||| place src 48 10 ||| place kind 40 6 ||| place parish 32 6 ||| place seq 0 32
      firstTime := s.alm.now
      pulse := some s.alm.now }
    pins := { s.pins with fault := true } }

/-- FAULT_PULSE_END (R405): the pulse has lasted 1 µs; the pin then follows FLT_CTL.PIN, and stays asserted in the safe state. -/
def execFaultPulseEnd (s : State) : Host.Outcome State Fault Refusal :=
  .next (match s.flt.pulse with
    | some t =>
      if alive s && reached s (later t usUnits) then { s with flt := { s.flt with pulse := none }, pins := { s.pins with fault := faultPin s } } else s
    | none => s)

/-! ## The safe state (R407, R408) -/

/-- Enter the safe state: REE_FLT_SAFE latches the cause, FAULT_N is asserted, every outstanding access of the direct access port is
answered with an error. Everything else stops because it looks at FLT_STATUS.SAFE. -/
def enterSafe (src kind seq : Nat) (s : State) : State :=
  let s := { s with
    ree := { s.ree with fltSafe := flag true 63 ||| place src 48 10 ||| place kind 40 6 ||| place seq 0 32 }
    flt := { s.flt with safe := true }
    cur := { s.cur with scan := s.free }
    pins := { s.pins with fault := true } }
  let s := s.dap.accs.foldl (fun s a => dapEnd a.id false true [] s) s
  s.dap.held.foldl (fun s x => dapRefuse x.pa s) { s with dap := { s.dap with held := [] } }

/-- The collector's own fault (R407): no SEQ, no record; latched with SEQ 0. -/
def selfFault (s : State) : State :=
  if s.flt.safe then { s with flt := { s.flt with overflow := true } }
  else enterSafe srcCollector kCollector 0 (latchFirst true false srcCollector kCollector 0 0 s)

/-- COLLECTOR_SELF_FAULT (R407). -/
def execCollectorSelfFault (s : State) : Host.Outcome State Fault Refusal := .next (if alive s then selfFault s else s)

/-! ## FAULT_MESSAGE (R399, R400, R402) -/

/-- What the unit of a source does when the source becomes severe (R400). -/
def severeAction (n : Nat) (s : State) : State :=
  if n < 0xC0 then narrowLane (n / 2) (n % 2) s
  else if 0x1A0 ≤ n ∧ n < 0x1D0 then
    tidyDeficits { s with stw := { s.stw with engines := Tab.upd {} s.stw.engines (n - 0x1A0) fun (v : Service) => { v with severe := true, passed := false } } }
  else if 0x180 ≤ n ∧ n < 0x1A0 then
    { s with stw := { s.stw with crofts := Tab.upd {} s.stw.crofts (n - 0x180) fun (v : Service) => { v with passed := false } } }
  else if 0x1E0 ≤ n ∧ n < 0x1E8 then
    poolShrunk (stoneLeaves (poolSet s (n - 0x1E0)) (n - 0x1E0) { s with mil := { s.mil with autoOos := setBit s.mil.autoOos (n - 0x1E0) true } })
  else if 0x200 ≤ n ∧ bitAt s.ree.fltCtl 1 then reeveFence true (BitVec.ofNat 9 (n - 0x200)) true 0 s
  else s

/-- Promotion: DIAG counting holds on (R419), and the unit acts, but in the safe state, where every unit stands still. -/
def promoteSource (n : Nat) (s : State) : State := if s.flt.safe then s else holdDiag (severeAction n s)

/-- The next SEQ (R402). -/
def takeSeq (s : State) : State := { s with flt := { s.flt with nextSeq := bump32 s.flt.nextSeq } }

/-- The counting of one message (R399): the source's state after it, and whether it was promoted. -/
def countMessage (s : State) (rank : Nat) (m : FaultMsg) : Source × Bool :=
  let x := source s m.src.toNat
  let n := m.rep.toNat + 1
  if rank = 3 ∨ x.severe then (x, false)
  else if rank = 2 then ({ x with severe := true, count := 0 }, true)
  else if rank = 1 then
    let p := profile s (profileNo s m.src.toNat)
    let x := if x.count = 0 ∨ bits p 8 32 * usUnits ≤ elapsed s x.start then { x with start := s.alm.now, count := 0 } else x
    let k := min (x.count + n) 255
    if bits p 0 8 ≤ k ∧ !(bitAt p 63) then ({ x with severe := true, count := 0 }, true) else ({ x with count := k }, false)
  else (x, false)

/-- A message is due a record: urgent, or none of its source within QUIET_MS (R402). -/
def recordDue (s : State) (x : Source) : Bool :=
  match x.lastRec with
  | none => true
  | some t => decide (bits s.flt.ctl 32 16 * msUnits ≤ elapsed s t)

/-- Write or suppress the record of a message. -/
def recordMessage (m : FaultMsg) (x : Source) (rank : Nat) (promoted : Bool) (seq : BitVec 32) (s : State) : State :=
  let urgent := decide (2 ≤ rank) || promoted || failsCmd m
  if urgent || recordDue s x then
    let cls := if rank = 3 then 2 else if x.severe then 1 else 0
    let r := faultRecord s m cls promoted urgent seq (m.rep.toNat + x.suppressed) x.count
    let s := modSource m.src.toNat (fun _ => { x with lastRec := some s.alm.now, suppressed := 0 }) s
    let s := { s with flt := holdRecord r s.flt }
    faultFlush s.flt.held.length s
  else modSource m.src.toNat (fun _ => { x with suppressed := x.suppressed + m.rep.toNat + 1 }) s

/-- The commands a message fails take its SEQ as their FAULT_SEQ, and so does a WAIT that has yet to start (R393). -/
def tellCmds (m : FaultMsg) (seq : BitVec 32) (s : State) : State :=
  let s := m.cmds.foldl (fun s id => modCmd id (fun c => if c.faultSeq = 0 then { c with faultSeq := seq } else c) s) s
  m.waits.foldl (fun s ch => modWaiter ch (fun w => { w with met := w.met.map fun x => (x.1, x.2.1, if x.2.2 = 0 then seq else x.2.2) }) s) s

/-- The collector processes a message. -/
def processMsg (m : FaultMsg) (s : State) : State :=
  if m.src.toNat = srcCollector ∧ m.kind.toNat = kCollector then selfFault s
  else
    let rank := kindRank s m.kind.toNat
    let seq := s.flt.nextSeq
    let was := s.flt.safe
    let s := tellCmds m seq (takeSeq s)
    if rank = 3 ∧ was then { s with flt := { s.flt with overflow := true } }
    else
      let (x, promoted) := countMessage s rank m
      let s := recordMessage m x rank promoted seq s
      let s := if promoted || rank = 3 then latchFirst (rank == 3) m.forced m.src.toNat m.kind.toNat m.parish.toNat seq.toNat s else s
      let s := if promoted then promoteSource m.src.toNat s else s
      if rank = 3 then enterSafe m.src.toNat m.kind.toNat seq.toNat s else s

/-- A message is on the queue of a source's group (R21, R394). -/
def inGroup (src : BitVec 10) (m : FaultMsg) : Bool := faultGroup m.src.toNat == faultGroup src.toNat

/-- The collector takes the oldest message of a source's group; `own` asks that it be that source's (R394, R399). -/
def faultMessage (src : BitVec 10) (own : Bool) (s : State) : State :=
  match s.flt.msgs.find? (inGroup src) with
  | none => s
  | some m => if own && m.src != src then s else processMsg m { s with flt := { s.flt with msgs := dropFirst (inGroup src) s.flt.msgs } }

/-! ## FLT_ACTION and FLT_STATUS.FIRST (R401, R404, R406) -/

/-- FORCE (R406): FORCE_EN is checked first, then reserved kinds and sources, then sources the part lacks. `a` is the register's address. -/
def forceEvent (a : Nat) (v : Word) (s : State) : State :=
  let src := bits v 0 10
  let k := bits v 10 6
  if !(bitAt s.ree.fltCtl 0) then raise srcCtrlp kAccess a [] none s
  else if k = 0 ∨ 0x2F ≤ k ∨ !(srcListed src) then raise srcCtrlp kConfig a [] none s
  else if !(srcPresent s src) then raise srcCtrlp kAccess a [] none s
  else raiseMsg { src := BitVec.ofNat 10 src, kind := BitVec.ofNat 6 k, addr := 0, forced := true, pv := true, parish := v.extractLsb' 16 6 } s

/-- CLEAR_SOURCE (R401). A lane whose source is severe no longer may be widened to (R218). -/
def clearSource (v : Word) (s : State) : State :=
  let n := bits v 0 10
  let s := modSource n (fun x => { x with severe := false, count := 0 }) s
  if n < 0xC0 then autoWiden (n / 2) s else s

/-- Writing 1 to FIRST (R404). -/
def clearFirst (s : State) : State := { s with flt := { s.flt with first := false, overflow := false, firstWord := 0, firstTime := 0 } }

/-! ## PATROL_SCRUB (R23, R24, R411, R454) -/

/-- Commands with something charged towards a device, or that name it as a target not yet finished. -/
def cmdsTowards (s : State) (d : BitVec 9) : List Cmd :=
  s.eng.cmds.filter fun c => c.phase != .done && c.targets.any fun t => t.dev == d && openTowards s c t

/-- An uncorrectable word in a table entry of a destination takes it through the recovery of R56 to R62: what is placed towards it is lost
and the tallies reconcile; the commands that depend on it fail (R24). -/
def loseDestination (d : BitVec 9) (s : State) : State × List Nat :=
  let cs := (cmdsTowards s d).map fun c => (c.id, fenceKey s c d)
  let s := (List.range 96).foldl (fun s p => losePlane p (· == d) s) s
  let s := cs.foldl (fun s c => if (cmd? s c.1).any fun x => x.phase != .done then checkDone c.1 (failSelf c.1 c.2 stData s) else s) s
  (tallyLoss d.toNat s, cs.map (·.1))

/-- A command fails with a status: at once where nothing of it is issued yet, else once its outstanding items have ended (R129). -/
def failCmd (st : BitVec 8) (id : Nat) (s : State) : State :=
  match cmd? s id with
  | none => s
  | some c => failWhole id c.next st s

/-- The source that reports a word (R23). -/
def wordSource : SramWord → Nat
  | .barnLine _ => srcBarn
  | .routeEntry _ => srcMapper
  | .tallyCounter _ => srcTallies
  | .replayCopy p => srcLink p.toNat
  | .windowEntry _ => srcWindows
  | .channelEntry _ _ => srcFront
  | .collectorState => srcCollector
  | .commandWord n _ | .arrivalWord n _ | .other n _ => n.toNat

/-- Its unit-local index. -/
def wordIndex : SramWord → Nat
  | .barnLine a => a
  | .routeEntry d => d.toNat
  | .tallyCounter d => d.toNat
  | .replayCopy p => p.toNat
  | .windowEntry h => h.toNat
  | .channelEntry ch _ => ch.toNat
  | .collectorState => 0
  | .commandWord _ i | .arrivalWord _ i => i
  | .other _ i => i.toNat

/-- A landed transaction whose lines have not been used up: its Barn lines are still to be read. -/
def linesNeeded (a : Arrival) : Bool :=
  match a.state with
  | .window | .xlate | .reading | .staged | .group | .gang => true
  | .writing | .reply | .unit => false

/-- An uncorrectable word of an aperture: its accesses end with errors, and it is disabled until it is set again (R24). -/
def loseAperture (n : Nat) (s : State) : State :=
  (s.dap.accs.filter fun a => a.aperture.toNat == n).foldl (fun s a => dapEnd a.id false true [] s) { s with dap := { s.dap with aps := Tab.put {} s.dap.aps n {} } }

/-- Commands under way towards a device fail (R24). -/
def failTowards (d : BitVec 9) (mine : Cmd → Bool) (s : State) : State × List Nat :=
  let cs := ((cmdsTowards s d).filter mine).map fun c => (c.id, fenceKey s c d)
  (cs.foldl (fun s c => if (cmd? s c.1).any fun x => x.phase != .done then checkDone c.1 (failSelf c.1 c.2 stData s) else s) s, cs.map (·.1))

/-- An uncorrectable word of a stripe map: it holds no position until it is set again, and the commands under way towards destinations that
it places fail (R24). -/
def loseMap (k : Nat) (s : State) : State × List Nat :=
  let ds := (bankOf s (activeBank s)).filter fun e => reValid e.2 && reMapEn e.2 && reMapIndex e.2 == k
  ds.foldl (fun r e => let (s, cs) := failTowards (BitVec.ofNat 9 e.1) (fun _ => true) r.1; (s, r.2 ++ cs))
    ({ s with route := { s.route with maps := Tab.put [] s.route.maps k [] } }, [])

/-- An uncorrectable word of a pair slot: the slot is free, and sealed commands under way between the pair fail (R24). -/
def losePair (n : Nat) (s : State) : State × List Nat :=
  let p := slot s n
  if p.state = .free then (s, []) else failTowards p.peer (fun c => c.parish == some p.parish) (modSlot n (fun _ => {}) s)

/-- An uncorrectable word of a pending-signal entry: it is CANCELLED, with a refusal where its signal has landed (R24, R44). -/
def loseSigEnt (i : Nat) (s : State) : State :=
  match s.sig.ents[i]? with
  | none => s
  | some e => modEnt e.src e.tag (fun x => cancelPending x (waitEnd s)) (cancelSignals (fun x => x.src == e.src && x.tag == e.tag && x.sig.isSome) stData s)

/-- An uncorrectable word of an accumulator: the stripe that it holds is not combined (R261). -/
def loseAccumulator (id : Nat) (s : State) : State :=
  match arrival? s id with
  | some a => if txReduce a.txn && (a.state == .reading || a.state == .unit) then wakeCombines (refuseArrival a stData s) else s
  | none => s

/-- A landed transaction whose data has an uncorrectable word commits nothing and is answered DATA_UNCORRECTABLE; a response fails its command
(R24, R411). -/
def loseArrival (id : Nat) (s : State) : State × List Nat :=
  match arrival? s id with
  | some a =>
    if linesNeeded a then
      let s := leaveMill id s
      match a.cmd with
      | some c => (responseFailed a c s, [c])
      | none => (retryArrivals (wakeCombines (refuseArrival a stData s)), [])
    else (s, [])
  | none => (s, [])

/-- A command whose data has an uncorrectable word fails (R24). -/
def loseData (id : Nat) (s : State) : State × List Nat :=
  if (cmd? s id).any fun c => c.phase != .done then (failCmd stData id s, [id]) else (s, [])

/-- An uncorrectable copy of a replay buffer: the commands with something on the link that is not acknowledged fail, and the link is declared
down (R24, R208). -/
def loseReplay (p : Nat) (s : State) : State × List Nat :=
  if unacked (link s p) = 0 then (s, [])
  else
    let cs := (s.eng.cmds.filter fun c => c.phase != .done && s.tx.units.any fun u => u.charged && u.plane == p && u.use == .cmd c.id).map fun c => c.id
    (linkDown p (cs.foldl (fun s id => failCmd stData id s) s), cs)

/-- An uncorrectable word of a stone: its gang's work fails, and its matrix goes with it (R24, R315). -/
def loseStone (n : Nat) (s : State) : State × List Nat :=
  match (stone s n).work with
  | none => (modStone n (fun x => { x with matrix := none }) s, [])
  | some w =>
    let t := (workStones s w).foldl (fun s n => modStone n (fun x => { x with dropAfter := true }) s) s
    (matrixFailed w t, ((millCmd s w).map fun c => c.id).toList)

/-- An uncorrectable word of a WAIT's entry: the WAIT fails (R24). -/
def loseWait (ch : BitVec 21) (s : State) : State × List Nat :=
  if (waiter? s ch).any fun w => w.met.isNone then
    let t := waitEnds ch stData 0 0 s
    (t, if t.eng.nextId != s.eng.nextId then [nextCmd s] else [])
  else (s, [])

/-- An uncorrectable word of another unit, by its source and the index of what the word belongs to. DESIGN CHOICE: see log entry 152. -/
def loseOther (n i : Nat) (s : State) : State × List Nat :=
  if 0xC0 ≤ n ∧ n < 0x120 then loseReplay (n - 0xC0) s
  else if 0x1A0 ≤ n ∧ n < 0x1D0 then
    let cs := s.eng.cmds.filter fun c => c.engine == some (n - 0x1A0) && c.phase != .done
    (cs.foldl (fun s c => failCmd stData c.id s) s, cs.map (·.id))
  else if 0x1E0 ≤ n ∧ n < 0x1E8 then loseStone (n - 0x1E0) s
  else if n = srcFront then loseWait (BitVec.ofNat 21 i) s
  else if n = srcDap then (dapEnd i false true [] s, [])
  else if n = srcTallies then failTowards (BitVec.ofNat 9 i) (fun _ => true) { s with tal := { s.tal with plan := Tab.erase s.tal.plan i } }
  else if n = srcObs then ({ s with obs := { s.obs with watches := Tab.put {} s.obs.watches i {} } }, [])
  else if n = srcWindows then (loseAperture i s, [])
  else if n = srcMapper then loseMap i s
  else if n = srcTerrier then ({ s with ter := { s.ter with cache := s.ter.cache.eraseIdx i } }, [])
  else if n = 0x1EE then (loseSigEnt i s, [])
  else if n = 0x1F0 then (loseAccumulator i s, [])
  else if n = 0x1F3 then losePair i s
  else (s, [])

/-- What an uncorrectable word does, and the commands it fails. -/
def scrubDouble (w : SramWord) (s : State) : State × List Nat :=
  match w with
  | .barnLine id | .arrivalWord _ id => loseArrival id s
  | .commandWord _ id => loseData id s
  | .routeEntry d =>
    let t := loadEntry (activeBank s) d.toNat (routeEntry s d &&& ~~~(1#128 <<< 127)) s
    loseDestination d (routesChanged s t)
  | .tallyCounter d => loseDestination d s
  | .replayCopy p => loseReplay p.toNat s
  | .windowEntry h => if s.wins.cached.contains h.toNat then (modWin h.toNat (fun x => { x with valid := false }) s, []) else (s, [])
  | .channelEntry ch both =>
    let cs := (cmdsOf s ch).filter fun c => c.phase != .done
    if both && (chan? s ch).any (fun c => c.cached) then
      let s := cs.foldl (fun s c => failCmd stData c.id s) s
      (parkFor ch 0x04 s, cs.map (·.id))
    else (s, [])
  | .collectorState => (s, [])
  | .other n i => loseOther n.toNat i.toNat s

/-- The WAITs that have ended since, to start in their turn: a message that fails them tells them its SEQ then (R393). -/
def waitsLost (s t : State) : List (BitVec 21) :=
  (t.chn.waits.filter fun w => w.met.isSome && (waiter? s w.ch).any fun x => x.met.isNone).map fun w => w.ch

/-- A reader, or patrol scrub, meets a word: a single error is corrected and reported. A double error of one copy of a channel's entry is restored
from the other (R79); lost in both, the channel's commands fail and it parks with BAD_DESCRIPTOR. In the collector's own state a double
error is a self-fault (R407). -/
def patrolScrub (w : SramWord) (err : EccErr) (s : State) : State :=
  match err with
  | .clean => s
  | .single => raise (wordSource w) kEccCorr (wordIndex w) [] none s
  | .double =>
    match w with
    | .collectorState => selfFault s
    | _ =>
      let (t, cs) := scrubDouble w s
      raiseMsg { src := BitVec.ofNat 10 (wordSource w), kind := BitVec.ofNat 6 kEccUncorr, addr := BitVec.ofNat 52 (wordIndex w), cmds := cs, waits := waitsLost s t } t

/-- Ten seconds, in units: the period of the patrol (R27). -/
def patrolUnits : Nat := 10000 * msUnits

/-- Comparator 7 fires: a round of the patrol is over and the next one begins (R27, R376; log entry 183). -/
def patrolRound (s : State) : State := if cmpFires s 7 then markFired 7 (cmpNext 7 patrolUnits s) else s

/-- A word of a unit that the part has is met while the block works. -/
def wordMet (w : SramWord) (err : EccErr) (s : State) : State :=
  if running s && srcListed (wordSource w) && srcPresent s (wordSource w) then patrolScrub w err s else s

/-- PATROL_SCRUB. -/
def execPatrolScrub (word : SramWord) (err : EccErr) (s : State) : Host.Outcome State Fault Refusal := .next (wordMet word err (patrolRound s))

/-! ## Prediction mismatches (R25, R410) -/

/-- The source of a mismatch. -/
def predictSource : Predict → Nat
  | .reduce _ => srcReduce
  | .encode c _ | .decode c _ => srcCroft c.toNat

/-- A mismatch that can occur: a combine in the reduce unit; in a Codec slice of the part, a coded stripe that a command sends or that has landed. -/
def predictHere (s : State) : Predict → Bool
  | .reduce id => (arrival? s id).any fun a => txReduce a.txn && (a.state == .reading || a.state == .unit)
  | .encode c id => s.part.c && hasCroft s c.toNat && (cmd? s id).any fun x => x.phase != .done && pkSubop x.pkt % 16 != 0
  | .decode c id => s.part.c && hasCroft s c.toNat && (arrival? s id).any fun a => a.txn.coded && linesNeeded a

/-- The target's physical address, for ADDRESS (R396): where the stripe that has landed is written; of a stripe that is sent it is not known here, and the
field holds 0 (log entry 52). -/
def predictAddr (s : State) : Predict → Nat
  | .reduce id | .decode _ id => (((arrival? s id).bind fun a => a.ranges.head?).map fun r => r.pa).getD 0
  | .encode _ _ => 0

/-- PREDICT: the command fails with DATA_UNCORRECTABLE, at its source or by the answer it gets (R25). -/
def predicted (p : Predict) (s : State) : State :=
  if !(predictHere s p) then s
  else
    let (t, cs) := match p with
      | .reduce id => (loseAccumulator id s, [])
      | .encode _ id => loseData id s
      | .decode _ id => loseArrival id s
    raise (predictSource p) kPredict (predictAddr s p) cs none t

/-- STEWARD_WATCHDOG (R396): FIRMWARE with Steward's program counter. -/
def execStewardWatchdog (pc : BitVec 52) (s : State) : Host.Outcome State Fault Refusal :=
  .next (if alive s && s.stw.running then raise srcSteward kFirmware pc.toNat [] none s else s)

end Sys2Proof.Machine
end

