-- ==== Sys2Proof/Machine/Curfew.lean ====
section
/-! DEFINITION. Curfew: requests, the stop, the dump, and what a restart does to the deadlines and commands of the block (R429-R434). -/

namespace Sys2Proof.Machine

/-! ## Requests (R429, R430) -/

/-- CURFEW: a stop time before now + lead is refused; a request that is ignored completes with BUSY. -/
def runCurfew (pkt : List Word) (id : Nat) (s : State) : State :=
  let fabric := pkSubop pkt % 2 == 1
  let first := later (now s) (curLead s fabric)
  let w := pw pkt 1
  if w ≠ 0 ∧ earlier w first then done id stBadCommand 0 s
  else
    let idle := s.cur.state == .idle || s.cur.state == .armed
    let s := armCurfew (if w = 0 then first else w) fabric 0 none s
    if idle then done id stOk s.cur.stopTime s else done id stBusy 0 s

/-- CURFEW. -/
def execCurfew (ch : BitVec 21) (pkt : List Word) (s : State) : Host.Outcome State Fault Refusal :=
  .next (asOp 0x94 pkt (startOther ch pkt (runCurfew pkt)) s)

/-- The Curfew controller takes requests: powered, out of reset, not in the safe state (R408). -/
def curfewHears (s : State) : Bool := s.pins.pwrOk && !s.pins.aonReset && !s.pins.blockReset && !s.flt.safe

/-- CURFEW_IN: the pin has been asserted for three REF cycles. -/
def execCurfewIn (s : State) : Host.Outcome State Fault Refusal :=
  .next (if curfewHears s then
      let fabric := bitAt s.cur.ctl 1
      armCurfew (later (now s) (curLead s fabric)) fabric 1 none s
    else s)

/-- CURFEW_FLIT: REMOTE_EN lets it in; the device acts on the first copy, and stops at once when that comes after the stop time, recording
how late (R430, R432). -/
def curfewFlit (w0 w1 : Word) (s : State) : State :=
  let org : BitVec 9 := w1.extractLsb' 0 9
  let cid : BitVec 32 := w1.extractLsb' 16 32
  if !(bitAt s.cur.ctl 2) then { s with cur := { s.cur with refused := if s.cur.refused = 255 then 255 else s.cur.refused + 1 } }
  else if s.cur.fabric && s.cur.origin == org && s.cur.curfewId == cid then s
  else
    let arms := s.cur.state == .idle || (s.cur.state == .armed && earlier w0 s.cur.stopTime)
    let s := armCurfew w0 true 3 (some (org, cid)) s
    if arms && reached s w0 then { s with cur := { s.cur with lateNs := BitVec.ofNat 16 (min 65535 (elapsed s w0 / 16)) } } else s

/-- CURFEW_FLIT. -/
def execCurfewFlit (link : BitVec 7) (w0 w1 : Word) (s : State) : Host.Outcome State Fault Refusal :=
  .next (if curfewHears s && linkHears s link && s.gbl.fabricValid then curfewFlit w0 w1 s else s)

/-! ## The stop and the dump (R431, R433) -/

/-- The stop stamps of the 40 domains in the order of R417: AON, REF, the CROFT domains, CORE, ARITH, MEMP, CTRL, REEVE, TCK. Those that PARKED has gated
stopped at their gating (R431, R434). The model stops the others at once. -/
def stopStamps (s : State) : List Time :=
  (List.range 40).map fun n => if s.pwr.gated && decide (2 ≤ n) && decide (n < 36) then s.pwr.gatedAt else now s

/-- Comparator 1 fires at the stop time: every domain but those of R431 holds its state, and its stop stamp is kept. -/
def curfewStop (s : State) : State :=
  if curfewHears s && s.cur.state == .armed && cmpFires s 1 then
    let s := { s with
      cur := { s.cur with state := .stopped, stoppedAt := now s, stamps := stopStamps s, scan := s.free }
      pins := { s.pins with curfewOut := true } }
    event 16 (markFired 1 (cmpOff 1 s.drawn))
  else s

/-- CURFEW_STOP. -/
def execCurfewStop (s : State) : Host.Outcome State Fault Refusal := .next (curfewStop s)

/-- The bytes that a run of the dump puts into memory. -/
def dumpRun (byte : Nat → Byte) (a n : Nat) : List (Nat × Byte) :=
  (List.range n).filterMap fun i => if byte i = Memory.unlisted then none else some (a + i, byte i)

/-- Memory with the bytes of a run replaced. -/
def dumpWrite (byte : Nat → Byte) (a n : Nat) (s : State) : State :=
  { s with mem := s.mem.filter (fun c => decide (c.1 < a)) ++ dumpRun byte a n ++ s.mem.filter (fun c => decide (a + n ≤ c.1)) }

/-- The SRAMs in the order of R26, as (KiB, written as zero); those of options the part lacks are absent. Cipher pair slots and Reeve RAM are
written as zero (R338, R433). -/
def dumpSrams (p : Part) : List (Nat × Bool) :=
  [(32768, false), (64 * p.links, false), (2048, false), (2048, false)] ++ (if p.m then [(2048, false)] else []) ++
  [(2048, false), (1536, false), (1024, false)] ++ (if p.c then [(32 * (p.links / 3), false)] else []) ++ [(768, false)] ++
  (if p.s then [(768, true)] else []) ++ [(512, false), (256, false), (512, false), (256, false), (256, true), (64, false), (16, false), (16, false)]

/-- The bytes of the SRAM sections. -/
def sramBytes (p : Part) : Nat := 1024 * ((dumpSrams p).map fun x => x.1).sum

/-- A place in the SRAM sections lies in one that is written as zero. -/
def sramHidden : List (Nat × Bool) → Nat → Bool
  | [], _ => false
  | (k, z) :: rest, o => if o < 1024 * k then z else sramHidden rest (o - 1024 * k)

/-- The byte of the cut at a place in the dump behind the header: Reeve's chains, Reeve RAM and the pair slots read as zero (R338, R433). -/
def cutByte (s : State) (o : Nat) : Byte :=
  if (if o < 0x1000000 then Config.chainOfReeve (o - 0x1000) else sramHidden (dumpSrams s.part) (o - 0x1000000)) then 0 else Config.scanByte s.cur.scan o

/-- What the header holds, in the order of R433: part name, STOP_TIME, ORIGIN and CURFEW_ID, the stop stamps, the lengths of the two sections. -/
def headerFields (s : State) : List Word :=
  (partName s.part).map (fun b => b.zeroExtend 64)
  ++ [s.cur.stopTime, s.cur.origin.zeroExtend 64, s.cur.curfewId.zeroExtend 64] ++ s.cur.stamps
  ++ [BitVec.ofNat 64 (if bitAt s.cur.ctl 3 then 12 * 2 ^ 20 else 0), BitVec.ofNat 64 (if bitAt s.cur.ctl 4 then sramBytes s.part else 0)]

/-- The header of a dump: MAGIC, then its fields as the part lays them out (R433). -/
def dumpHeader (s : State) (i : Nat) : Byte :=
  if i < 4 then BitVec.ofNat 8 (0x46555243 >>> (8 * i)) else Config.dumpHeader (headerFields s) i

/-- The dump as CUR_CTL selects it: header, flop chains, SRAMs; nothing with both bits 0 (R433). -/
def writeDump (s : State) : State :=
  let base := s.cur.dumpBase.toNat
  let flops := bitAt s.cur.ctl 3
  let srams := bitAt s.cur.ctl 4
  if !flops && !srams then s
  else
    let t := dumpWrite (dumpHeader s) base 4096 s
    let t := if flops then dumpWrite (fun i => cutByte s (0x1000 + i)) (base + 0x1000) (12 * 2 ^ 20) t else t
    if srams then dumpWrite (fun i => cutByte s (0x1000000 + i)) (base + 0x1000000) (sramBytes s.part) t else t

/-- CURFEW_DUMP_DONE: the dump is written and DONE set. -/
def execCurfewDumpDone (s : State) : Host.Outcome State Fault Refusal :=
  .next (if curfewHears s && (s.cur.state == .stopped || s.cur.state == .dumping) && !s.cur.done then
      let s := writeDump s
      event 17 { s with cur := { s.cur with state := .dumping, done := true } }
    else s)

/-- The word of the cut that JTAG selects: the same state as the engine dumps (R433). -/
def cutWord (s : State) (select : BitVec 8) (addr : BitVec 32) : Word :=
  BitVec.ofNat 64 (ofLE ((List.range 8).map fun i => cutByte s (Config.scanPlace select addr + i)))

/-- JTAG_DUMP_SHIFT: BYPASS and IDCODE at any time; a chain or SRAM is selected and a word of it shifted out while the block is stopped. Nothing but the
TAP's own registers changes (R433, R408). -/
def execJtagDumpShift (op : JtagOp) (addr : BitVec 32) (s : State) : Host.Outcome State Fault Refusal :=
  .next (if !s.pins.pwrOk then s
    else match op with
      | .bypass tdi => { s with cur := { s.cur with jtagBit := tdi } }
      | .idcode => { s with cur := { s.cur with jtagWord := s.part.idcode.zeroExtend 64 } }
      | .dump select =>
        if stoppedByCurfew s || s.flt.safe then { s with cur := { s.cur with jtagSel := select, jtagWord := cutWord s select addr } } else s)

/-! ## Release (R434) -/

/-- An accepted RELEASE: the block restarts at the restart time. -/
def releaseCurfew (halt : Bool) (s : State) : State := { s with cur := { s.cur with state := .releasing, halt := halt } }

/-- A time moved later. -/
def moved (d : Nat) (t : Option Time) : Option Time := t.map fun t => later t d

/-- A link's deadlines moved later. -/
def shiftLink (d : Nat) (l : Link) : Link :=
  { l with
    timer := moved d l.timer, nackHold := l.nackHold.map fun x => (x.1, later x.2 d), tallyDue := moved d l.tallyDue,
    noLock := moved d l.noLock, retrainAt := moved d l.retrainAt, ackAt := later l.ackAt d, quietAt := moved d l.quietAt,
    lpiWake := moved d l.lpiWake, pause := l.pause.map fun x => (x.1, later x.2 d), miswiredAt := moved d l.miswiredAt }

/-- The deadlines of links, crofts and calibrations. -/
def shiftLinks (d : Nat) (x : Lnk) : Lnk :=
  { x with
    links := x.links.map fun e => (e.1, shiftLink d e.2),
    crofts := x.crofts.map fun e => (e.1, { e.2 with calPending := moved d e.2.calPending }),
    forcedEnd := moved d x.forcedEnd, windowEnd := moved d x.windowEnd }

/-- The deadlines of tallies. -/
def shiftTal (d : Nat) (x : Tal) : Tal :=
  { x with
    src := x.src.map fun e => (e.1, { e.2 with settle := moved d e.2.settle, recon := moved d e.2.recon }),
    tgt := x.tgt.map fun e => (e.1, { e.2 with unsentAt := moved d e.2.unsentAt }),
    slots := x.slots.map fun e => (e.1, { e.2 with cancelled := e.2.cancelled.map fun t => later t d }),
    refreshAt := later x.refreshAt d }

/-- The timeouts of traffic, queries and tags. -/
def shiftTx (d : Nat) (s : State) : State :=
  { s with
    tx := { s.tx with
      units := s.tx.units.map fun u => { u with waitEnd := later u.waitEnd d, deadline := later u.deadline d }
      queries := s.tx.queries.map fun q => { q with deadline := later q.deadline d } }
    eng := { s.eng with
      tagHold := s.eng.tagHold.map fun x => (x.1, x.2.1, later x.2.2 d)
      cmds := s.eng.cmds.map fun c => { c with hangAt := later c.hangAt d } } }

/-- The times of landed transactions, signals and groups. -/
def shiftRx (d : Nat) (s : State) : State :=
  { s with
    brn := { s.brn with arrivals := s.brn.arrivals.map fun a => { a with waitEnd := later a.waitEnd d } }
    sig := { s.sig with ents := s.sig.ents.map fun e => { e with holdEnd := later e.holdEnd d } }
    groups := s.groups.map fun g => { g with freeAt := later g.freeAt d } }

/-- The deadlines of translation, windows, routes and waits. -/
def shiftTables (d : Nat) (s : State) : State :=
  { s with
    ter := { s.ter with
      recs := s.ter.recs.map fun r => { r with time := later r.time d }
      inval := s.ter.inval.map fun v => { v with start := later v.start d } }
    wins := { s.wins with entries := s.wins.entries.map fun e =>
      (e.1, if e.2.state = .quarantine then { e.2 with qEnd := later e.2.qEnd d } else e.2) }
    chn := { s.chn with
      waits := s.chn.waits.map fun w => { w with due := later w.due d }
      chans := s.chn.chans.map fun e => (e.1, { e.2 with blockedAt := later e.2.blockedAt d }) } }

/-- A retirement whose quiescence ended during the stop ends at the restart (R361). -/
def shiftParish (s : State) (d : Nat) (p : Parish) : Parish :=
  let ended := reached s (later p.retireAt (2 * msUnits))
  { p with
    retireAt := if p.state = .retiring ∧ ended = false then later p.retireAt d else p.retireAt
    notify := { p.notify with since := moved d p.notify.since } }

/-- The times of the power controller, an overshoot in progress among them. -/
def shiftPwr (d : Nat) (x : Pwr) : Pwr :=
  { x with
    coreAt := moved d x.coreAt, throttleAt := later x.throttleAt d, belowSince := moved d x.belowSince, brakeEnd := moved d x.brakeEnd
    episode := x.episode.map fun e => (later e.1 d, e.2)
    episodeAt := later x.episodeAt (if x.episode.isSome then d else 0) }

/-- The deadlines of parishes, keys, the Mill, power, faults and observation. -/
def shiftRest (d : Nat) (s : State) : State :=
  { s with
    par := s.par.map fun e => (e.1, shiftParish s d e.2)
    gbl := { s.gbl with notify := { s.gbl.notify with since := moved d s.gbl.notify.since } }
    ree := { s.ree with
      jobs := s.ree.jobs.map fun j => { j with start := later j.start d }
      slots := s.ree.slots.map fun e => (e.1, if e.2.state = .free then e.2 else { e.2 with due := later e.2.due d }) }
    mil := { s.mil with
      stones := s.mil.stones.map fun e => (e.1, if e.2.running then { e.2 with lastWork := later e.2.lastWork d } else e.2)
      waiting := s.mil.waiting.map fun w => { w with waitEnd := later w.waitEnd d }
      held := s.mil.held.map fun w => { w with waitEnd := later w.waitEnd d }
      toggled := moved d s.mil.toggled }
    pwr := shiftPwr d s.pwr
    flt := { s.flt with
      pulse := moved d s.flt.pulse
      sources := s.flt.sources.map fun e => (e.1, { e.2 with start := if e.2.count = 0 then e.2.start else later e.2.start d, lastRec := moved d e.2.lastRec }) }
    obs := { s.obs with diagUntil := moved d s.obs.diagUntil } }

/-- The controller's comparators that are armed move with the stop; 8 to 15 do not. -/
def shiftCmps (d : Nat) (a : Alm) : Alm :=
  { a with cmps := a.cmps.map fun e =>
      (e.1, if e.2.en && decide (e.1 < 8) then { e.2 with compare := later e.2.compare d } else e.2) }

/-- Each deadline of a stopped unit is moved later by the length of the stop. -/
def shiftAll (d : Nat) (s : State) : State :=
  let s := shiftRest d (shiftTables d (shiftRx d (shiftTx d s)))
  { s with lnk := shiftLinks d s.lnk, tal := shiftTal d s.tal, alm := shiftCmps d s.alm }

/-- A command in flight at the cut issues nothing more and ends HALTED once what it had issued has ended (R61, R97). -/
def haltCmd (id : Nat) (s : State) : State := failWhole id 0 stHalted s

/-- A channel with a halted command parks with reason CURFEW, one that was PARKING already for another reason too (R97). -/
def haltChannel (ch : BitVec 21) (s : State) : State :=
  match chan? s ch with
  | none => s
  | some x =>
    if x.state == .stopped then s
    else if x.state == .parking then modChan ch (fun y => { y with parkWhy := 0x05 }) s
    else parkFor ch 0x05 s

/-- Every command in flight is halted, and its channel parks with reason CURFEW (R97). -/
def haltAll (s : State) : State :=
  let cs := s.eng.cmds.filter fun c => c.phase != .done
  cs.foldl (fun s c => haltChannel c.ch s) (cs.foldl (fun s c => haltCmd c.id s) s)

/-- The domains restart: deadlines move, links retrain and rewind, and with HALT the commands in flight end. -/
def restartBlock (s : State) : State :=
  let s := shiftAll (elapsed s s.cur.stoppedAt) s
  let s := (s.lnk.links.filter fun e => e.2.joined && (e.2.state == .up || e.2.state == .lpi)).foldl (fun s e => retrain e.1 s) s
  let halt := s.cur.halt
  let s := { s with
    cur := { s.cur with state := .idle, done := false, halt := false }
    pins := { s.pins with curfewOut := false } }
  if halt then haltAll s else s

end Sys2Proof.Machine
end

