-- ==== Sys2Proof/Machine/Calib.lean ====
section
/-! DEFINITION. Run-time calibration of crofts and self-test of units (R448-R454). -/

namespace Sys2Proof.Machine

/-! ## Calibration (R450-R453) -/

/-- A croft is removed under R448. -/
def croftRemoved (s : State) (c : Nat) : Bool := (Tab.get ({} : Service) s.stw.crofts c).removed

/-- A link is in a width or speed change or RETRAINING, or already in a pause (R453). -/
def changing (l : Link) : Bool := l.state == .retraining || l.pause.isSome || l.widthReq.isSome || l.widthTo.isSome || l.speedReq || l.speedAck

/-- Nothing holds a pending calibration of a croft back (R453). -/
def mayCalibrate (s : State) (c : Nat) : Bool :=
  hasCroft s c && (croft s c).calPending.isSome && !(croft s c).calActive && s.cur.state == .idle && !(croftRemoved s c)
  && (croft s c).rateTo.isNone && (linksOf c).all fun p => !(changing (link s p))

/-- The planes of a croft. -/
def croftPlanes (c : Nat) (m : BitVec 96) (b : Bool) : BitVec 96 := (linksOf c).foldl (fun m p => setBit m p b) m

/-- A croft calibrates: placement forbids its planes, and each of its links that is in service pauses and trains (R452). -/
def startCal (c : Nat) (forced : Bool) (s : State) : State :=
  let s := modCroft c (fun x => { x with calActive := true, calForced := forced }) s
  let s := { s with
    route := { s.route with calPause := croftPlanes c s.route.calPause true }
    lnk := { s.lnk with forcedWait := s.lnk.forcedWait.erase c } }
  (linksOf c).foldl (fun s p =>
    let l := link s p
    if l.joined && (l.state == .up || l.state == .lpi) then pauseLink p .calibration (setLink p { l with state := .up, lpiWake := none } s) else s) s

/-- A forced calibration runs now. -/
def forcedRuns (s : State) : Bool := s.lnk.crofts.any fun e => e.2.calActive && e.2.calForced

/-- The next forced calibration starts, one at a time and 1 ms after the previous one ended (R451). -/
def startForced (s : State) : State :=
  let spaced := match s.lnk.forcedEnd with
    | some t => reached s (later t msUnits)
    | none => true
  if forcedRuns s || !spaced then s
  else match s.lnk.forcedWait.find? fun c => mayCalibrate s c with
    | some c => startCal c true s
    | none => s

/-- A request is forced: it waits its turn, and Steward logs it with its age in µs (R451, R474). -/
def forceCal (c : Nat) (s : State) : State :=
  let age := match (croft s c).calPending with
    | some t => elapsed s t / usUnits
    | none => 0
  startForced (logEntry 0x04 (BitVec.ofNat 64 c) (BitVec.ofNat 64 age) { s with lnk := { s.lnk with forcedWait := s.lnk.forcedWait ++ [c] } })

/-- A croft has a calibration pending from now (R450). -/
def requestCal (c : Nat) (s : State) : State :=
  let t := now s
  modCroft c (fun x => if x.calPending.isSome then x else { x with calPending := some t }) s

/-- Crofts on the part, by number. -/
def croftsOn (s : State) : List Nat := (List.range 32).filter (hasCroft s)

/-- A window is open long enough for a pause of 100 µs to end in it. -/
def windowFits (s : State) : Bool := s.lnk.windowEnd.any fun t => !(earlier (t - BitVec.ofNat 64 (100 * usUnits)) (now s))

/-- Pending crofts start in increasing number while the window lasts, at most MAX_CROFTS at once (R451). -/
def startWindow (s : State) : State :=
  (croftsOn s).foldl (fun s c =>
    let n := (s.lnk.crofts.filter fun e => e.2.calActive).length
    if windowFits s && decide (n < bits s.gbl.calCtl 0 8) && mayCalibrate s c then startCal c false s else s) s

/-- CALIBRATE: requests are recorded; FORCE makes each croft calibrate at once (R450). A croft the part lacks is an absent unit (R7). -/
def runCalibrate (pkt : List Word) (id : Nat) (s : State) : State :=
  let mask : BitVec 32 := (pw pkt 1).extractLsb' 0 32
  let cs := bitsSet mask
  if cs.any fun c => !(hasCroft s c) then done id stUnitAbsent 0 s
  else
    let s := startWindow (cs.foldl (fun s c => requestCal c s) s)
    let s := if pkSubop pkt % 2 = 1 then
        cs.foldl (fun s c => if s.lnk.forcedWait.contains c || (croft s c).calActive then s else forceCal c s) s else s
    done id stOk 0 s

/-- CALIBRATE. -/
def execCalibrate (ch : BitVec 21) (pkt : List Word) (s : State) : Host.Outcome State Fault Refusal :=
  .next (asOp 0x97 pkt (startOther ch pkt (runCalibrate pkt)) s)

/-- CALIBRATION_FORCE (R451): a request has been pending for 200 ms. -/
def execCalibrationForce (croft_ : BitVec 5) (s : State) : Host.Outcome State Fault Refusal :=
  .next (let c := croft_.toNat
    match (croft s c).calPending with
    | some t =>
      if running s && !(croft s c).calActive && !(s.lnk.forcedWait.contains c) && reached s (later t (200 * msUnits)) then forceCal c s else s
    | none => s)

/-- FORCED_CALIBRATION_SPACING (R451). -/
def execForcedCalibrationSpacing (s : State) : Host.Outcome State Fault Refusal := .next (if running s then startForced s else s)

/-- Comparator 3 fires, and is set for the next window (R451); in a block that runs the window opens. A pending croft that R453 holds back runs once it
may. -/
def windowStart (s : State) : State :=
  let at_ := (cmpOf s 3).compare
  let period := bits s.gbl.calCtl 48 16
  let s := markFired 3 (modCmp 3 (fun c => { c with compare := later at_ (period * msUnits) }) s)
  if !(running s) then s else
  let s := startWindow { s with lnk := { s.lnk with windowEnd := some (later at_ (bits s.gbl.calCtl 32 16 * usUnits)) } }
  let held := (croftsOn s).filter fun c => (croft s c).calPending.isSome && !(croft s c).calActive && !(mayCalibrate s c) && !(s.lnk.forcedWait.contains c)
  { s with lnk := { s.lnk with forcedWait := s.lnk.forcedWait ++ held } }

/-- The window's start, when it is due. -/
def windowDue (s : State) : State := if cmpFires s 3 then windowStart s else s

/-- CALIBRATION_WINDOW_START. -/
def execCalibrationWindowStart (s : State) : Host.Outcome State Fault Refusal :=
  .next (windowDue s)

/-- A croft is calibrated: nothing is pending for it. -/
def calibrated (c : Nat) (s : State) : State :=
  let t := now s
  let s := modCroft c (fun x => { x with calPending := none, calActive := false, calForced := false, calLast := t }) s
  { s with
    lnk := { s.lnk with forcedWait := s.lnk.forcedWait.erase c }
    route := { s.route with calPause := croftPlanes c s.route.calPause false } }

/-- CROFT_CALIBRATION_DONE (R452): every link has trained and rewound, or left its pause otherwise; placement uses the planes again; the next croft of
the window, or the next forced one, starts. -/
def calDone (c : Nat) (s : State) : State :=
  let forced := (croft s c).calForced
  let s := calibrated c s
  let s := if forced then { s with lnk := { s.lnk with forcedEnd := some (now s) } } else s
  startForced (startWindow s)

/-- CROFT_CALIBRATION_DONE. -/
def execCroftCalibrationDone (croft_ : BitVec 5) (s : State) : Host.Outcome State Fault Refusal :=
  .next (if running s && (croft s croft_.toNat).calActive && (linksOf croft_.toNat).all (fun p => !(inPause (link s p) .calibration)) then calDone croft_.toNat s else s)

/-- Twenty-four hours, in units. -/
def dayUnits : Nat := 24 * 3600 * 1000 * msUnits

/-- CALIBRATION_AGE_DUE (R450): 24 h have passed since the croft's last calibration. -/
def execCalibrationAgeDue (croft_ : BitVec 5) (s : State) : Host.Outcome State Fault Refusal :=
  .next (let c := croft_.toNat
    if running s && hasCroft s c && s.gbl.calFinished.getLsbD c && decide (dayUnits ≤ elapsed s (croft s c).calLast) then startWindow (requestCal c s) else s)

/-- AGEING_MONITOR_SAMPLE (R450, R454): crofts whose eye margins have fallen or whose temperature has moved have a calibration pending; a
monitor at the end of its range raises CLOCK. -/
def execAgeingMonitorSample (margins temps ends : BitVec 32) (s : State) : Host.Outcome State Fault Refusal :=
  .next (if running s then
      startWindow <| (croftsOn s).foldl (fun s c =>
        let s := if margins.getLsbD c || temps.getLsbD c then requestCal c s else s
        if ends.getLsbD c then raise (srcCroft c) kClock 0 [] none s else s) s
    else s)

/-! ## What lets a held calibration run (R453) -/

/-- LINK_TRAINED. -/
def execLinkTrained (link_ : BitVec 7) (lanes : BitVec 2) (retimers : BitVec 2) (diag0 : BitVec 32) (diag1 : BitVec 32) (s : State) :
    Host.Outcome State Fault Refusal :=
  .next (let p := link_.toNat
    let l := link s p
    if running s && hasLink s p && (l.state == .training || l.state == .retraining || inPause l .calibration) && l.phase == .align && l.miswiredAt.isNone
        && lanes &&& trainLanes s p != 0 then
      startForced (linkTrained p lanes retimers diag0 diag1 s)
    else s)

/-- LINK_ID. -/
def execLinkId (link_ : BitVec 7) (w1 : Word) (s : State) : Host.Outcome State Fault Refusal :=
  .next (if linkNames s link_.toNat then startForced (linkId link_.toNat w1 s) else s)

/-- WIDTH_ACK. -/
def execWidthAck (link_ : BitVec 7) (lanes : BitVec 2) (refuse : Bool) (s : State) : Host.Outcome State Fault Refusal :=
  .next (if linkHears s link_ && (link s link_.toNat).pause.isNone then startForced (widthAck link_.toNat lanes refuse s) else s)

/-- SPEED_ACK. -/
def execSpeedAck (link_ : BitVec 7) (rate : BitVec 2) (refuse : Bool) (s : State) : Host.Outcome State Fault Refusal :=
  .next (if linkHears s link_ && (link s link_.toNat).pause.isNone && (croft s (link_.toNat / 3)).rateTo == some rate then
    startForced (speedAck link_.toNat refuse s) else s)

/-- LINK_DOWN_DECLARE (R221). -/
def execLinkDownDeclare (link_ : BitVec 7) (s : State) : Host.Outcome State Fault Refusal :=
  .next (if running s && hasLink s link_.toNat && downDue s (link s link_.toNat) then startForced (linkDown link_.toNat s) else s)

/-- FLIT_RECEIVE. -/
def execFlitReceive (link_ : BitVec 7) (raw : List Byte) (s : State) : Host.Outcome State Fault Refusal :=
  .next (if linkHears s link_ && (link s link_.toNat).pause.isNone && raw.length == 256 then startForced (flitReceive link_.toNat raw s) else s)

/-- WIDTH_CHANGE_DONE. -/
def execWidthChangeDone (link_ : BitVec 7) (s : State) : Host.Outcome State Fault Refusal :=
  .next (if running s && inPause (link s link_.toNat) .width then startForced (widthDone link_.toNat s) else s)

/-- SPEED_CHANGE_DONE. -/
def execSpeedChangeDone (croft_ : BitVec 5) (s : State) : Host.Outcome State Fault Refusal :=
  .next (let c := croft_.toNat
    match (croft s c).rateTo with
    | some r => if running s && hasCroft s c && (linksOf c).all fun p => !(link s p).joined || (link s p).speedAck then startForced (speedDone c r s) else s
    | none => s)

/-! ## SELFTEST (R448, R449) -/

/-- Kind, action and unit of a SELFTEST. -/
def testKind (pkt : List Word) : Nat := (pkSubop pkt / 4) % 4
def testAct (pkt : List Word) : Nat := pkSubop pkt % 4
def testUnit (pkt : List Word) : Nat := bits (pw pkt 1) 0 6

/-- The fault source of a unit. -/
def unitSource (kind n : Nat) : Nat := if kind = 0 then srcEngine n else if kind = 1 then srcStone n else srcCroft n

/-- The unit is on the part. -/
def unitPresent (s : State) (kind n : Nat) : Bool :=
  if kind = 0 then decide (n < 48) else if kind = 1 then s.part.m && decide (n < 8) else hasCroft s n

/-- The service state of an engine or croft, and the state with it changed. -/
def service (s : State) (kind n : Nat) : Service := Tab.get {} (if kind = 0 then s.stw.engines else s.stw.crofts) n
def modService (kind n : Nat) (f : Service → Service) (s : State) : State :=
  if kind = 0 then { s with stw := { s.stw with engines := Tab.upd {} s.stw.engines n f } }
  else { s with stw := { s.stw with crofts := Tab.upd {} s.stw.crofts n f } }

/-- A value or unit that every action refuses. -/
def testBad (s : State) (pkt : List Word) : Bool :=
  testKind pkt == 3 || testAct pkt == 3 || !(unitPresent s (testKind pkt) (testUnit pkt)) || (testKind pkt == 1 && testAct pkt != 1)

/-- The engine is the last one in service. -/
def lastEngine (s : State) (n : Nat) : Bool := engineServes s n && (List.range 48).all fun k => k == n || !(engineServes s k)

/-- A row of the table acts on packets of its own action; a reserved action goes with REMOVE. -/
def asTest (act : Nat) (ch : BitVec 21) (pkt : List Word) (run : Nat → State → State) (s : State) : State :=
  asOp 0x96 pkt (fun s => if testAct pkt = act ∨ (testAct pkt = 3 ∧ act = 0) then startOther ch pkt run s else s) s

/-- SELFTEST REMOVE. -/
def runRemove (pkt : List Word) (id : Nat) (s : State) : State :=
  let k := testKind pkt
  let n := testUnit pkt
  if testBad s pkt || (k == 0 && lastEngine s n) then done id stBadCommand 0 s
  else if k == 2 && (linksOf n).any (fun p => (link s p).en) then done id stBusy 0 s
  else done id stOk 0 (tidyDeficits (modService k n (fun v => if v.removed then v else { v with removed := true, passed := false }) s))

/-- SELFTEST_REMOVE. -/
def execSelftestRemove (ch : BitVec 21) (pkt : List Word) (s : State) : Host.Outcome State Fault Refusal := .next (asTest 0 ch pkt (runRemove pkt) s)

/-- A unit is in service as far as TEST is concerned. -/
def inService (s : State) (k n : Nat) : Bool :=
  if k = 1 then poolOf s n != 2 else if k = 0 then engineServes s n else !(service s k n).removed

/-- SELFTEST TEST: it completes when the test ends. -/
def runTest (pkt : List Word) (id : Nat) (s : State) : State :=
  let k := testKind pkt
  let n := testUnit pkt
  if testBad s pkt then done id stBadCommand 0 s
  else if inService s k n || (k == 0 && engineLoad s n != 0) then done id stBusy 0 s
  else mgmtWait id { s with stw := { s.stw with test := some (k, n, id) } }

/-- SELFTEST_TEST. One test runs at a time: a second command waits for it. -/
def execSelftestTest (ch : BitVec 21) (pkt : List Word) (s : State) : Host.Outcome State Fault Refusal :=
  .next (if s.stw.test.isSome then s else asTest 1 ch pkt (runTest pkt) s)

/-- SELFTEST_DONE (R449): a pass counts for RESTORE, and calibrates a croft; a failure raises SELFTEST. -/
def testDone (step : Word) (s : State) : State :=
  match s.stw.test with
  | none => s
  | some (k, n, id) =>
    let s := { s with stw := { s.stw with test := none } }
    let s := if step = 0 then
        let s := if k = 1 then s else modService k n (fun v => { v with passed := true }) s
        if k = 2 then calibrated n s else s
      else raise (unitSource k n) kSelftest (bits step 0 52) [] none s
    done id stOk step s

/-- SELFTEST_DONE. -/
def execSelftestDone (failStep : Word) (s : State) : Host.Outcome State Fault Refusal := .next (if running s then testDone failStep s else s)

/-- SELFTEST RESTORE. -/
def runRestore (pkt : List Word) (id : Nat) (s : State) : State :=
  let k := testKind pkt
  let n := testUnit pkt
  if testBad s pkt || (source s (unitSource k n)).severe || !(service s k n).passed then done id stBadCommand 0 s
  else done id stOk 0 (startForced (modService k n (fun v => { v with removed := false, severe := false }) s))

/-- SELFTEST_RESTORE. -/
def execSelftestRestore (ch : BitVec 21) (pkt : List Word) (s : State) : Host.Outcome State Fault Refusal := .next (asTest 2 ch pkt (runRestore pkt) s)

end Sys2Proof.Machine
end

