-- ==== Sys2Proof/Machine/Registers.lean ====
section
/-! DEFINITION. The control port: which accesses are served (R465, R466), how a write is judged (R462, R463), every register that can be
written, and the rows of the table that are register writes (R461-R479). -/

namespace Sys2Proof.Machine

/-! ## A register and a write of it (R462, R463) -/

/-- How a register takes a write: its value, the mask of its RW fields, whether it has a writable field at all, whether the new and written
words keep to its conditions and ranges, and what the write does. -/
structure RegSpec where
  old  : Word := 0
  mask : Word := 0
  rw   : Bool := true
  ok   : Word → Word → Bool := fun _ _ => true
  act  : Word → Word → State → State := fun _ _ s => s

/-- A register whose fields are all RO. -/
def roReg : RegSpec := { rw := false }

/-- A register of an absent unit or link: a write is ignored (R447). -/
def absentReg : RegSpec := {}

/-- A write that is ignored raises CONFIG, one that is dropped for its requestor ACCESS, both with the CTRLP address (R396, R463). -/
def regConfig (who : Who) (a : Nat) (s : State) : State := raise srcCtrlp kConfig a [] (whoParish who) s
def regAccess (who : Who) (a : Nat) (s : State) : State := raise srcCtrlp kAccess a [] (whoParish who) s

/-- A write is judged whole against the register's value before it. -/
def regApply (who : Who) (a : Nat) (r : RegSpec) (v : Word) (s : State) : State :=
  let new := merge r.old v r.mask
  if !r.rw || !(r.ok new v) then regConfig who a s else r.act new v s

/-- A field is unchanged. -/
def same (old new : Word) (lo len : Nat) : Bool := bits old lo len == bits new lo len

/-- A field lies in its range. -/
def within (w : Word) (lo len a b : Nat) : Bool := decide (a ≤ bits w lo len) && decide (bits w lo len ≤ b)

/-- A BASE field [51:12] that is locked while `en`. -/
def baseReg (old : Word) (en : Bool) (set : Word → State → State) : RegSpec :=
  { old := old, mask := maskAt 12 40, ok := fun n _ => !en || n == old, act := fun n _ => set n }

/-- A ring's HEAD: it moves forward, not past TAIL (R471). -/
def headOk (x : Ring) (v : Word) : Bool := decide (dist32 (v.extractLsb' 0 32) x.head ≤ dist32 x.tail x.head)

/-- Move a ring's HEAD, then do what frees. -/
def headReg (r : RingId) (then_ : State → State) (s : State) : RegSpec :=
  let x := ringGet r s
  { old := place x.head.toNat 0 32, mask := maskAt 0 32, ok := fun n _ => headOk x n
    act := fun n _ s => then_ (ringSet r { ringGet r s with head := n.extractLsb' 0 32 } s) }

/-- LOG2 in bits [4:0] of a CTL word: in its range, and unchanged while EN, bit 5, is 1. -/
def log2Ok (old new : Word) (lo hi : Nat) : Bool := within new 0 5 lo hi && (!(bitAt old 5) || same old new 0 5)

/-- Held records and log entries are written as space frees. -/
def flushFaults (s : State) : State := faultFlush s.flt.held.length s
def flushLog (s : State) : State := logFlush s.stw.held.length s
def flushTer (s : State) : State := terFlush s.ter.unwritten.length s

/-- No link is up: what LEVEL, ROLE and ALM_SERDES_LAT need. -/
def noLinkUp (s : State) : Bool := s.lnk.links.all fun e => !e.2.joined && e.2.state != .up

/-! ## Comparators of the operator (R377) -/

/-- The periods after which a time has passed `now`: COMPARE is advanced until it lies in the future. -/
def nextCompare (s : State) (t : Time) (period : Nat) : Time := later t ((elapsed s t / period + 1) * period)

/-- An operator comparator fires: FIRED, a wake with WAKE in PARKED, disarmed or advanced. -/
def fireCmp (n : Nat) (s : State) : State :=
  let c := cmpOf s n
  let s := markFired n s
  let s := modCmp n (fun c => if c.period = 0 then { c with en := false } else { c with compare := nextCompare s c.compare (c.period.toNat * usUnits) }) s
  if c.wake && !s.flt.safe then wakeBlock s else s

/-- A comparator armed with COMPARE already reached fires at once. -/
def armedCmp (n : Nat) (s : State) : State := if (cmpOf s n).en && cmpDue s n then fireCmp n s else s

/-- ALM_CMP_TIME_n. -/
def cmpTimeReg (n : Nat) (s : State) : RegSpec :=
  { old := (cmpOf s n).compare, mask := maskAt 0 64, ok := fun _ _ => !(cmpOf s n).en
    act := fun v _ => modCmp n fun c => { c with compare := v } }

/-- ALM_CMP_CTL_n. -/
def cmpCtlReg (n : Nat) (s : State) : RegSpec :=
  let c := cmpOf s n
  { old := place c.period.toNat 4 32 ||| flag c.wake 1 ||| flag c.en 0, mask := maskAt 4 32 ||| maskAt 0 2
    act := fun v _ s => armedCmp n (modCmp n (fun c => { c with period := v.extractLsb' 4 32, wake := bitAt v 1, en := bitAt v 0 }) s) }

/-! ## Calibration windows (R451, R453) -/

/-- Comparator 3 times the next window, when there are windows. -/
def planWindows (s : State) : State :=
  let period := bits s.gbl.calCtl 48 16 * msUnits
  if period = 0 then modCmp 3 (fun c => { c with en := false }) s
  else
    let t := s.gbl.calStart
    modCmp 3 (fun _ => { compare := if reached s t then later t (ceilDiv (elapsed s t) period * period) else t, en := true }) s

/-! ## The global page (R467) -/

/-- GBL_FW_LOC (R342, R441). -/
def fwLocReg (s : State) : RegSpec :=
  { old := s.stw.fwPages, mask := maskAt 12 52, ok := fun n _ => s.ree.boot != 2 && within n 52 12 2 385
    act := fun n _ s => { s with stw := { s.stw with fwPages := n } } }

/-- GBL_FABRIC_ID (R444). -/
def fabricIdReg (s : State) : RegSpec :=
  let g := s.gbl
  let old := flag g.fabricValid 15 ||| flag g.fabricMode 12 ||| place g.fabricId.toNat 0 9
  { old := old, mask := maskAt 12 1 ||| maskAt 0 9
    ok := fun n _ => (same old n 12 1 || !g.fabricValid) && (same old n 0 9 || (!g.fabricValid && g.fabricMode))
    act := fun n _ s =>
      if s.gbl.fabricValid then s
      else takeFabricId { s with gbl := { s.gbl with
        fabricMode := bitAt n 12, fabricId := n.extractLsb' 0 9, idWritten := s.gbl.fabricMode && bitAt n 12 } } }

/-- CHN_TABLE_CTL (R470): EN clears only with no channel unparked, the overflow ring empty and no WAIT in the table. -/
def chnCtlReg (s : State) : RegSpec :=
  let old := s.gbl.chnCtl
  { old := old, mask := maskAt 0 6
    ok := fun n _ => log2Ok old n 10 21
      && (bitAt n 5 || !(bitAt old 5) || (s.chn.chans.isEmpty && s.chn.ovf.isEmpty && !(s.chn.waits.any fun w => w.table)))
    act := fun n _ s => { s with gbl := { s.gbl with chnCtl := n } } }

/-- GBL_WIN_CTL (R138): the table is zero when EN is set, so every entry is FREE. -/
def winCtlReg (s : State) : RegSpec :=
  let old := s.gbl.winCtl
  { old := old, mask := maskAt 0 6, ok := fun n _ => log2Ok old n 10 20
    act := fun n _ s =>
      let s := { s with gbl := { s.gbl with winCtl := n } }
      if !(bitAt old 5) && bitAt n 5 then { s with wins := { s.wins with entries := [], cached := [] } } else s }

/-- A notification CTL word; parish software writes MASK and HOLDOFF alone (R471, R475). -/
def notifyCtlReg (o : Owner) (own : Bool) (s : State) : RegSpec :=
  let old := (notifyOf o s).ctl
  { old := old, mask := maskAt 16 10 ||| maskAt 8 1 ||| (if own then 0 else maskAt 0 6)
    ok := fun n _ => log2Ok old n 6 16
    act := fun n _ => modNotify o fun x => { x with ctl := n } }

/-- GBL_TER_FAULT_CTL (R157, R159). -/
def terCtlReg (s : State) : RegSpec :=
  let old := s.gbl.terCtl
  { old := old, mask := maskAt 32 14 ||| maskAt 0 6, ok := fun n _ => log2Ok old n 6 16 && within n 32 14 1 10000
    act := fun n _ s =>
      let s := { s with gbl := { s.gbl with terCtl := n } }
      if bitAt old 5 && !(bitAt n 5) then terEnCleared s else flushTer s }

/-- GBL_ROUTE_CTL (R179, R180). -/
def routeCtlReg (s : State) : RegSpec :=
  let old := s.route.ctl
  { old := old, mask := maskAt 16 16 ||| maskAt 0 1, ok := fun n _ => within n 16 16 100 10000 && (same old n 0 1 || noLinkUp s)
    act := fun n _ s =>
      let t := { s with route := { s.route with ctl := n } }
      if activeBank t = activeBank s then planesChanged s t else routesChanged s t }

/-- BRN_STATUS (R253): HIGH_WATER restarts from what is written, and never hides the level held (R464). -/
def brnReg (s : State) : RegSpec :=
  { old := place s.brn.highWater.toNat 32 20, mask := maskAt 32 20
    act := fun n _ s => highWater { s with brn := { s.brn with highWater := n.extractLsb' 32 20 } } }

/-- GBL_CAL_CTL and GBL_CAL_START (R453). -/
def calCtlReg (s : State) : RegSpec :=
  { old := s.gbl.calCtl, mask := maskAt 48 16 ||| maskAt 32 16 ||| maskAt 0 8
    ok := fun n _ => within n 48 16 0 60000 && within n 32 16 100 10000 && within n 0 8 1 32
    act := fun n _ s => planWindows { s with gbl := { s.gbl with calCtl := n } } }
def calStartReg (s : State) : RegSpec :=
  { old := s.gbl.calStart, mask := maskAt 0 64, act := fun n _ s => planWindows { s with gbl := { s.gbl with calStart := n } } }

/-- The bits of GBL_EVENT_STATUS that R473 gives. -/
def eventBits : Word := maskAt 20 1 ||| maskAt 16 3 ||| maskAt 8 5 ||| maskAt 0 4

/-- STW_LOG_CTL (R474). -/
def logCtlReg (s : State) : RegSpec :=
  { old := s.stw.logCtl, mask := maskAt 0 6, ok := fun n _ => log2Ok s.stw.logCtl n 6 16
    act := fun n _ s => flushLog { s with stw := { s.stw with logCtl := n } } }

/-- ALM_CTL (R369, R372, R391). -/
def almCtlReg (s : State) : RegSpec :=
  let old := s.alm.ctl
  { old := old, mask := maskAt 32 16 ||| maskAt 0 2
    ok := fun n _ => within n 32 16 100 10000 && (same old n 0 1 || noLinkUp s)
    act := fun n _ s =>
      let free := bitAt n 0 && !(bitAt n 1)
      { s with alm := { s.alm with ctl := n, state := if free then .freeRun else s.alm.state, rate := if free then 0 else s.alm.rate } } }

/-- ALM_CMP_STATUS: FIRED of comparators 8 to 15 is cleared by writing 1. -/
def cmpStatusReg : RegSpec :=
  { act := fun _ v s => { s with alm := { s.alm with fired := s.alm.fired &&& ~~~((v &&& maskAt 8 8).extractLsb' 0 16) } } }

/-- CUR_CTL (R434, R437): RELEASE is accepted only with DONE. -/
def curCtlReg (s : State) : RegSpec :=
  { old := s.cur.ctl, mask := maskAt 32 32 ||| maskAt 1 4
    ok := fun n v => within n 48 16 1000 65535 && within n 32 16 64 65535 && (bits v 5 2 == 0 || (bits v 5 2 != 3 && s.cur.done))
    act := fun n v s =>
      let s := { s with cur := { s.cur with ctl := n } }
      if bits v 5 2 = 0 then s else releaseCurfew (bits v 5 2 == 2) s }

/-- PWR_CTL (R384, R391): faster crofts come down to MAX_RATE. -/
def pwrCtlReg (s : State) : RegSpec :=
  { old := s.pwr.ctl, mask := maskAt 8 8 ||| maskAt 4 2 ||| maskAt 0 2, ok := fun n _ => within n 4 2 0 2
    act := fun n _ s =>
      let s := { s with pwr := { s.pwr with ctl := n } }
      (croftsOn s).foldl (fun s c => if (croft s c).rate.toNat < maxRate s then startSpeed c (BitVec.ofNat 2 (maxRate s)) s else s) s }

/-- PWR_OVERSHOOT (R387, R391): what is written is the episode recorded; 0 restarts recording. -/
def overshootReg (s : State) : RegSpec :=
  { old := s.pwr.overshoot, mask := maskAt 0 64, act := fun n _ s => { s with pwr := { s.pwr with overshoot := n } } }

/-- FLT_STATUS: RING_LOST and FIRST are cleared by writing 1 (R404, R413). -/
def fltStatusReg : RegSpec :=
  { act := fun _ v s =>
      let s := if bitAt v 3 then { s with flt := { s.flt with ringLost := false } } else s
      if bitAt v 1 then clearFirst s else s }

/-- FLT_CTL (R413): the pin follows PIN outside a pulse. -/
def fltCtlReg (s : State) : RegSpec :=
  { old := s.flt.ctl, mask := maskAt 32 16 ||| maskAt 8 1 ||| maskAt 0 6
    ok := fun n _ => log2Ok s.flt.ctl n 6 16 && within n 32 16 0 10000
    act := fun n _ s =>
      let s := { s with flt := { s.flt with ctl := n } }
      flushFaults (if s.flt.pulse.isSome then s else { s with pins := { s.pins with fault := faultPin s } }) }

/-- FLT_ACTION (R401, R406, R413). -/
def fltActionReg (a : Nat) : RegSpec :=
  { ok := fun _ v => bits v 62 2 != 3 && (bits v 62 2 != 2 || srcListed (bits v 0 10))
    act := fun _ v s => if bits v 62 2 = 1 then forceEvent a v s else if bits v 62 2 = 2 then clearSource v s else s }

/-- OBS_CTL (R437). -/
def obsCtlReg (s : State) : RegSpec :=
  { old := s.obs.ctl, mask := maskAt 48 16 ||| maskAt 7 6 ||| maskAt 0 2 
    ok := fun n _ => within n 48 16 1 60000 && within n 8 5 1 16 && within n 0 2 0 2
    act := fun n _ s => { s with obs := { s.obs with ctl := n } } }

/-- A register that holds a whole word. -/
def wordReg (old : Word) (set : Word → State → State) : RegSpec := { old := old, mask := maskAt 0 64, act := fun n _ => set n }

/-- The register at an offset of the global page; none where no register lies. -/
def globalReg (s : State) (a : Nat) : Option RegSpec :=
  if a % 8 ≠ 0 then none
  else if a ≤ 0x10 ∨ a = 0x28 then some roReg
  else if a = 0x18 then some (fwLocReg s)
  else if a = 0x20 then some (fabricIdReg s)
  else if a = 0x30 then some
    { old := place s.gbl.txnMs.toNat 0 10, mask := maskAt 0 10, ok := fun n _ => within n 0 10 1 1000
      act := fun n _ s => { s with gbl := { s.gbl with txnMs := n.extractLsb' 0 10 } } }
  else if a = 0x1000 then some (baseReg s.gbl.chnBase (bitAt s.gbl.chnCtl 5) fun n s => { s with gbl := { s.gbl with chnBase := n } })
  else if a = 0x1008 then some (chnCtlReg s)
  else if a = 0x1010 then some (baseReg s.gbl.winBase (bitAt s.gbl.winCtl 5) fun n s => { s with gbl := { s.gbl with winBase := n } })
  else if a = 0x1018 then some (winCtlReg s)
  else if a = 0x1020 then some (baseReg s.gbl.notify.base (bitAt s.gbl.notify.ctl 5) fun n => modNotify .operator fun x => { x with base := n })
  else if a = 0x1028 then some (notifyCtlReg .operator false s)
  else if a = 0x1030 then some roReg
  else if a = 0x1038 then some (headReg (.notify .operator) (notifyPending .operator) s)
  else if a = 0x1040 then some (baseReg s.gbl.terBase (bitAt s.gbl.terCtl 5) fun n s => { s with gbl := { s.gbl with terBase := n } })
  else if a = 0x1048 then some (terCtlReg s)
  else if a = 0x1050 then some roReg
  else if a = 0x1058 then some (headReg .terrier flushTer s)
  else if a = 0x2000 then some (routeCtlReg s)
  else if a = 0x2008 then some
    { old := s.tal.ctl, mask := maskAt 0 16, ok := fun n _ => bits n 0 8 != 0 && bits n 8 8 != 0
      act := fun n _ s => { s with tal := { s.tal with ctl := n } } }
  else if a = 0x2010 ∨ a = 0x2020 then some roReg
  else if a = 0x2018 then some (brnReg s)
  else if a = 0x2028 then some (if s.part.m then { act := fun _ v => milPool v (maskAt 0 16) } else absentReg)
  else if a = 0x2030 ∨ a = 0x2038 then some (if s.part.m then roReg else absentReg)
  else if a = 0x2040 then some (calCtlReg s)
  else if a = 0x2048 then some (calStartReg s)
  else if a = 0x2050 then some roReg
  else if a = 0x3000 then some { act := fun _ v s => { s with gbl := { s.gbl with eventStatus := s.gbl.eventStatus &&& ~~~v } } }
  else if a = 0x3008 then some
    { old := s.gbl.eventMask, mask := eventBits, act := fun n _ s => { s with gbl := { s.gbl with eventMask := n } } }
  else if a = 0x3010 then some { act := fun _ v s => { s with gbl := { s.gbl with linkEvent0 := s.gbl.linkEvent0 &&& ~~~v } } }
  else if a = 0x3018 then some { act := fun _ v s => { s with gbl := { s.gbl with linkEvent1 := s.gbl.linkEvent1 &&& ~~~v } } }
  else if a = 0x3020 then some (baseReg s.stw.logBase (bitAt s.stw.logCtl 5) fun n s => { s with stw := { s.stw with logBase := n } })
  else if a = 0x3028 then some (logCtlReg s)
  else if a = 0x3030 then some (headReg .steward flushLog s)
  else if a = 0x4000 ∨ a = 0x4018 then some roReg
  else if a = 0x4008 then some (almCtlReg s)
  else if a = 0x4010 then some
    { old := s.alm.serdesLat, mask := maskAt 0 32, ok := fun n _ => n == s.alm.serdesLat || noLinkUp s
      act := fun n _ s => { s with alm := { s.alm with serdesLat := n } } }
  else if a = 0x4020 then some cmpStatusReg
  else if 0x4100 ≤ a ∧ a < 0x4180 then some (if a % 16 = 0 then cmpTimeReg (8 + (a - 0x4100) / 16) s else cmpCtlReg (8 + (a - 0x4100) / 16) s)
  else if a = 0x5000 then some (curCtlReg s)
  else if a = 0x5008 ∨ a = 0x5010 then some roReg
  else if a = 0x5018 then some (wordReg s.cur.restart fun n s => { s with cur := { s.cur with restart := n } })
  else if a = 0x5020 then some
    { old := s.cur.dumpBase, mask := maskAt 21 31, ok := fun n _ => n == s.cur.dumpBase || s.cur.state == .idle
      act := fun n _ s => { s with cur := { s.cur with dumpBase := n } } }
  else if a = 0x6000 then some (pwrCtlReg s)
  else if a = 0x6008 then some roReg
  else if a = 0x6010 then some (overshootReg s)
  else if a = 0x7000 then some fltStatusReg
  else if a = 0x7008 ∨ a = 0x7010 then some roReg
  else if a = 0x7018 then some (fltCtlReg s)
  else if a = 0x7020 then some (baseReg s.flt.base (bitAt s.flt.ctl 5) fun n s => { s with flt := { s.flt with base := n } })
  else if a = 0x7028 then some (headReg .fault flushFaults s)
  else if a = 0x7030 then some (fltActionReg a)
  else if 0x7080 ≤ a ∧ a < 0x7100 then some roReg
  else if a = 0x8000 then some (obsCtlReg s)
  else if a = 0x8008 then some (baseReg s.obs.snapBase false fun n s => { s with obs := { s.obs with snapBase := n } })
  else if a = 0x8010 then some (wordReg s.obs.watchCurfew fun n s => { s with obs := { s.obs with watchCurfew := n } })
  else if 0x8100 ≤ a ∧ a < 0x8180 then
    let j := (a - 0x8100) / 8
    some (wordReg (Tab.get 0 s.obs.filters j) fun n s => { s with obs := { s.obs with filters := Tab.put 0 s.obs.filters j n } })
  else if 0x8200 ≤ a ∧ a < 0x8400 then some roReg
  else if 0x10000 ≤ a ∧ a < 0x10000 + 8 * 0xB68 then some roReg
  else none

/-! ## Croft pages (R228) -/

/-- A link whose EN becomes 1 trains, once its croft is calibrated; the links of a removed croft do not (R228, R442, R448). -/
def enableLink (p : Nat) (s : State) : State :=
  let c := p / 3
  let st : LinkState := if croftRemoved s c then .off else if s.gbl.calibrated.getLsbD c then .training else .calibrating
  modLink p (fun l => { freshLink l with state := st, miswiredAt := none }) s

/-- A link whose EN becomes 0 is OFF; a joined one is first declared down (R228). -/
def disableLink (p : Nat) (s : State) : State :=
  startForced (if (link s p).joined then linkDown p s else modLink p (fun l => { freshLink l with state := .off, lanes := 0, miswiredAt := none }) s)

/-- A write of WIDTH starts a width change (R212). A write of 0 ends a narrowing for health (R218). -/
def writeWidth (p w : Nat) (s : State) : State :=
  let s := if w = 0 then modLink p (fun l => { l with stay := 3 }) s else s
  if (link s p).joined then startWidth p (widthLanes s p w) (if w = 0 then .none else .operator) s else s

/-- LNK_CTL as a word. -/
def lnkCtlWord (l : Link) : Word :=
  place l.downTime.toNat 32 14 ||| place l.granaryFlits.toNat 16 15 ||| place l.csymShift.toNat 8 5 ||| flag l.autoNarrow 4
  ||| place l.width.toNat 1 2 ||| flag l.en 0

/-- LNK_CTL. -/
def lnkCtlReg (p : Nat) (s : State) : RegSpec :=
  let l := link s p
  let old := lnkCtlWord l
  { old := old, mask := maskAt 32 14 ||| maskAt 16 15 ||| maskAt 8 5 ||| maskAt 4 1 ||| maskAt 0 3
    ok := fun n _ => within n 32 14 10 10000 && within n 16 15 0 32511 && within n 1 2 0 2 && (same old n 16 15 || !l.en)
    act := fun n _ s =>
      let f := fun (x : Link) => { x with
        downTime := n.extractLsb' 32 14, granaryFlits := n.extractLsb' 16 15, csymShift := n.extractLsb' 8 5, autoNarrow := bitAt n 4,
        width := n.extractLsb' 1 2, en := bitAt n 0 }
      let s := modLink p f s
      if !l.en && bitAt n 0 then enableLink p s
      else if l.en && !(bitAt n 0) then disableLink p s
      else writeWidth p (bits n 1 2) s }

/-- CRF_CTL (R214, R384): a write starts a speed change; a rate faster than MAX_RATE is out of range. -/
def crfCtlReg (c : Nat) (s : State) : RegSpec :=
  { old := place ((croft s c).rateNext.getD ((croft s c).rateTo.getD (croft s c).rate)).toNat 0 2, mask := maskAt 0 2
    ok := fun n _ => within n 0 2 (maxRate s) 2
    act := fun n _ => startSpeed c (n.extractLsb' 0 2) }

/-- The register at an offset of croft c's page. -/
def croftReg (s : State) (c a : Nat) : Option RegSpec :=
  let i := a / 0x1000
  let o := a % 0x1000
  if a % 8 ≠ 0 ∨ 0x4000 ≤ a then none
  else if i = 0 then
    if o = 0 then some (if hasCroft s c then crfCtlReg c s else absentReg)
    else if o = 8 then some (if hasCroft s c then roReg else absentReg) else none
  else
    let p := 3 * c + i - 1
    if 0x38 ≤ o then none
    else if !(hasLink s p) then some absentReg
    else if o = 0 then some (lnkCtlReg p s)
    else if o = 0x10 then some
      { old := (link s p).granaryBase, mask := maskAt 16 36, ok := fun n _ => !(link s p).en || n == (link s p).granaryBase
        act := fun n _ => modLink p fun l => { l with granaryBase := n } }
    else some roReg

/-! ## Parish pages (R475-R477) -/

/-- The register at an offset of parish q's page; `own` when parish software writes it. Its RO registers are dropped with ACCESS then. -/
def parishReg (s : State) (q : BitVec 6) (own : Bool) (a : Nat) : Option RegSpec :=
  let p := parish s q.toNat
  let set := fun (f : Word → Parish → Parish) (n : Word) (s : State) => modParish q.toNat (f n) s
  if a % 8 ≠ 0 then none
  else if a ≤ 0x18 ∨ a = 0x40 then some roReg
  else if a = 0x20 then some
    { act := fun _ v => modParish q.toNat fun p => { p with soft := p.soft && !(bitAt v 1), ovf := p.ovf && !(bitAt v 0) } }
  else if a = 0x28 then some { act := fun _ v => modParish q.toNat fun p => { p with soft := p.soft || bitAt v 1 } }
  else if a = 0x30 then some (baseReg p.notify.base (bitAt p.notify.ctl 5) fun n => modNotify (.parish q) fun x => { x with base := n })
  else if a = 0x38 then some (notifyCtlReg (.parish q) own s)
  else if a = 0x48 then some (headReg (.notify (.parish q)) (notifyPending (.parish q)) s)
  else if a = 0x50 then some
    { old := place p.terMode.toNat 0 2, mask := maskAt 0 2, ok := fun n _ => within n 0 2 0 2
      act := fun n _ => set (fun n p => { p with terMode := n.extractLsb' 0 2 }) n }
  else if a = 0x58 then some { old := p.terRoot, mask := maskAt 11 41, act := fun n _ => set (fun n p => { p with terRoot := n }) n }
  else if (a = 0x60 ∨ a = 0x68 ∨ a = 0x70) ∧ s.part.t = false then some absentReg
  else if a = 0x60 then some (baseReg p.traceBase (bitAt p.traceCtl 5) (set fun n p => { p with traceBase := n }))
  else if a = 0x68 then some
    { old := p.traceCtl, mask := maskAt 0 6, ok := fun n _ => log2Ok p.traceCtl n 6 20, act := fun n _ => set (fun n p => { p with traceCtl := n }) n }
  else if a = 0x70 then some (headReg (.trace q) id s)
  else if 0x100 ≤ a ∧ a < 0x120 then
    let j := (a - 0x100) / 8
    some (wordReg (Tab.get 0 p.filters j) (set fun n p => { p with filters := Tab.put 0 p.filters j n }))
  else if 0x200 ≤ a ∧ a < 0x400 then some roReg
  else if 0x1000 ≤ a ∧ a < 0x1000 + 8 * 0x30 then some roReg
  else none

/-- The registers that the table of R475 gives parish software as RO. -/
def parishRo (a : Nat) : Bool := a == 0x30 || a == 0x50 || a == 0x58 || a == 0x60 || a == 0x68

/-! ## The Reeve page (R338, R413, R478) -/

/-- Reeve writes the registers of its page (R338), its working registers from offset 0x8_0000 on (R478) among them. Of REE_STATUS, PAIRS and NOTE_PENDING go on showing the pair slots and notes (log entry 158). -/
def reeveReg (s : State) (a : Nat) : Option RegSpec :=
  let set := fun (f : Word → Ree → Ree) (n : Word) (s : State) => { s with ree := f n s.ree }
  if a % 8 ≠ 0 then none
  else if a = 0 then some { act := fun _ v => set (fun v r => { r with
      fwSvn := v.extractLsb' 48 16, otpSvn := v.extractLsb' 32 16, noteLost := bitAt v 9, sealReady := bitAt v 4, boot := v.extractLsb' 0 4 }) v }
  else if a = 8 then some { act := fun _ v => set (fun v r => { r with sealMap := v }) v }
  else if a = 0x100 then some { old := s.ree.pwrFloor, mask := maskAt 0 23, ok := fun n _ => within n 16 7 0 96, act := fun n _ s => capChanged (set (fun n r => { r with pwrFloor := n }) n s) }
  else if a = 0x108 then some
    { old := s.ree.pwrBrake, mask := maskAt 8 4 ||| maskAt 0 7, ok := fun n _ => within n 8 4 0 8 && within n 0 7 1 64
      act := fun n _ => set (fun n r => { r with pwrBrake := n }) n }
  else if a = 0x110 then some
    { old := s.ree.orphan, mask := maskAt 0 32, ok := fun n _ => within n 0 16 1 10000, act := fun n _ s => capChanged (set (fun n r => { r with orphan := n }) n s) }
  else if a = 0x200 then some { old := s.ree.fltCtl, mask := maskAt 0 2, act := fun n _ => set (fun n r => { r with fltCtl := n }) n }
  else if a = 0x208 then some
    { old := s.ree.fltSafe, mask := maskAt 63 1 ||| maskAt 48 10 ||| maskAt 40 6 ||| maskAt 0 32
      act := fun n _ => set (fun n r => { r with fltSafe := n }) n }
  else if a = 0x210 then some (wordReg s.ree.fltCount (set fun n r => { r with fltCount := n }))
  else if a = 0x218 then some (wordReg s.ree.fltImm (set fun n r => { r with fltImm := n }))
  else if a = 0x220 then some (wordReg s.ree.fltFatal (set fun n r => { r with fltFatal := n }))
  else if a = 0x228 then some
    { act := fun _ v => set (fun v r => { r with
        srcSel := v.extractLsb' 32 10, srcProfile := Tab.put none r.srcProfile (bits v 32 10) (some (v.extractLsb' 0 4)) }) v }
  else if 0x280 ≤ a ∧ a < 0x300 then
    let k := (a - 0x280) / 8
    some { old := profile s k, mask := maskAt 63 1 ||| maskAt 0 40, ok := fun n _ => within n 0 8 1 255 && within n 8 32 1 3600000000
           act := fun n _ => set (fun n r => { r with profiles := Tab.put none r.profiles k (some n) }) n }
  else if 0x80000 ≤ a then some (wordReg (Tab.get 0 s.ree.work a) (set fun n r => { r with work := Tab.put 0 r.work a n }))
  else none

/-- An offset of the Reeve page that a register occupies. -/
def reevePage (a : Nat) : Bool := a == 0 || a == 8 || (a % 8 == 0 && decide (0x80000 ≤ a)) || 
  (a % 8 == 0 && ((decide (0x100 ≤ a) && decide (a ≤ 0x110)) || (decide (0x200 ≤ a) && decide (a ≤ 0x228)) || (decide (0x280 ≤ a) && decide (a < 0x300))))

/-! ## An access (R456, R465, R466) -/

/-- The register at a CTRLP address outside the Reeve page and the doorbells. -/
def regAt (s : State) (own : Bool) (a : Nat) : Option RegSpec :=
  if a < 0x100000 then globalReg s a
  else if 0x200000 ≤ a ∧ a < 0x400000 then croftReg s ((a - 0x200000) / 0x10000) (a % 0x10000)
  else if 0x400000 ≤ a ∧ a < 0x800000 then parishReg s (BitVec.ofNat 6 ((a - 0x400000) / 0x10000)) own (a % 0x10000)
  else none

/-- The address is a doorbell's. -/
def isBell (a : Nat) : Bool := decide (0x1000000 ≤ a) && decide (a < 0x2000000)

/-- A write that is served: size and place first (R456), then the requestor (R465, R475), then the register (R463). -/
def regServe (who : Who) (a size : Nat) (v : Word) (s : State) : State :=
  if size ≠ 8 ∨ a % 8 ≠ 0 then regConfig who a s
  else if who = .internal then regAccess who a s
  else if isBell a then ring { who := who, ch := BitVec.ofNat 21 ((a - 0x1000000) / 8), action := v.extractLsb' 62 2, val := v.extractLsb' 0 32 } s
  else match who with
    | .operator =>
      if 0x100000 ≤ a ∧ a < 0x200000 then (if reevePage (a - 0x100000) then regAccess who a s else regConfig who a s)
      else match regAt s false a with
        | some r => regApply who a r v s
        | none => regConfig who a s
    | .parish q =>
      let st := (parish s q.toNat).state
      if a / 0x10000 ≠ 0x40 + q.toNat ∨ (st ≠ .active ∧ st ≠ .retiring) then regAccess who a s
      else match regAt s true a with
        | some r => if parishRo (a % 0x10000) then regAccess who a s else regApply who a r v s
        | none => regConfig who a s
    | .internal => regAccess who a s
    | .reeve => regAccess who a s

/-- The registers of the Curfew controller and of Almanac, which a Curfew leaves served (R431). -/
def curOrAlm (a : Nat) : Bool := decide (0x4000 ≤ a) && decide (a < 0x6000)

/-- The registers of the AON, REF and CTRL domains and the Reeve page, which a PARKED block serves (R380, R466). -/
def parkedServes (a : Nat) : Bool := decide (a < 0x30) || (decide (0x100000 ≤ a) && decide (a < 0x200000)) || (decide (0x3000 ≤ a) && decide (a < 0x3020)) || (decide (0x4000 ≤ a) && decide (a < 0x8000))

/-- A write by Reeve's own path: its page, while Reeve runs. -/
def reeveWrite (a : Nat) (v : Word) (s : State) : State :=
  if s.pins.blockReset || stoppedByCurfew s then s
  else match reeveReg s (a - 0x100000) with
    | some r => if 0x100000 ≤ a ∧ a < 0x200000 then regApply .reeve a r v s else s
    | none => s

/-- A write reaches the control port: the block's state decides first (R466). -/
def regWrite (who : Who) (a size : Nat) (v : Word) (s : State) : State :=
  if !s.pins.pwrOk || s.pins.aonReset then s
  else if who = .reeve then reeveWrite a v s
  else if s.flt.safe then regAccess who a s
  else if stoppedByCurfew s && !(curOrAlm a) then holdAccess who a size (some v) s
  else if !(ctrlpOpen s) then (if a = 0x18 ∧ who = .operator then regServe who a size v s else regAccess who a s)
  else if s.pwr.state == .parked && !(parkedServes a) && who != .internal then holdAccess who a size (some v) s
  else regServe who a size v s

/-! ## Reads (R338, R465, R466) -/

/-- Word `k` of a channel's descriptor as memory holds it (R65). -/
def descWord (s : State) (ch : BitVec 21) (k : Nat) : Word := BitVec.ofNat 64 (ofLE (gather s.mem s.memp.writes [(descAddr s ch + 8 * k, 8)]))

/-- The parish of a channel: of one the controller does not hold, what memory holds of its descriptor. -/
def bellParish (s : State) (ch : BitVec 21) : BitVec 6 :=
  match chan? s ch with
  | some c => c.parish
  | none => (descWord s ch 0).extractLsb' 4 6

/-- A register occupies an address (R461). -/
def regThere (s : State) (a : Nat) : Bool :=
  if isBell a then a % 8 == 0
  else if 0x100000 ≤ a ∧ a < 0x200000 then reevePage (a - 0x100000)
  else (regAt s false a).isSome

/-- The Reeve page's registers that the operator may not read (RVO). -/
def reeveOnly (a : Nat) : Bool := decide (0x180000 ≤ a) && decide (a < 0x200000)

/-- A requestor may read an address (R338, R465, R475). -/
def mayRead (s : State) (who : Who) (a : Nat) : Bool :=
  match who with
  | .operator => !(reeveOnly a)
  | .reeve => true
  | .internal => false
  | .parish q =>
    let st := (parish s q.toNat).state
    a == 0 || a == 8 || (a / 0x10000 == 0x40 + q.toNat && (st == .active || st == .retiring))
    || (isBell a && (a - 0x1000000) / 8 != 0 && bellParish s (BitVec.ofNat 21 ((a - 0x1000000) / 8)) == q)

/-- The boot set's reads (R441). -/
def bootReads (a : Nat) : Bool := a == 0x10 || a == 0x18 || (decide (0x100000 ≤ a) && decide (a < 0x200000))

/-- A read that is served: CONFIG for a wrong size or an address that no register occupies, ACCESS where the requestor may not read (R456, R465).
It changes nothing else (R464). -/
def readServe (who : Who) (a size : Nat) (s : State) : State :=
  if size ≠ 8 ∨ a % 8 ≠ 0 then regConfig who a s
  else if !(mayRead s who a) then regAccess who a s
  else if !(regThere s a) then regConfig who a s
  else s

/-- A read reaches the control port: the block's state decides first (R466). -/
def regRead (who : Who) (a size : Nat) (s : State) : State :=
  if !s.pins.pwrOk || s.pins.aonReset then s
  else if who = .reeve || s.flt.safe then readServe who a size s
  else if stoppedByCurfew s && !(curOrAlm a) then holdAccess who a size none s
  else if !(ctrlpOpen s) then (if bootReads a then readServe who a size s else regAccess who a s)
  else if s.pwr.state == .parked && !(parkedServes a) && who != .internal then holdAccess who a size none s
  else readServe who a size s

/-- An access reaches the control port: a write of a value, or a read. -/
def access (who : Who) (a size : Nat) (val : Option Word) (s : State) : State :=
  match val with
  | some v => regWrite who a size v s
  | none => regRead who a size s

/-- The accesses held are judged again in arrival order once a Curfew has ended: those that a PARKED block holds go on waiting. -/
def replayHeld (s : State) : State :=
  if stoppedByCurfew s then s
  else
    let held := s.cur.heldAccesses
    held.foldl (fun s w => access w.1 w.2.1.toNat w.2.2.1.toNat w.2.2.2 s) { s with cur := { s.cur with heldAccesses := [] } }

/-- A row that is a register write: the write, and the accesses held that a wake it starts lets go on. -/
def regRow (who : Who) (a size : Nat) (v : Word) (s : State) : State := replayHeld (regWrite who a size v s)

/-! ## The rows -/

/-- REGISTER_WRITE (R463). -/
def execRegisterWrite (who : Who) (addr : BitVec 29) (size : BitVec 4) (val : Word) (s : State) : Host.Outcome State Fault Refusal :=
  .next (regRow who addr.toNat size.toNat val s)

/-! ## FAULT_MESSAGE (R393, R399) -/

/-- A crossing queue of a croft overflows: CLOCK at its source (R396). -/
def crossingOverflow (c : Nat) (s : State) : State := if running s && hasCroft s c then raise (srcCroft c) kClock 0 [] none s else s

/-- The event that reports, and the source of its message. -/
def faultEvent (o : FaultFrom) (s : State) : State :=
  match o with
  | .pending _ => s
  | .word w err => wordMet w err s
  | .predict p => if running s then predicted p s else s
  | .crossing c => crossingOverflow c.toNat s
  | .read who a size => replayHeld (regRead who a.toNat size.toNat s)
def faultSource : FaultFrom → BitVec 10
  | .pending src => src
  | .word w _ => BitVec.ofNat 10 (wordSource w)
  | .predict p => BitVec.ofNat 10 (predictSource p)
  | .crossing c => BitVec.ofNat 10 (srcCroft c.toNat)
  | .read _ _ _ => BitVec.ofNat 10 srcCtrlp

/-- FAULT_MESSAGE: what reports does, and the collector takes the oldest message of the group; with nothing reporting now, only if it is the
source's (R394, R399). -/
def execFaultMessage (origin : FaultFrom) (s : State) : Host.Outcome State Fault Refusal :=
  .next (
    let t := faultEvent origin s
    let own := match origin with
      | .pending _ => true
      | _ => false
    if alive t then faultMessage (faultSource origin) own t else t)

/-- PAR_IRQ_FORCE (R477). -/
def execParIrqForce (who : Who) (q : BitVec 6) (val : Word) (s : State) : Host.Outcome State Fault Refusal :=
  .next (regRow who (0x400028 + 0x10000 * q.toNat) 8 val s)

/-- CRF_CTL_RATE (R214). -/
def execCrfCtlRate (who : Who) (croft_ : BitVec 5) (val : Word) (s : State) : Host.Outcome State Fault Refusal :=
  .next (regRow who (0x200000 + 0x10000 * croft_.toNat) 8 val s)

/-- The address of LNK_CTL of a link (R228). -/
def lnkCtlAddr (p : Nat) : Nat := 0x200000 + 0x10000 * (p / 3) + 0x1000 * (p % 3 + 1)

/-- LNK_CTL_WIDTH (R212). -/
def execLnkCtlWidth (who : Who) (link_ : BitVec 7) (val : Word) (s : State) : Host.Outcome State Fault Refusal :=
  .next (if link_.toNat < 96 then regRow who (lnkCtlAddr link_.toNat) 8 val s else s)

/-- LNK_CTL_EN (R228). -/
def execLnkCtlEn (who : Who) (link_ : BitVec 7) (val : Word) (s : State) : Host.Outcome State Fault Refusal :=
  .next (if link_.toNat < 96 then regRow who (lnkCtlAddr link_.toNat) 8 val s else s)

/-- PWR_CTL_MAX_RATE (R384). -/
def execPwrCtlMaxRate (who : Who) (val : Word) (s : State) : Host.Outcome State Fault Refusal := .next (regRow who 0x6000 8 val s)

/-- MIL_POOL (R321). -/
def execMilPool (who : Who) (val : Word) (s : State) : Host.Outcome State Fault Refusal := .next (regRow who 0x2028 8 val s)

/-- ALM_CMP_ARM (R377): comparators 8 to 15 are the operator's. -/
def execAlmCmpArm (who : Who) (n : BitVec 4) (val : Word) (s : State) : Host.Outcome State Fault Refusal :=
  .next (if 8 ≤ n.toNat then regRow who (0x4108 + 0x10 * (n.toNat - 8)) 8 val s else s)

/-- FLT_FORCE: a write of FLT_ACTION with FORCE (R406). -/
def execFltForce (who : Who) (val : Word) (s : State) : Host.Outcome State Fault Refusal :=
  .next (if bits val 62 2 = 1 then regRow who 0x7030 8 val s else s)

/-- FLT_CLEAR_SOURCE: a write of FLT_ACTION with CLEAR_SOURCE (R401). -/
def execFltClearSource (who : Who) (val : Word) (s : State) : Host.Outcome State Fault Refusal :=
  .next (if bits val 62 2 = 2 then regRow who 0x7030 8 val s else s)

/-- FLT_FIRST_CLEAR: a write of FLT_STATUS with FIRST (R404). -/
def execFltFirstClear (who : Who) (val : Word) (s : State) : Host.Outcome State Fault Refusal :=
  .next (if bitAt val 1 then regRow who 0x7000 8 val s else s)

/-- CURFEW_RELEASE_CONTINUE: a write of CUR_CTL with RELEASE = 1 (R434). -/
def execCurfewReleaseContinue (who : Who) (val : Word) (s : State) : Host.Outcome State Fault Refusal :=
  .next (if bits val 5 2 = 1 then regRow who 0x5000 8 val s else s)

/-- CURFEW_RELEASE_HALT: a write of CUR_CTL with RELEASE = 2 (R434). -/
def execCurfewReleaseHalt (who : Who) (val : Word) (s : State) : Host.Outcome State Fault Refusal :=
  .next (if bits val 5 2 = 2 then regRow who 0x5000 8 val s else s)

/-- TER_FAULT_EN_CLEAR: a write of GBL_TER_FAULT_CTL that clears EN (R159). -/
def execTerFaultEnClear (who : Who) (val : Word) (s : State) : Host.Outcome State Fault Refusal :=
  .next (if bitAt val 5 then s else regRow who 0x1048 8 val s)

/-- NOTIFY_HOLDOFF_EXPIRY (R91): entries have been pending for HOLDOFF µs. -/
def holdoffExpiry (o : Owner) (s : State) : State :=
  let n := notifyOf o s
  match n.since with
  | some t => if reached s (later t (bits n.ctl 16 10 * usUnits)) then modNotify o (fun n => { n with holdDone := true }) s else s
  | none => s

/-- NOTIFY_HOLDOFF_EXPIRY. -/
def execNotifyHoldoffExpiry (ring : Owner) (s : State) : Host.Outcome State Fault Refusal := .next (if running s then holdoffExpiry ring s else s)

end Sys2Proof.Machine
end

