-- ==== Sys2Proof/Machine/Boot.lean ====
section
/-! DEFINITION. Resets and the start-up sequence (R439-R446), Reeve's check of Steward's image (R344), wakes of a PARKED block (R377, R380)
and the restart after a Curfew (R434). -/

namespace Sys2Proof.Machine

/-! ## Resets (R439, R440) -/

/-- What of Almanac survives a reset of the block: counter, state, comparators 8 to 15 (R365, R392, R439). -/
def almSurvives (a : Alm) : Alm :=
  { now := a.now, frac := a.frac, rate := a.rate, state := a.state, everLocked := a.everLocked, acquired := a.acquired, lastGm := a.lastGm, offset := a.offset
    steps := a.steps, gmId := a.gmId, parent := a.parent, fired := a.fired &&& 0xFF00, cmps := a.cmps.filter fun e => decide (8 ≤ e.1) }

/-- Memory once the writes already handed to the ports have ended (R457). -/
def landWrites (s : State) : Memory := (s.memp.writes.map fun w => w.cells).foldl Memory.writeAll s.mem

/-- The block after a reset that Almanac survives: everything outside the AON domain at its reset value but REE_FLT_SAFE and GBL_FW_LOC. -/
def resetBlock (s : State) : State :=
  { part := s.part, otp := s.otp, pins := { aonReset := s.pins.aonReset, pwrOk := s.pins.pwrOk, blockReset := true }
    alm := almSurvives s.alm, ree := { fltSafe := s.ree.fltSafe }, stw := { fwPages := s.stw.fwPages }
    mem := landWrites s, free := s.free, pending := s.pending }

/-- AON_RESET: everything is reset; the part, its one-time-programmable store and the chip's memory are not the block's to reset. -/
def execAonReset (s : State) : Host.Outcome State Fault Refusal :=
  .next { part := s.part, otp := s.otp, pins := { aonReset := true, pwrOk := s.pins.pwrOk, blockReset := true }
          mem := landWrites s, free := s.free, pending := s.pending }

/-- AON_RESET_RELEASE (R365): Almanac counts from zero in FREE_RUN. -/
def execAonResetRelease (s : State) : Host.Outcome State Fault Refusal := .next { s with pins := { s.pins with aonReset := false } }

/-- PWR_OK_LOW: the block is OFF; the integrator holds BLOCK_RESET_N low with it (R440). -/
def execPwrOkLow (s : State) : Host.Outcome State Fault Refusal :=
  .next (let s := resetBlock s
    { s with pins := { s.pins with pwrOk := false } })

/-- PWR_OK_HIGH (R440): isolation ends, and the boot set is served while BLOCK_RESET_N is still low. -/
def execPwrOkHigh (s : State) : Host.Outcome State Fault Refusal :=
  .next (if s.pins.aonReset then s else { s with pins := { s.pins with pwrOk := true } })

/-- BLOCK_RESET: BLOCK_RESET_N is asserted. -/
def execBlockReset (s : State) : Host.Outcome State Fault Refusal := .next (resetBlock s)

/-! ## The start-up sequence (R344, R442) -/

/-- Reeve's policy from the one-time-programmable store (R391, R413). -/
def reevePolicy (s : State) : Ree :=
  { s.ree with pwrFloor := s.otp.pwrFloor, pwrBrake := s.otp.pwrBrake, orphan := s.otp.orphan, fltCtl := s.otp.fltCtl
               fltCount := s.otp.fltCount, fltImm := s.otp.fltImm, fltFatal := s.otp.fltFatal, srcProfile := s.otp.srcProfile
               profiles := s.otp.profiles, otpSvn := s.otp.svn
               sealReady := s.part.s && s.otp.provisioned }

/-- BLOCK_RESET_RELEASE: Reeve starts from ROM and writes its policy. -/
def execBlockResetRelease (s : State) : Host.Outcome State Fault Refusal :=
  .next (if s.pins.pwrOk && !s.pins.aonReset && s.pins.blockReset then
      { s with pins := { s.pins with blockReset := false }, gbl := { s.gbl with stage := .reeveRom }, ree := reevePolicy s }
    else s)

/-- Reeve is at work on Steward's image. -/
def verifying (s : State) : Bool := s.pins.pwrOk && !s.pins.aonReset && !s.pins.blockReset

/-- The image is in: its header with Reeve, its code and its data in Steward's memories, as far as they hold it (R26, R343, R344 step 2). -/
def imageBack (bs : List Byte) (s : State) : State :=
  let s := { s with ree := { s.ree with fwHead := asMemory (bs.take 4096), fwCopied := true } }
  let h := fwHeader s
  let rest := bs.drop 4096
  { s with stw := { s.stw with code := asMemory (rest.take (min h.codeBytes (2 ^ 20))), data := asMemory ((rest.drop h.codeBytes).take (min h.dataBytes (2 ^ 19))) } }

/-- Step 3 of R344: MAGIC, the lengths against PAGES and their limits, the zero fields (R343). -/
def headerOk (s : State) : Bool :=
  let h := fwHeader s
  h.magic == 0x4B4E5A45 && h.zeros && h.flags &&& 0xFE == 0
  && h.codeBytes % 4096 == 0 && h.dataBytes % 4096 == 0 && decide (h.codeBytes ≤ 2 ^ 20) && decide (h.dataBytes ≤ 2 ^ 19)
  && 4096 + h.codeBytes + h.dataBytes == 4096 * bits s.stw.fwPages 52 12

/-- What the signature covers: header bytes 0 to 3,999, the code, the data (R343). -/
def signedBytes (s : State) : List Byte :=
  let h := fwHeader s
  bytesAt s.ree.fwHead 0 4000 ++ bytesAt s.stw.code 0 h.codeBytes ++ bytesAt s.stw.data 0 h.dataBytes

/-- Step 4 of R344: the signature of the copied image, r then s, big-endian, in header bytes 4,000 to 4,095. -/
def signatureOk (s : State) : Bool :=
  let big := fun (o : Nat) => BitVec.ofNat 384 (ofLE (bytesAt s.ree.fwHead o 48).reverse)
  Config.fwSigned (signedBytes s) (big 4000) (big 4048)

/-- Step 6 of R344 has something to program. -/
def commits (s : State) : Bool := (fwHeader s).flags.getLsbD 0 && decide (s.otp.svn.toNat < (fwHeader s).svn.toNat)

/-- A verified image is released at its ENTRY; with COMMIT_SVN its SVN becomes the lowest accepted (R344). -/
def fwAccept (s : State) : State :=
  let h := fwHeader s
  let o := if commits s then h.svn else s.otp.svn
  { s with
    otp := { s.otp with svn := o }, ree := { s.ree with boot := 2, fwSvn := h.svn, otpSvn := o }, stw := { s.stw with entry := h.entry }
    gbl := { s.gbl with stage := .sramClear } }

/-- A rejected image: BOOT, a note, both Steward memories zeroed, and no link trains until a reset. A ROM that fails its digest has written no
policy. -/
def fwReject (step : BitVec 4) (s : State) : State :=
  let boot : BitVec 4 := if step = 1 then 4 else 3
  let ree : Ree := if step = 1 then { fltSafe := s.ree.fltSafe } else s.ree
  note 0x05 0 0 0 0 0 (boot.toNat + 256 * step.toNat) (fwHeader s).svn.toNat
    { s with ree := { ree with boot := boot }, gbl := { s.gbl with stage := .failed }, stw := { s.stw with code := [], data := [] } }

/-- The step of R344, of those after the copy, at which the image fails, if any: they run in order. -/
def fwFails (res : FwResult) (s : State) : Option (BitVec 4) :=
  if !(headerOk s) then some 3
  else if !(signatureOk s) then some 4
  else if (fwHeader s).svn.toNat < s.otp.svn.toNat then some 5
  else if res == .otpFails && commits s then some 6
  else none

/-- Reeve's check of the copied image ends. -/
def fwVerified (res : FwResult) (s : State) : State :=
  match fwFails res s with
  | none => fwAccept s
  | some step => fwReject step s

/-- FW_VERIFY_DONE (R344): at the ROM check a digest that fails rejects it; later the copied image is decided. -/
def execFwVerifyDone (res : FwResult) (s : State) : Host.Outcome State Fault Refusal :=
  .next (if !(verifying s) then s
    else if s.gbl.stage == .reeveRom && res == .romFails then fwReject 1 s
    else if s.gbl.stage == .fwLoad && s.ree.fwCopied && res != .romFails then fwVerified res s
    else s)

/-- SRAM_CLEAR_DONE: CTRLP opens, the collector runs, Steward starts its schedules, every croft calibrates. A reserved MEMP_GRAIN raises
CONFIG once (R458). -/
def sramCleared (s : State) : State :=
  let s := { s with gbl := { s.gbl with stage := .calibrating }, stw := { s.stw with running := true } }
  let s := if 4 < s.part.grain.toNat then raise (srcPort 0) kConfig 0x28 [] none s else s
  armHeartbeat (cmpNext 7 patrolUnits (cmpNext 6 (10 * msUnits) (cmpNext 5 msUnits s)))

/-- SRAM_CLEAR_DONE. -/
def execSramClearDone (s : State) : Host.Outcome State Fault Refusal :=
  .next (if s.pins.pwrOk && !s.pins.aonReset && !s.pins.blockReset && s.gbl.stage == .sramClear then sramCleared s else s)

/-- Each bad lane of a croft raises LANE_LOCK and is left out of its link (R442). -/
def badLanes (c : Nat) (bad : BitVec 6) (s : State) : State :=
  (List.range 6).foldl (fun s i =>
    if bad.getLsbD i then
      let p := 3 * c + i / 2
      let s := raise (srcLane p (i % 2)) kLaneLock 0 [] none s
      modLink p (fun l => if i % 2 = 0 then { l with badLane0 := true } else { l with badLane1 := true }) s
    else s) s

/-- STARTUP_CALIBRATION_DONE (R442): a croft has finished; its enabled links train, or stay CALIBRATING without a PLL. STAGE is READY once
every croft has. -/
def startupDone (c : Nat) (pll : Bool) (bad : BitVec 6) (s : State) : State :=
  let t := now s
  let s := { s with gbl := { s.gbl with calFinished := setBit s.gbl.calFinished c true, calibrated := setBit s.gbl.calibrated c pll } }
  let s := modCroft c (fun x => { x with pllLock := pll, calLast := t }) s
  let s := if pll then
      let train := fun (l : Link) => if l.en && l.state == .calibrating then { l with state := .training } else l
      (linksOf c).foldl (fun s p => modLink p train s) (badLanes c bad s)
    else raise (srcCroft c) kClock 0 [] none s
  if (croftsOn s).all fun c => s.gbl.calFinished.getLsbD c then { s with gbl := { s.gbl with stage := .ready } } else s

/-- STARTUP_CALIBRATION_DONE. -/
def execStartupCalibrationDone (croft_ : BitVec 5) (pll : Bool) (badLanes : BitVec 6) (s : State) : Host.Outcome State Fault Refusal :=
  .next (let c := croft_.toNat
    if alive s && s.gbl.stage == .calibrating && hasCroft s c && !(s.gbl.calFinished.getLsbD c) then startupDone c pll badLanes s else s)

/-! ## Wakes (R377, R380) -/

/-- A PARKED block that can wake. -/
def asleep (s : State) : Bool := s.pins.pwrOk && !s.pins.aonReset && s.pwr.state == .parked && !s.flt.safe && !(stoppedByCurfew s)

/-- A held access is a doorbell's. -/
def heldBell (s : State) : Bool := s.cur.heldAccesses.any fun w => isBell w.2.1.toNat
def heldReg (s : State) : Bool := s.cur.heldAccesses.any fun w => !(isBell w.2.1.toNat)

/-- BLOCK_WAKE: an access that a PARKED block holds wakes it and is then served, and so does a read outside the registers that it serves; a
BLOCK_RESET_N has reset the block already. -/
def execBlockWake (cause : WakeCause) (s : State) : Host.Outcome State Fault Refusal :=
  .next (let hit := match cause with
      | .doorbell => heldBell s
      | .registerAccess => heldReg s
      | .registerRead who a size => heldReg (regRead who a.toNat size.toNat { s with cur := { s.cur with heldAccesses := [] } })
      | .blockReset => s.pins.blockReset
    let s := match cause with
      | .registerRead who a size => regRead who a.toNat size.toNat s
      | _ => s
    if asleep s && hit then replayHeld (wakeBlock s) else s)

/-- Comparator 4 fires once (R376, R380). -/
def wakeDue (s : State) : State :=
  if s.pins.pwrOk && !s.flt.safe && cmpFires s 4 then replayHeld (wakeBlock (markFired 4 (cmpOff 4 s))) else s

/-- PARK_WAKE_TIME: comparator 4 fires once, in every power state, and wakes a PARKED block (R376, R380). -/
def execParkWakeTime (s : State) : Host.Outcome State Fault Refusal :=
  .next (wakeDue s)

/-- OPERATOR_COMPARATOR_FIRE: comparators 8 to 15 fire in every power state; during a Curfew they wait for the restart. -/
def execOperatorComparatorFire (n : BitVec 4) (s : State) : Host.Outcome State Fault Refusal :=
  .next (if !s.pins.aonReset && !(stoppedByCurfew s) && decide (8 ≤ n.toNat) then replayHeld (armedCmp n.toNat s) else s)

/-! ## CURFEW_RESTART (R434) -/

/-- The restart: deadlines move, work goes on or is halted, comparators 8 to 15 that came due fire, accesses held are served, and a held
calibration starts. -/
def curfewRestart (s : State) : State :=
  let s := restartBlock s
  let s := ((List.range 8).map (8 + ·)).foldl (fun s n => armedCmp n s) s
  startForced (replayHeld s)

/-- CURFEW_RESTART. -/
def execCurfewRestart (s : State) : Host.Outcome State Fault Refusal :=
  .next (if curfewHears s && s.cur.state == .releasing && reached s s.cur.restart then curfewRestart s else s)

end Sys2Proof.Machine
end

