-- ==== Sys2Proof/Machine/Almanac.lean ====
section
/-! DEFINITION. TIME flits: the exchange with the parent, the follower's states, and a step forward with the comparators it fires
(R366, R370-R372, R376). -/

namespace Sys2Proof.Machine

/-! ## A step forward (R372) -/

/-- Comparator `n` fires if it is due, with what its firing does. -/
def fireDue (n : Nat) (s : State) : State :=
  match n with
  | 0 => settleExpired s
  | 1 => curfewStop s
  | 2 => heartbeatDue s
  | 3 => windowDue s
  | 4 => wakeDue s
  | 5 => telemetry s
  | 6 => hangCheck s
  | 7 => patrolRound s
  | n => if cmpFires s n then fireCmp n s else s

/-- Time steps forward by `d` units: TIME_STEP, and every comparator it passes fires in number order (R372). Other deadlines it passes are
reached with it. -/
def stepForward (d : Nat) (s : State) : State :=
  let s := raise srcAlmanac kTimeStep d [] none { s with alm := { s.alm with now := later s.alm.now d } }
  (List.range 16).foldl (fun s n => fireDue n s) s

/-! ## The exchange (R371, R372) -/

/-- A difference of times, signed. -/
def timeDiff (a b : Time) : Int := (a - b).toInt

/-- Saturate to 24 signed bits. -/
def sat24 (x : Int) : BitVec 24 := BitVec.ofInt 24 (max (-8388608) (min 8388607 x))

/-- A device that is up on no link but its parent's (R372). -/
def onlyParent (s : State) : Bool := (joinedLinks s).all fun e => e.1 == s.alm.parent.toNat

/-- An exchange within 2 ns counts towards LOCKED, another starts the count again (R371). -/
def countExchange (off : Int) (s : State) : State :=
  let n := if off.natAbs ≤ 32 then s.alm.goodRun + 1 else 0
  let s := { s with alm := { s.alm with goodRun := n } }
  if 8 ≤ n ∧ s.alm.state ≠ .locked then takeFabricId { s with alm := { s.alm with state := .locked, everLocked := true } } else s

/-- The exchange makes the follower slew: its parent is more than 1 µs off, and it has been without one or follows another grandmaster than
in the last exchange (R372). -/
def slews (off : Int) (s : State) : Bool :=
  let other := s.alm.lastGm.any fun g => g != s.alm.gmId
  decide (16000 < off.natAbs) && (s.alm.state == .holdover || (other && (s.alm.state == .locked || s.alm.acquired)))

/-- How the follower's time moves by an exchange (R372): in ACQUIRING set at the first one; in SLEWING a step forward where no other partner
is up, else at ±500 ppm until it is within 2 ns; and by the servo. -/
def moveTime (off : Int) (s : State) : State :=
  match s.alm.state with
  | .acquiring =>
    if s.alm.acquired then servo s
    else { s with alm := { s.alm with now := s.alm.now - BitVec.ofInt 64 off, frac := 0, acquired := true } }
  | .slewing =>
    if off < 0 && onlyParent s then stepForward off.natAbs s
    else if 32 < off.natAbs then { s with alm := { s.alm with rate := if 0 < off then -rateLimit else rateLimit } }
    else servo s
  | _ => servo s

/-- The follower acts on the offset of an exchange: ALM_STATUS.OFFSET, SLEWING, its time, and the count towards LOCKED. -/
def useOffset (off : Int) (s : State) : State :=
  let slew := slews off s
  let s := { s with alm := { s.alm with offset := sat24 off, lastGm := some s.alm.gmId } }
  let s := if slew then { s with alm := { s.alm with state := .slewing, goodRun := 0 } } else s
  countExchange off (moveTime off s)

/-- TIME_FLIT: what the partner reports is kept; a flit on the parent link completes an exchange (R369-R372). -/
def timeFlit (p : Nat) (w0 w1 w2 w3 : Word) (s : State) : State :=
  let t4 := s.alm.now - BitVec.ofNat 64 (bits s.alm.serdesLat 16 16)
  let gm : BitVec 9 := w3.extractLsb' 8 9
  let synced := bitAt w3 17
  let other := (syncedLinks s).any fun e => e.1 != p && e.2.gmId != gm
  let s := modTime p (fun _ => { peerSend := w0, peerRecv := t4, synced := synced, steps := w3.extractLsb' 0 8, gmId := gm }) s
  if isMaster s then s
  else
    let s := if synced && other then raise srcAlmanac kGmConflict (max gm.toNat (((syncedLinks s).map fun e => e.2.gmId.toNat).foldl max 0)) [] none s else s
    let s := followTime s
    if s.alm.parent.toNat ≠ p ∨ w1 = 0 then s
    else useOffset ((timeDiff t4 w0 - timeDiff w2 w1) / 2) s

/-- TIME_FLIT. -/
def execTimeFlit (link : BitVec 7) (w0 w1 w2 w3 : Word) (s : State) : Host.Outcome State Fault Refusal :=
  .next (if linkHears s link && w3 &&& ~~~(maskAt 0 18) == 0 then timeFlit link.toNat w0 w1 w2 w3 s else s)

end Sys2Proof.Machine
end

