-- ==== Sys2Proof/Machine/Ports.lean ====
section
/-! DEFINITION. Responses of the memory ports (R31, R42, R412, R457) and records (R35), each with what waits for it. -/

namespace Sys2Proof.Machine

/-! ## What ends once its conditions hold -/

/-- Accesses held at the port go on (R147); arrivals behind an access that has gone follow (R51); drains and CLEARs whose condition holds complete; a block that goes to PARKED stops its clocks once nothing is left (R172, R316, R379); a
forced calibration that a link held back starts (R453). -/
def settleWaits (s : State) : State := startForced (gateCheck (millPump (poolShrunk (millClears (drainsEnd (retryArrivals (servePort s)))))))

/-- RECORD_POST (R35): the record of the channel's oldest complete command is written. -/
def recordPost (ch : BitVec 21) (s : State) : State := if running s || s.pwr.state == .parked then rotate ch (postRecord ch (settleWaits s)) else s

/-- RECORD_POST. -/
def execRecordPost (ch : BitVec 21) (s : State) : Host.Outcome State Fault Refusal := .next (recordPost ch s)

/-- The ports answer: power is on, no reset is asserted, Curfew has not stopped the domain (R431, R440, R457). -/
def portsLive (s : State) : Bool := s.pins.pwrOk && !s.pins.aonReset && !s.pins.blockReset && !(stoppedByCurfew s)

/-- The lowest address of a request, which its MEMPORT carries. -/
def readAddr (r : ReadReq) : Nat := ((r.parts.map fun p => p.1).min?).getD 0
def writeAddr (w : WriteReq) : Nat := ((w.cells.map fun c => c.1).min?).getD 0

/-- The ports that a request's bytes go to, split at the grain boundaries (R458), each with the lowest address there. -/
def piecesOf (port : Nat → Nat) (addrs : List Nat) : List (Nat × Nat) :=
  (List.range 16).filterMap fun p => ((addrs.filter fun a => port a == p).min?).map fun a => (p, a)
def readPieces (s : State) (r : ReadReq) : List (Nat × Nat) := piecesOf (readPort s r.use) (r.parts.flatMap fun p => (List.range p.2).map (p.1 + ·))
def writePieces (s : State) (w : WriteReq) : List (Nat × Nat) := piecesOf (portOf s) (w.cells.map fun c => c.1)

/-- A response later than 1 µs raises MEMPORT at each port that a piece of the request went to: the pieces are answered together (R457, R458).
DESIGN CHOICE: log entry 184. -/
def lateCheck (at_ : Time) (pieces : List (Nat × Nat)) (q : Option (BitVec 6)) (s : State) : State :=
  if decide (usUnits < elapsed s at_) then pieces.foldl (fun s p => raiseMemport p.1 p.2 [] q s) s else s

/-! ## Reads -/

/-- A byte that a read covers. -/
def covers (r : ReadReq) (a : Nat) : Bool := r.parts.any fun p => decide (p.1 ≤ a) && decide (a < p.1 + p.2)

/-- A byte of a read: as a write acknowledged out of turn found it, else as the writes issued before the read leave it (R457). So an element that
software writes by other means while an RPUT into it is outstanding, whose value R49 leaves unspecified, takes the value of this interleaving.
DESIGN CHOICE, unsafe: log entry 150. -/
def readByte (s : State) (r : ReadReq) (a : Nat) : Byte :=
  match r.held.find? fun c => c.1 == a with
  | some c => c.2
  | none => readOver s.mem (s.memp.writes.filter fun w => decide (w.id < r.id)) a

/-- The bytes a read returns. -/
def readBytes (s : State) (r : ReadReq) : List Byte := r.parts.flatMap fun p => (List.range p.2).map fun i => readByte s r (p.1 + i)

/-- The writes of other agents that a read sees are visible from then on (R42). -/
def otherWrites (r : ReadReq) (seen : List (Nat × Byte)) (s : State) : State :=
  { s with mem := Memory.writeAll s.mem (seen.filter fun c => covers r c.1 && !(r.held.any fun h => h.1 == c.1)) }

/-- A read is no longer outstanding. -/
def dropRead (r : ReadReq) (s : State) : State := { s with memp := { s.memp with reads := s.memp.reads.filter fun x => x.id != r.id } }

/-- Ring entries are back: they may start from now on (R72). -/
def ringBack (ch : BitVec 21) (first : BitVec 32) (count : Nat) (s : State) : State :=
  fetch ch (modChan ch (fun c =>
    if c.cached && c.fetched == first && (c.state == .idle || c.state == .running || c.state == .blocked) then
      markHalf s { c with fetched := first + BitVec.ofNat 32 count }
    else c) s)

/-- Ring entries could not be read: the channel starts nothing from the first of them and parks there (R72). -/
def ringFailed (ch : BitVec 21) (first : BitVec 32) (s : State) : State :=
  modChan ch (fun c =>
    if c.fetched == first && (c.state == .idle || c.state == .running || c.state == .blocked) then settle { c with ringError := some first }
    else c) s

/-- A management command's array has been read. -/
def mgmtBack (id : Nat) (bs : List Byte) (s : State) : State :=
  match cmd? s id with
  | none => s
  | some c =>
    if c.phase != .mgmt then s
    else
      let op := pkOp c.pkt
      if op = 0x84 then routeLoadBack id c bs s
      else if op = 0x86 then stripeMapBack id c bs s
      else if op = 0x8A then tallyPlanBack id bs s
      else if op = 0x49 then traceCtlBack id c bs s
      else if op = 0x8C then reeveMsgBack id c bs s
      else s

/-- Operations that write nothing end, and those behind them go on in turn. -/
def endSilents : Nat → State → State
  | 0, s => s
  | n + 1, s => endSilents n (endSilent s)

/-- An atomic operation's word is back (R482). -/
def atomicBack (op : Nat) (bs : List Byte) (s : State) : State :=
  match op? s op with
  | none => s
  | some o =>
    let s := pumpOps (opCompute o (BitVec.ofNat 64 (ofLE bs)) s)
    endSilents s.sig.ops.length s

/-- An atomic operation ends with its write. -/
def atomicEnds (op : Nat) (ok : Bool) (s : State) : State :=
  match op? s op with
  | none => s
  | some o =>
    let s := opEnds o ok s
    endSilents s.sig.ops.length s

/-- The command whose source or input is read goes on. -/
def inputBack (id : Nat) (bs : List Byte) (s : State) : State :=
  match cmd? s id with
  | none => s
  | some c => if pkOp c.pkt = opXform then jobBack id bs s else sourceBack id bs s

/-- Read data goes to what waits for it. -/
def readGoes (use : ReadFor) (bs : List Byte) (s : State) : State :=
  match use with
  | .ring ch first count => ringBack ch first count s
  | .desc ch => descBack ch bs s
  | .waitWord ch => waitBack ch (BitVec.ofNat 64 (ofLE bs)) s
  | .source id => inputBack id bs s
  | .index id => indexBack id bs s
  | .matrix w => matrixBack w bs s
  | .walk q va depth ingress stale pages => walkBack q va depth ingress stale pages bs s
  | .winEntry id => windowBack id s
  | .target id => targetBack id bs s
  | .atomic op => atomicBack op bs s
  | .granary l q => granaryBack l.toNat q bs s
  | .mgmt id => mgmtBack id bs s
  | .image => imageBack bs s
  | .dropped => s

/-- The command whose response an arrival brings. -/
def arrivalCmds (s : State) (id : Nat) : List Nat := ((arrival? s id).bind fun a => a.cmd).toList

/-- The commands a failed read fails (R393, R412). -/
def readCmds (s : State) : ReadFor → List Nat
  | .source id | .index id | .mgmt id | .matrix (.job id) | .matrix (.egress id) => [id]
  | .matrix (.ingress id) | .target id => arrivalCmds s id
  | _ => []

/-- The parish of a channel, an arrival, an operation of the atomic unit, a command: what its fault message names (R393). -/
def chanParish (s : State) (ch : BitVec 21) : Option (BitVec 6) := if ch = 0 then none else (chan? s ch).map fun c => c.parish
def arrivalParish (s : State) (id : Nat) : Option (BitVec 6) := (arrival? s id).map fun a => a.parish
def cmdParish (s : State) (id : Nat) : Option (BitVec 6) := (cmd? s id).bind fun c => c.parish
def opParishOf (s : State) (id : Nat) : Option (BitVec 6) := (op? s id).bind fun o =>
  match o.use with
  | .arrival a => arrivalParish s a
  | .signal d tag => (s.sig.ents.find? fun e => e.src == d && e.tag == tag).map fun e => e.parish

/-- The parish a failed read concerns. -/
def readParish (s : State) : ReadFor → Option (BitVec 6)
  | .ring ch _ _ | .desc ch | .waitWord ch => chanParish s ch
  | .source id | .index id | .mgmt id | .matrix (.job id) | .matrix (.egress id) => cmdParish s id
  | .matrix (.ingress id) | .target id => arrivalParish s id
  | .walk q _ _ _ _ _ => some q
  | .atomic op => opParishOf s op
  | .winEntry _ | .granary _ _ | .image | .dropped => none

/-- The parish a failed write concerns. -/
def writeParish (s : State) : WriteFor → Option (BitVec 6)
  | .record _ ch _ _ _ | .park _ ch _ _ _ | .desc ch => chanParish s ch
  | .ring (.notify (.parish q)) _ | .ring (.trace q) _ => some q
  | .commit id => arrivalParish s id
  | .atomic op => opParishOf s op
  | .command id _ | .mgmt id => cmdParish s id
  | _ => none

/-- A source read was answered with an error: the command fails at that stripe. -/
def inputFailed (id : Nat) (s : State) : State :=
  match cmd? s id with
  | none => s
  | some c => feed id (failSelf id c.next stData (modCmd id (fun c => { c with reading := false, redo := false }) s))

/-- What waits for a read that was answered with an error fails (R24, R72, R149, R412). -/
def readFails (use : ReadFor) (s : State) : State :=
  match use with
  | .ring ch first _ => ringFailed ch first s
  | .desc ch => descFailed ch s
  | .waitWord ch => match waiter? s ch with
    | some _ => waitEnds ch stData 0 0 s
    | none => s
  | .source id => inputFailed id s
  | .index id => finish id stData 0 0 s
  | .matrix w => matrixFailed w s
  | .walk q va _ ingress stale _ => walkFailed q va ingress stale s
  | .winEntry id => windowFailed id s
  | .target id => targetFailed id s
  | .atomic op => atomicEnds op false s
  | .granary l _ => linkDown l.toNat s
  | .mgmt id => match cmd? s id with
    | some c => if c.phase == .mgmt then done id stData 0 s else s
    | none => s
  | .image => fwReject 2 s
  | .dropped => s

/-! ## Writes -/

/-- A read issued before a write keeps the bytes that the write is about to change (R457). -/
def holdBytes (s : State) (w : WriteReq) (r : ReadReq) : ReadReq :=
  if w.id ≤ r.id then r
  else { r with held := r.held ++ ((w.cells.filter fun c => covers r c.1 && !(r.held.any fun h => h.1 == c.1)).map fun c => (c.1, readByte s r c.1)) }

/-- A write of earlier issue has taken effect before one that shares its bytes, which are the later one's from now on (R457). -/
def shadow (w : WriteReq) (x : WriteReq) : WriteReq :=
  if x.id < w.id then { x with cells := x.cells.filter fun c => !(w.cells.any fun d => d.1 == c.1) } else x

/-- A write's bytes become visible (R31, R42). -/
def landWrite (w : WriteReq) (cells : List (Nat × Byte)) (s : State) : State :=
  { s with
    mem := Memory.writeAll s.mem cells
    memp := { s.memp with reads := s.memp.reads.map (holdBytes s w), writes := (s.memp.writes.filter fun x => x.id != w.id).map (shadow w) } }

/-- A response or stripe whose commit has ended. -/
def commitEnds (id : Nat) (ok : Bool) (s : State) : State :=
  match arrival? s id with
  | none => s
  | some a => match a.cmd with
    | some c => if ok then responseWritten a c s else responseFailed a c s
    | none => if ok then committed id s else targetFailed id s

/-- A command's own write has ended. -/
def cmdWritten (id stripe : Nat) (ok : Bool) (s : State) : State :=
  let s := modCmd id (fun c => { c with writing := c.writing - 1 }) s
  feed id (if ok then s else failSelf id stripe stData s)

/-- What waits for an acknowledgement goes on (R31, R90, R471). -/
def writeGoes (use : WriteFor) (s : State) : State :=
  match use with
  | .record o ch ix st wants => if wants then notify o (notifyEntry ix st 0 ch) s else s
  | .park o ch head why wants => if wants then notify o (notifyEntry head why 1 ch) s else s
  | .ring (.notify o) ix => notifyPending o (ringAck (.notify o) ix s)
  | .ring r ix => ringAck r ix s
  | .desc _ => s
  | .commit id => commitEnds id true s
  | .atomic op => atomicEnds op true s
  | .command id stripe => cmdWritten id stripe true s
  | .spill _ => s
  | .mgmt id => mgmtWritten id s
  | .background => s

/-- The commands a failed write fails (R393, R412). -/
def writeCmds (s : State) : WriteFor → List Nat
  | .command id _ | .mgmt id => [id]
  | .commit id => arrivalCmds s id
  | _ => []

/-- A write was answered with an error: what waits for it fails (R412). A ring's TAIL does not pass an entry whose write was never
acknowledged (R471). -/
def writeFails (use : WriteFor) (s : State) : State :=
  match use with
  | .record _ _ _ _ _ => s
  | .park o ch head why wants => if wants then notify o (notifyEntry head why 1 ch) s else s
  | .ring _ _ => s
  | .desc _ => s
  | .commit id => commitEnds id false s
  | .atomic op => atomicEnds op false s
  | .command id stripe => cmdWritten id stripe false s
  | .spill _ => s
  | .mgmt id => mgmtWritten id (modCmd id (fun c => { c with status := stData, result := 0 }) s)
  | .background => s

/-! ## The rows -/

/-- The outstanding read, or write, of a number. -/
def read? (s : State) (req : Nat) : Option ReadReq := s.memp.reads.find? fun r => r.id == req
def write? (s : State) (req : Nat) : Option WriteReq := s.memp.writes.find? fun w => w.id == req

/-- What waits for a response goes on, unless every unit is stopped (R408). -/
def goOn (f : State → State) (s : State) : State := if s.flt.safe then s else settleWaits (f s)

/-- MEMP_READ_RESPONSE: the data of a read, with what other agents have made visible there. -/
def readResponse (req : Nat) (seen : List (Nat × Byte)) (s : State) : State :=
  match read? s req with
  | none => s
  | some r =>
    let s := otherWrites r seen s
    goOn (readGoes r.use (readBytes s r)) (lateCheck r.at_ (readPieces s r) (readParish s r.use) (dropRead r s))

/-- MEMP_READ_RESPONSE (R457). -/
def execMempReadResponse (req : Nat) (seen : List (Nat × Byte)) (s : State) : Host.Outcome State Fault Refusal :=
  .next (if portsLive s then readResponse req seen s else s)

/-- MEMP_WRITE_ACK: the write is visible. -/
def writeAck (req : Nat) (s : State) : State :=
  match write? s req with
  | none => s
  | some w => goOn (writeGoes w.use) (lateCheck w.at_ (writePieces s w) (writeParish s w.use) (landWrite w w.cells s))

/-- MEMP_WRITE_ACK (R31). -/
def execMempWriteAck (req : Nat) (s : State) : Host.Outcome State Fault Refusal := .next (if portsLive s then writeAck req s else s)

/-- The address MEMPORT carries: the failing one where the request covers it, else the request's lowest. -/
def failedAt (pa low : Nat) (mine : Bool) : Nat := if mine then pa else low

/-- A WAIT's word could not be read: the WAIT starts in its turn and fails, and MEMPORT names it, or will once it starts (R135, R393). -/
def waitFailed (ch : BitVec 21) (pa : Nat) (s : State) : State :=
  let q := chanParish s ch
  let t := goOn (readFails (.waitWord ch)) s
  let started := t.eng.nextId != s.eng.nextId
  raiseMsg { src := BitVec.ofNat 10 (srcPort (portOf s pa)), kind := BitVec.ofNat 6 kMemport, addr := BitVec.ofNat 52 pa, cmds := if started then [nextCmd s] else [],
             waits := if !started && (waiter? t ch).isSome then [ch] else [], pv := q.isSome, parish := q.getD 0 } t

/-- A read was answered with an error. -/
def readError (r : ReadReq) (pa : Nat) (s : State) : State :=
  let t := dropRead r s
  match r.use with
  | .waitWord ch => waitFailed ch pa t
  | use => goOn (readFails use) (raiseMemport (readPort s use pa) pa (readCmds s use) (readParish s use) t)

/-- A write was answered with an error: its bytes are any. -/
def writeError (w : WriteReq) (pa : Nat) (s : State) : State :=
  let cells := (w.cells.zip (freeBytes s.free w.cells.length)).map fun c => (c.1.1, c.2)
  let t := landWrite w cells { s with free := s.free + w.cells.length }
  goOn (writeFails w.use) (raiseMemport (portOf s pa) pa (writeCmds s w.use) (writeParish s w.use) t)

/-- MEMP_ERROR_RESPONSE: MEMPORT at the failing address, and what the request was for fails (R412). -/
def errorResponse (req pa : Nat) (s : State) : State :=
  match read? s req, write? s req with
  | some r, _ => readError r (failedAt pa (readAddr r) (covers r pa)) s
  | none, some w => writeError w (failedAt pa (writeAddr w) (w.cells.any fun c => c.1 == pa)) s
  | none, none => s

/-- MEMP_ERROR_RESPONSE (R412). -/
def execMempErrorResponse (req : Nat) (pa : BitVec 52) (s : State) : Host.Outcome State Fault Refusal :=
  .next (if portsLive s then errorResponse req pa.toNat s else s)

end Sys2Proof.Machine
end

