-- ==== Sys2Proof/Machine/Dispatch.lean ====
section
/-! DEFINITION. One arm per command: each a direct call of its meaning. -/

namespace Sys2Proof.Machine

/-- The effect of a command on everything but the queue. -/
def exec (i : Instr) (s : State) : Host.Outcome State Fault Refusal :=
  match i with
  | .nop ch pkt => Sys2Proof.Machine.execNop ch pkt s
  | .put ch pkt => Sys2Proof.Machine.execPut ch pkt s
  | .get ch pkt => Sys2Proof.Machine.execGet ch pkt s
  | .copy ch pkt => Sys2Proof.Machine.execCopy ch pkt s
  | .rput ch pkt => Sys2Proof.Machine.execRput ch pkt s
  | .mput ch pkt => Sys2Proof.Machine.execMput ch pkt s
  | .iput ch pkt => Sys2Proof.Machine.execIput ch pkt s
  | .iget ch pkt => Sys2Proof.Machine.execIget ch pkt s
  | .amo ch pkt => Sys2Proof.Machine.execAmo ch pkt s
  | .amof ch pkt => Sys2Proof.Machine.execAmof ch pkt s
  | .wait ch pkt => Sys2Proof.Machine.execWait ch pkt s
  | .sync ch pkt => Sys2Proof.Machine.execSync ch pkt s
  | .mark ch pkt => Sys2Proof.Machine.execMark ch pkt s
  | .xform ch pkt => Sys2Proof.Machine.execXform ch pkt s
  | .winOpen ch pkt => Sys2Proof.Machine.execWinOpen ch pkt s
  | .winClose ch pkt => Sys2Proof.Machine.execWinClose ch pkt s
  | .winCloseDrained handle => Sys2Proof.Machine.execWinCloseDrained handle s
  | .profileSet ch pkt => Sys2Proof.Machine.execProfileSet ch pkt s
  | .tableSet ch pkt => Sys2Proof.Machine.execTableSet ch pkt s
  | .matrixSet ch pkt => Sys2Proof.Machine.execMatrixSet ch pkt s
  | .matrixSetClear ch pkt => Sys2Proof.Machine.execMatrixSetClear ch pkt s
  | .milRelease ch pkt => Sys2Proof.Machine.execMilRelease ch pkt s
  | .watchSet ch pkt => Sys2Proof.Machine.execWatchSet ch pkt s
  | .watchSetClear ch pkt => Sys2Proof.Machine.execWatchSetClear ch pkt s
  | .traceCtl ch pkt => Sys2Proof.Machine.execTraceCtl ch pkt s
  | .parishCreate ch pkt => Sys2Proof.Machine.execParishCreate ch pkt s
  | .parishSet ch pkt => Sys2Proof.Machine.execParishSet ch pkt s
  | .parishRetire src => Sys2Proof.Machine.execParishRetire src s
  | .parishQuiescent q => Sys2Proof.Machine.execParishQuiescent q s
  | .parishCleared q => Sys2Proof.Machine.execParishCleared q s
  | .blockScrub src => Sys2Proof.Machine.execBlockScrub src s
  | .blockScrubCleared => Sys2Proof.Machine.execBlockScrubCleared s
  | .routeLoad ch pkt => Sys2Proof.Machine.execRouteLoad ch pkt s
  | .routeCommit ch pkt => Sys2Proof.Machine.execRouteCommit ch pkt s
  | .stripeMapSet ch pkt => Sys2Proof.Machine.execStripeMapSet ch pkt s
  | .planeDrain ch pkt => Sys2Proof.Machine.execPlaneDrain ch pkt s
  | .planeUndrain ch pkt => Sys2Proof.Machine.execPlaneUndrain ch pkt s
  | .fence src => Sys2Proof.Machine.execFence src s
  | .unfence src => Sys2Proof.Machine.execUnfence src s
  | .tallyPlan ch pkt => Sys2Proof.Machine.execTallyPlan ch pkt s
  | .tallyPlanClear ch pkt => Sys2Proof.Machine.execTallyPlanClear ch pkt s
  | .keyPair ch pkt => Sys2Proof.Machine.execKeyPair ch pkt s
  | .keyPairRekey ch pkt => Sys2Proof.Machine.execKeyPairRekey ch pkt s
  | .keyPairTimeout q peer => Sys2Proof.Machine.execKeyPairTimeout q peer s
  | .reeveMsgRequest ch pkt => Sys2Proof.Machine.execReeveMsgRequest ch pkt s
  | .reeveMsgPull ch pkt => Sys2Proof.Machine.execReeveMsgPull ch pkt s
  | .reeveMsgPush ch pkt => Sys2Proof.Machine.execReeveMsgPush ch pkt s
  | .reeveMsgNotes ch pkt => Sys2Proof.Machine.execReeveMsgNotes ch pkt s
  | .pairSlotDrainEnd slot => Sys2Proof.Machine.execPairSlotDrainEnd slot s
  | .timeSet ch pkt => Sys2Proof.Machine.execTimeSet ch pkt s
  | .powerSet ch pkt => Sys2Proof.Machine.execPowerSet ch pkt s
  | .blockWake cause => Sys2Proof.Machine.execBlockWake cause s
  | .terInvalidate ch pkt => Sys2Proof.Machine.execTerInvalidate ch pkt s
  | .invalidateAck agent => Sys2Proof.Machine.execInvalidateAck agent s
  | .invalidateLate => Sys2Proof.Machine.execInvalidateLate s
  | .terResolveRetry ch pkt => Sys2Proof.Machine.execTerResolveRetry ch pkt s
  | .terResolveAbort ch pkt => Sys2Proof.Machine.execTerResolveAbort ch pkt s
  | .terFaultTimeout seq => Sys2Proof.Machine.execTerFaultTimeout seq s
  | .apertureSet ch pkt => Sys2Proof.Machine.execApertureSet ch pkt s
  | .curfew ch pkt => Sys2Proof.Machine.execCurfew ch pkt s
  | .hangReportGraph ch pkt => Sys2Proof.Machine.execHangReportGraph ch pkt s
  | .hangReportSnapshot ch pkt => Sys2Proof.Machine.execHangReportSnapshot ch pkt s
  | .selftestRemove ch pkt => Sys2Proof.Machine.execSelftestRemove ch pkt s
  | .selftestTest ch pkt => Sys2Proof.Machine.execSelftestTest ch pkt s
  | .selftestDone failStep => Sys2Proof.Machine.execSelftestDone failStep s
  | .selftestRestore ch pkt => Sys2Proof.Machine.execSelftestRestore ch pkt s
  | .calibrate ch pkt => Sys2Proof.Machine.execCalibrate ch pkt s
  | .calibrationForce croft => Sys2Proof.Machine.execCalibrationForce croft s
  | .croftCalibrationDone croft => Sys2Proof.Machine.execCroftCalibrationDone croft s
  | .doorbellTail who ch val => Sys2Proof.Machine.execDoorbellTail who ch val s
  | .doorbellCplHead who ch val => Sys2Proof.Machine.execDoorbellCplHead who ch val s
  | .doorbellPark who ch => Sys2Proof.Machine.execDoorbellPark who ch s
  | .doorbellResume who ch => Sys2Proof.Machine.execDoorbellResume who ch s
  | .channelParked ch => Sys2Proof.Machine.execChannelParked ch s
  | .overflowDequeue => Sys2Proof.Machine.execOverflowDequeue s
  | .recordPost ch => Sys2Proof.Machine.execRecordPost ch s
  | .waitReevaluate ch => Sys2Proof.Machine.execWaitReevaluate ch s
  | .tagGrant => Sys2Proof.Machine.execTagGrant s
  | .stripeIssue dest => Sys2Proof.Machine.execStripeIssue dest s
  | .creditWaitTimeout unit => Sys2Proof.Machine.execCreditWaitTimeout unit s
  | .txnTimeout unit => Sys2Proof.Machine.execTxnTimeout unit s
  | .signalSlotRelease dest => Sys2Proof.Machine.execSignalSlotRelease dest s
  | .putData via t => Sys2Proof.Machine.execPutData via t s
  | .rputSum via t => Sys2Proof.Machine.execRputSum via t s
  | .rputMax via t => Sys2Proof.Machine.execRputMax via t s
  | .rputMin via t => Sys2Proof.Machine.execRputMin via t s
  | .rputWsum via t => Sys2Proof.Machine.execRputWsum via t s
  | .getRequest via t => Sys2Proof.Machine.execGetRequest via t s
  | .getResponse via t => Sys2Proof.Machine.execGetResponse via t s
  | .amoRequest via t => Sys2Proof.Machine.execAmoRequest via t s
  | .amofRequest via t => Sys2Proof.Machine.execAmofRequest via t s
  | .signal via t => Sys2Proof.Machine.execSignal via t s
  | .load via t => Sys2Proof.Machine.execLoad via t s
  | .store via t => Sys2Proof.Machine.execStore via t s
  | .loadData via t => Sys2Proof.Machine.execLoadData via t s
  | .amofResult via t => Sys2Proof.Machine.execAmofResult via t s
  | .ack via t => Sys2Proof.Machine.execAck via t s
  | .refuse via t => Sys2Proof.Machine.execRefuse via t s
  | .amoDone via t => Sys2Proof.Machine.execAmoDone via t s
  | .signalDone via t => Sys2Proof.Machine.execSignalDone via t s
  | .query via t => Sys2Proof.Machine.execQuery via t s
  | .queryReply via t => Sys2Proof.Machine.execQueryReply via t s
  | .storeDone via t => Sys2Proof.Machine.execStoreDone via t s
  | .signalHoldExpiry src tag => Sys2Proof.Machine.execSignalHoldExpiry src tag s
  | .orderedStageTimeout arrival => Sys2Proof.Machine.execOrderedStageTimeout arrival s
  | .orderedBrokenFree window offset stripe => Sys2Proof.Machine.execOrderedBrokenFree window offset stripe s
  | .windowQuarantineEnd handle => Sys2Proof.Machine.execWindowQuarantineEnd handle s
  | .dapLoad pa size => Sys2Proof.Machine.execDapLoad pa size s
  | .dapStore pa data => Sys2Proof.Machine.execDapStore pa data s
  | .mempReadResponse req seen => Sys2Proof.Machine.execMempReadResponse req seen s
  | .mempWriteAck req => Sys2Proof.Machine.execMempWriteAck req s
  | .mempErrorResponse req pa => Sys2Proof.Machine.execMempErrorResponse req pa s
  | .flitSend link => Sys2Proof.Machine.execFlitSend link s
  | .flitReceive link raw => Sys2Proof.Machine.execFlitReceive link raw s
  | .nack link expected => Sys2Proof.Machine.execNack link expected s
  | .nackHoldoffExpiry link => Sys2Proof.Machine.execNackHoldoffExpiry link s
  | .replayTimerExpiry link => Sys2Proof.Machine.execReplayTimerExpiry link s
  | .trainFlit link => Sys2Proof.Machine.execTrainFlit link s
  | .linkTrained link lanes retimers diag0 diag1 => Sys2Proof.Machine.execLinkTrained link lanes retimers diag0 diag1 s
  | .linkId link w1 => Sys2Proof.Machine.execLinkId link w1 s
  | .widthReq link lanes => Sys2Proof.Machine.execWidthReq link lanes s
  | .widthAck link lanes refuse => Sys2Proof.Machine.execWidthAck link lanes refuse s
  | .widthChangeDone link => Sys2Proof.Machine.execWidthChangeDone link s
  | .speedReq link rate => Sys2Proof.Machine.execSpeedReq link rate s
  | .speedAck link rate refuse => Sys2Proof.Machine.execSpeedAck link rate refuse s
  | .speedChangeDone croft => Sys2Proof.Machine.execSpeedChangeDone croft s
  | .pauseLimitExpiry link => Sys2Proof.Machine.execPauseLimitExpiry link s
  | .parkReq link => Sys2Proof.Machine.execParkReq link s
  | .parkAck link refuse => Sys2Proof.Machine.execParkAck link refuse s
  | .planeNotice link plane racks slots => Sys2Proof.Machine.execPlaneNotice link plane racks slots s
  | .laneLockChange link lane1 lock => Sys2Proof.Machine.execLaneLockChange link lane1 lock s
  | .linkDownDeclare link => Sys2Proof.Machine.execLinkDownDeclare link s
  | .lpiEnter link => Sys2Proof.Machine.execLpiEnter link s
  | .lpiWakeTimeout link => Sys2Proof.Machine.execLpiWakeTimeout link s
  | .grant link entry => Sys2Proof.Machine.execGrant link entry s
  | .release link entry => Sys2Proof.Machine.execRelease link entry s
  | .reconcile link entry => Sys2Proof.Machine.execReconcile link entry s
  | .reconAck link entry => Sys2Proof.Machine.execReconAck link entry s
  | .grantUpdateDue dev => Sys2Proof.Machine.execGrantUpdateDue dev s
  | .tallyRefresh => Sys2Proof.Machine.execTallyRefresh s
  | .reconcileSettleExpiry dev => Sys2Proof.Machine.execReconcileSettleExpiry dev s
  | .reconcileSend dev => Sys2Proof.Machine.execReconcileSend dev s
  | .reconcileResend dev => Sys2Proof.Machine.execReconcileResend dev s
  | .timeFlit link w0 w1 w2 w3 => Sys2Proof.Machine.execTimeFlit link w0 w1 w2 w3 s
  | .timePps => Sys2Proof.Machine.execTimePps s
  | .capMessage msg uncorrectable => Sys2Proof.Machine.execCapMessage msg uncorrectable s
  | .powerEstimate estimate => Sys2Proof.Machine.execPowerEstimate estimate s
  | .leverRelease estimate => Sys2Proof.Machine.execLeverRelease estimate s
  | .brakeAssert edge => Sys2Proof.Machine.execBrakeAssert edge s
  | .brakeRelease => Sys2Proof.Machine.execBrakeRelease s
  | .routeSettleExpiry => Sys2Proof.Machine.execRouteSettleExpiry s
  | .capHeartbeat => Sys2Proof.Machine.execCapHeartbeat s
  | .calibrationWindowStart => Sys2Proof.Machine.execCalibrationWindowStart s
  | .parkWakeTime => Sys2Proof.Machine.execParkWakeTime s
  | .telemetrySnapshot => Sys2Proof.Machine.execTelemetrySnapshot s
  | .hangCheck => Sys2Proof.Machine.execHangCheck s
  | .patrolScrub word err => Sys2Proof.Machine.execPatrolScrub word err s
  | .operatorComparatorFire n => Sys2Proof.Machine.execOperatorComparatorFire n s
  | .ageingMonitorSample margins temps ends => Sys2Proof.Machine.execAgeingMonitorSample margins temps ends s
  | .gangAllocate => Sys2Proof.Machine.execGangAllocate s
  | .stoneLoadDone stone => Sys2Proof.Machine.execStoneLoadDone stone s
  | .millGangTimeout unit => Sys2Proof.Machine.execMillGangTimeout unit s
  | .stoneQuiet stone => Sys2Proof.Machine.execStoneQuiet stone s
  | .stoneWake stone => Sys2Proof.Machine.execStoneWake stone s
  | .faultMessage origin => Sys2Proof.Machine.execFaultMessage origin s
  | .collectorSelfFault => Sys2Proof.Machine.execCollectorSelfFault s
  | .faultPulseEnd => Sys2Proof.Machine.execFaultPulseEnd s
  | .fltForce who val => Sys2Proof.Machine.execFltForce who val s
  | .fltClearSource who val => Sys2Proof.Machine.execFltClearSource who val s
  | .fltFirstClear who val => Sys2Proof.Machine.execFltFirstClear who val s
  | .curfewIn => Sys2Proof.Machine.execCurfewIn s
  | .curfewFlit link w0 w1 => Sys2Proof.Machine.execCurfewFlit link w0 w1 s
  | .curfewStop => Sys2Proof.Machine.execCurfewStop s
  | .curfewDumpDone => Sys2Proof.Machine.execCurfewDumpDone s
  | .curfewReleaseContinue who val => Sys2Proof.Machine.execCurfewReleaseContinue who val s
  | .curfewReleaseHalt who val => Sys2Proof.Machine.execCurfewReleaseHalt who val s
  | .curfewRestart => Sys2Proof.Machine.execCurfewRestart s
  | .jtagDumpShift op addr => Sys2Proof.Machine.execJtagDumpShift op addr s
  | .notifyHoldoffExpiry ring => Sys2Proof.Machine.execNotifyHoldoffExpiry ring s
  | .parIrqForce who q val => Sys2Proof.Machine.execParIrqForce who q val s
  | .crfCtlRate who croft val => Sys2Proof.Machine.execCrfCtlRate who croft val s
  | .lnkCtlWidth who link val => Sys2Proof.Machine.execLnkCtlWidth who link val s
  | .lnkCtlEn who link val => Sys2Proof.Machine.execLnkCtlEn who link val s
  | .pwrCtlMaxRate who val => Sys2Proof.Machine.execPwrCtlMaxRate who val s
  | .milPool who val => Sys2Proof.Machine.execMilPool who val s
  | .almCmpArm who n val => Sys2Proof.Machine.execAlmCmpArm who n val s
  | .registerWrite who addr size val => Sys2Proof.Machine.execRegisterWrite who addr size val s
  | .aonReset => Sys2Proof.Machine.execAonReset s
  | .pwrOkLow => Sys2Proof.Machine.execPwrOkLow s
  | .blockReset => Sys2Proof.Machine.execBlockReset s
  | .blockResetRelease => Sys2Proof.Machine.execBlockResetRelease s
  | .fwVerifyDone res => Sys2Proof.Machine.execFwVerifyDone res s
  | .sramClearDone => Sys2Proof.Machine.execSramClearDone s
  | .startupCalibrationDone croft pll badLanes => Sys2Proof.Machine.execStartupCalibrationDone croft pll badLanes s
  | .stewardMailboxRequest req => Sys2Proof.Machine.execStewardMailboxRequest req s
  | .miswiredRetrain link => Sys2Proof.Machine.execMiswiredRetrain link s
  | .traceSample q => Sys2Proof.Machine.execTraceSample q s
  | .diagHoldExpiry => Sys2Proof.Machine.execDiagHoldExpiry s
  | .wakeRejoinDeadline => Sys2Proof.Machine.execWakeRejoinDeadline s
  | .forcedCalibrationSpacing => Sys2Proof.Machine.execForcedCalibrationSpacing s
  | .calibrationAgeDue croft => Sys2Proof.Machine.execCalibrationAgeDue croft s
  | .pwrOkHigh => Sys2Proof.Machine.execPwrOkHigh s
  | .aonResetRelease => Sys2Proof.Machine.execAonResetRelease s
  | .croftPllUnlock croft => Sys2Proof.Machine.execCroftPllUnlock croft s
  | .stewardWatchdog pc => Sys2Proof.Machine.execStewardWatchdog pc s
  | .terFaultEnClear who val => Sys2Proof.Machine.execTerFaultEnClear who val s

end Sys2Proof.Machine
end

