-- ==== Sys2Proof/Machine/Idle.lean ====
section
/-! DEFINITION. What a step does when no command waits: time passes. -/

namespace Sys2Proof.Machine

/-- Almanac counts one AON cycle: 40 ns are 640 units of 1/16 ns (R365), plus the servo's rate (R371) in 1/2^32 units of a unit per
cycle; the fraction of a unit is kept. -/
def almTick (a : Alm) : Alm :=
  let total : Int := a.frac.toNat + 640 * 4294967296 + a.rate
  { a with now := a.now + BitVec.ofInt 64 (total / 4294967296), frac := BitVec.ofInt 32 total }

/-- The pages of the image that Reeve copies: PAGES, which R342 gives as 2 to 385; another value is brought into 1 to 385, and the check of the
lengths fails. DESIGN CHOICE: log entry 190. -/
def imagePages (s : State) : Nat := max 1 (min 385 (bits s.stw.fwPages 52 12))

/-- Reeve has checked its ROM and goes on to the image: it zeroes both Steward memories and starts the copy (R28, R344, R442 step 2). -/
def startLoad (s : State) : State :=
  issueRead .image [(4096 * bits s.stw.fwPages 12 40, 4096 * imagePages s)] 3 none none
    { s with gbl := { s.gbl with stage := .fwLoad }, ree := { s.ree with boot := 1 }, stw := { s.stw with code := [], data := [] } }

/-- The end of Reeve's ROM check. -/
def bootTick (s : State) : State := if s.pins.pwrOk && !s.pins.blockReset && s.gbl.stage == .reeveRom then startLoad s else s

/-- A stopped block begins its dump (R430). -/
def dumpTick (s : State) : State := if s.cur.state == .stopped then { s with cur := { s.cur with state := .dumping } } else s

/-- What a step does on an empty queue: one AON cycle passes, and what follows on its own goes on. Nothing does while AON_RESET_N is
asserted. DESIGN CHOICE: log entry 2. -/
def idleTick (s : State) : State := if s.pins.aonReset then s else dumpTick (bootTick { s with alm := almTick s.alm })

end Sys2Proof.Machine
end

