-- ==== Sys2Proof/Safety.lean ====
section
/-! DEFINITION. The terms in which statements are made: a run that goes on, what a command leaves alone, how a packet command ends. -/

namespace Sys2Proof.Safety

open Sys2Proof.Machine

/-- A step answers a next state. -/
def goesOn (s : State) : Prop := ∃ t, step s = .next t

/-! ## What most commands leave alone -/

/-- What identifies a command in flight; its progress is not part of it. -/
structure CmdKey where
  id     : Nat
  ch     : BitVec 21
  parish : Option (BitVec 6)
  op     : BitVec 8
  ringIx : BitVec 32
  recIx  : BitVec 32
  engine : Option Nat
  start  : Time
  deriving DecidableEq, Repr

/-- The key of a command. -/
def keyOf (c : Cmd) : CmdKey := ⟨c.id, c.ch, c.parish, c.op, c.ringIx, c.recIx, c.engine, c.start⟩

/-- Memory, part, queue, safe state and time. -/
structure Still where
  mem     : List Host.Cell
  part    : Part
  pending : List Instr
  safe    : Bool
  now     : Time
  deriving DecidableEq, Repr

/-- Those, with the number the next command takes and the commands in flight. -/
structure Kept where
  mem     : List Host.Cell
  part    : Part
  pending : List Instr
  safe    : Bool
  now     : Time
  nextId  : Nat
  keys    : List CmdKey
  deriving DecidableEq, Repr

/-- What a state has of them. -/
def kept (s : State) : Kept := ⟨s.mem, s.part, s.pending, s.flt.safe, s.alm.now, s.eng.nextId, s.eng.cmds.map keyOf⟩

/-- All of it but the commands. -/
def toStill (k : Kept) : Still := ⟨k.mem, k.part, k.pending, k.safe, k.now⟩

/-- The units that fetching, starting and ending a packet command leave alone: fuses, pins, Almanac, power, Reeve, windows, the debug
port, routes, the barn, signals, ordered groups, links, observation, Curfew, memory. -/
structure Aside where
  part   : Part
  otp    : Otp
  pins   : Pins
  alm    : Alm
  pwr    : Pwr
  ree    : Ree
  wins   : Wins
  dap    : Dap
  route  : Route
  brn    : Brn
  sig    : Sig
  groups : List Group
  lnk    : Lnk
  obs    : Obs
  cur    : Cur
  mem    : List Host.Cell
  free   : Nat
  pending : List Instr
  deriving DecidableEq, Repr

/-- What a state has of them. -/
def aside (s : State) : Aside :=
  ⟨s.part, s.otp, s.pins, s.alm, s.pwr, s.ree, s.wins, s.dap, s.route, s.brn, s.sig, s.groups, s.lnk, s.obs, s.cur, s.mem, s.free, s.pending⟩

/-- The Almanac but for comparator 1, which Curfew arms when a condition of its own holds (R430). -/
def Alm.less (a : Alm) : Alm := { a with cmps := Tab.erase a.cmps 1 }

/-- What data in flight never changes: fuses, the Almanac but for Curfew's comparator, power, windows, routes. -/
structure Deep where
  otp   : Otp
  alm   : Alm
  pwr   : Pwr
  wins  : Wins
  route : Route
  deriving DecidableEq, Repr

/-- What a state has of them. -/
def deep (s : State) : Deep := ⟨s.otp, Alm.less s.alm, s.pwr, s.wins, s.route⟩

/-! ## Packet commands -/

/-- Every command in flight has a number below the next one to be given. -/
def fresh (s : State) : Prop := ∀ c ∈ s.eng.cmds, c.id < s.eng.nextId

/-- The packet at the head of channel `ch`, whose entry is `c`, may start now: R38's checks pass and the unit that runs it has room. -/
def starts (s : State) (ch : BitVec 21) (c : Chan) (pkt : List Word) : Prop :=
  chan? s ch = some c ∧ mayStart s ch pkt = true ∧ early s (ch == 0) c.parish pkt = none ∧
  (pkOp pkt < 0x40 ∨ stewardRoom s ch c.parish = true) ∧ fresh s

/-- The packet stands at the head of channel `ch`, whose entry is `c`, fetched, on a channel that runs, and passes R114's first steps. -/
def atHead (s : State) (ch : BitVec 21) (c : Chan) (pkt : List Word) : Prop :=
  chan? s ch = some c ∧ running s = true ∧ c.state = .running ∧ c.cached = true ∧ 0 < dist32 c.fetched c.head ∧
  early s (ch == 0) c.parish pkt = none

/-- What is left as it was when a packet command starts: memory, part, queue, safe state, time and every command already in flight; the
command takes the next number, and a place behind the others, with its ring entry, its record and its engine. -/
def startedIn (s t : State) (ch : BitVec 21) (c : Chan) (pkt : List Word) (engine : Option Nat) : Prop :=
  kept t = { kept s with
    nextId := s.eng.nextId + 1
    keys := (kept s).keys ++ [{ id := s.eng.nextId, ch := ch, parish := if ch = 0 then none else some c.parish
                                op := BitVec.ofNat 8 (pkOp pkt), ringIx := c.head, recIx := c.recNext, engine := engine, start := now s }] }

/-- The command that starts in `s` has ended in `t`, with this status and, if that is a good one, this result. -/
def endedIn (s t : State) (st : BitVec 8) (result : Word) : Prop :=
  ∃ x, cmd? t s.eng.nextId = some x ∧ x.phase = .done ∧ x.status = st ∧ (stGood st = true → x.result = result)

/-- The parish a command of channel `ch` runs for; channel 0's own commands count as parish 0's. -/
def ownParish (ch : BitVec 21) (c : Chan) : BitVec 6 := if ch = 0 then 0 else c.parish

/-- The command that starts in `s` waits in `t` for one write of the block's own, with the status and result it will end with. -/
def writesIn (s t : State) (st : BitVec 8) (result : Word) : Prop :=
  ∃ x, cmd? t s.eng.nextId = some x ∧ x.phase = .mgmt ∧ x.status = st ∧ x.result = result ∧
    ∃ w ∈ t.memp.writes, w.use = .mgmt s.eng.nextId

/-- The command that starts in `s` waits in `t` for an array it reads. -/
def readsIn (s t : State) (parts : List (Nat × Nat)) : Prop :=
  ∃ x, cmd? t s.eng.nextId = some x ∧ x.phase = .mgmt ∧ ∃ r ∈ t.memp.reads, r.use = .mgmt s.eng.nextId ∧ r.parts = parts

/-- HEAD of the channel has moved past the packet, and the next record's index follows. -/
def headPast (t : State) (ch : BitVec 21) (c : Chan) (pkt : List Word) : Prop :=
  ∃ x, chan? t ch = some x ∧ x.head = c.head + BitVec.ofNat 32 (pkEntries pkt) ∧ x.recNext = c.recNext + 1

/-- The command that starts in `s` waits in `t` for the block to finish something. -/
def waitsIn (s t : State) : Prop := ∃ x, cmd? t s.eng.nextId = some x ∧ x.phase = .mgmt

/-- The rows of the packet commands that start when their channel may start one, each with the packets that are its own: WAIT, which holds its channel
first, HANG_REPORT, which waits for Curfew, and TEST, which waits for another test, apart. -/
def packetRows : List ((BitVec 21 → List Word → Instr) × (List Word → Prop)) :=
   [(.nop, fun p => pkOp p = 0x00 ∨ unassigned (pkOp p) = true),
    (.put, fun p => pkOp p = opPut),
    (.get, fun p => pkOp p = opGet),
    (.copy, fun p => pkOp p = opCopy),
    (.rput, fun p => pkOp p = opRput),
    (.mput, fun p => pkOp p = opMput),
    (.iput, fun p => pkOp p = opIput),
    (.iget, fun p => pkOp p = opIget),
    (.amo, fun p => pkOp p = opAmo),
    (.amof, fun p => pkOp p = opAmof),
    (.xform, fun p => pkOp p = opXform),
    (.sync, fun p => pkOp p = 0x0D),
    (.mark, fun p => pkOp p = 0x0E),
    (.winOpen, fun p => pkOp p = 0x40),
    (.winClose, fun p => pkOp p = 0x41),
    (.profileSet, fun p => pkOp p = 0x44),
    (.tableSet, fun p => pkOp p = 0x45),
    (.matrixSet, fun p => pkOp p = 0x46 ∧ bitAt (pw p 0) 16 = false),
    (.matrixSetClear, fun p => pkOp p = 0x46 ∧ bitAt (pw p 0) 16 = true),
    (.milRelease, fun p => pkOp p = 0x47),
    (.watchSet, fun p => (pkOp p = 0x48 ∨ pkOp p = 0x93) ∧ bitAt (pw p 0) 16 = false),
    (.watchSetClear, fun p => (pkOp p = 0x48 ∨ pkOp p = 0x93) ∧ bitAt (pw p 0) 16 = true),
    (.traceCtl, fun p => pkOp p = 0x49),
    (.parishCreate, fun p => pkOp p = 0x80),
    (.parishSet, fun p => pkOp p = 0x81),
    ((fun ch p => .parishRetire (.ring ch p)), fun p => pkOp p = 0x82),
    ((fun ch p => .blockScrub (.ring ch p)), fun p => pkOp p = 0x83),
    (.routeLoad, fun p => pkOp p = 0x84),
    (.routeCommit, fun p => pkOp p = 0x85),
    (.stripeMapSet, fun p => pkOp p = 0x86),
    (.planeDrain, fun p => pkOp p = 0x87 ∧ bitAt (pw p 0) 16 = false),
    (.planeUndrain, fun p => pkOp p = 0x87 ∧ bitAt (pw p 0) 16 = true),
    ((fun ch p => .fence (.ring ch p)), fun p => pkOp p = 0x88),
    ((fun ch p => .unfence (.ring ch p)), fun p => pkOp p = 0x89),
    (.tallyPlan, fun p => pkOp p = 0x8A ∧ bitAt (pw p 0) 16 = false),
    (.tallyPlanClear, fun p => pkOp p = 0x8A ∧ bitAt (pw p 0) 16 = true),
    (.keyPair, fun p => pkOp p = 0x8B ∧ bitAt (pw p 0) 16 = false),
    (.keyPairRekey, fun p => pkOp p = 0x8B ∧ bitAt (pw p 0) 16 = true),
    (.reeveMsgRequest, fun p => pkOp p = 0x8C ∧ pkSubop p % 4 = 0),
    (.reeveMsgPull, fun p => pkOp p = 0x8C ∧ pkSubop p % 4 = 1),
    (.reeveMsgPush, fun p => pkOp p = 0x8C ∧ pkSubop p % 4 = 2),
    (.reeveMsgNotes, fun p => pkOp p = 0x8C ∧ pkSubop p % 4 = 3),
    (.timeSet, fun p => pkOp p = 0x8D),
    (.powerSet, fun p => pkOp p = 0x8E),
    (.terInvalidate, fun p => pkOp p = 0x90),
    (.terResolveRetry, fun p => pkOp p = 0x91 ∧ bitAt (pw p 0) 16 = false),
    (.terResolveAbort, fun p => pkOp p = 0x91 ∧ bitAt (pw p 0) 16 = true),
    (.apertureSet, fun p => pkOp p = 0x92),
    (.curfew, fun p => pkOp p = 0x94),
    (.selftestRemove, fun p => pkOp p = 0x96 ∧ (testAct p = 0 ∨ testAct p = 3)),
    (.selftestRestore, fun p => pkOp p = 0x96 ∧ testAct p = 2),
    (.calibrate, fun p => pkOp p = 0x97)]

/-! ## Doorbells, landings, answers -/

/-- A doorbell of `who` reaches channel `ch`, which the controller holds as `c`, in its cache, PARKING or STOPPED, and which `who` may ring (R69). -/
def rings (s : State) (who : Who) (ch : BitVec 21) (c : Chan) : Prop :=
  s.pins.pwrOk = true ∧ s.pins.aonReset = false ∧ s.flt.safe = false ∧ ctrlpOpen s = true ∧ heldAccess s = false ∧ ch.toNat < chnCount s ∧
  chnEn s = true ∧ s.chn.bells.any (fun x => x.ch == ch) = false ∧ chan? s ch = some c ∧ mayRing who ch c.parish = true ∧
  (c.cached = true ∨ c.state = .parking ∨ c.state = .stopped)

/-- An uncharged transaction is heard: from this device's own egress, or over a link that is up, by a device with its fabric ID, from another
device, well formed. -/
def hears (s : State) (via : Via) (t : Txn) : Prop :=
  match via with
  | .self => running s = true ∧ s.tx.locals.contains t = true
  | .link p => linkHears s p = true ∧ s.gbl.fabricValid = true ∧ t.src ≠ ownId s ∧ forUs s t = true ∧ malformed t = false

/-- A charged transaction lands: it is heard, and over a link its source had the credit for it when its header came, and has it now (R252). -/
def lands (s : State) (via : Via) (t : Txn) : Prop :=
  hears s via t ∧ match via with
  | .self => True
  | .link p => (link s p.toNat).overs.any (sameHead t) = false ∧ overrun (takeHeader t s) t = false

/-- The lines a transaction holds once it has landed: none for one of the device's own (R113). -/
def landLines (via : Via) (t : Txn) : Nat := match via with
  | .self => 0
  | .link _ => txLines t

/-- The transaction passes the checks of its window, whose entry is at hand, unsealed and uncoded, and its one run of `n` bytes stands in one
cached RESIDENT range, at `pa`. Nothing else is at the ingress, and nothing is watched. -/
def reaches (s : State) (t : Txn) (pa n : Nat) : Prop :=
  winEn s = true ∧ (txWindow t).toNat < winCount s ∧ s.wins.cached.contains (txWindow t).toNat = true ∧
  (t.src = ownId s ∨ (fence s t.src.toNat).device = false) ∧ windowCheck s t = stOk ∧
  (t.src = ownId s ∨ (parSealed s (win s (txWindow t).toNat).parish = false ∧ t.sealSlot = none)) ∧ t.coded = false ∧ t.count = 0 ∧
  (∃ off upto, txAccess t = [(off, n)] ∧ 0 < n ∧ (win s (txWindow t).toNat).vaBase.toNat + off + n ≤ upto ∧
    lookup s (win s (txWindow t).toNat).parish ((win s (txWindow t).toNat).vaBase.toNat + off) = .resident pa upto) ∧
  s.brn.arrivals = [] ∧ s.sig.ops = [] ∧ s.sig.ents = [] ∧ s.obs.watches = []

/-- Nothing that landed waits for a translation. -/
def calm (s : State) : Prop := (∀ a ∈ s.brn.arrivals, a.state ≠ .xlate) ∧ ∀ e ∈ s.sig.ents, e.state ≠ .handed

/-- Command `id`, `c`, has presented every stripe, none of them has failed, and `us` are the units that it still has. -/
def waitsFor (s : State) (id : Nat) (c : Cmd) (us : List Xu) : Prop :=
  cmd? s id = some c ∧ c.phase = .active ∧ c.reading = false ∧ c.writing = 0 ∧ c.redo = false ∧ planCount c ≤ c.next ∧ c.fails = [] ∧ c.late = [] ∧
  pkOp c.pkt ≠ opXform ∧ pkOp c.pkt ≠ opMput ∧ c.op = BitVec.ofNat 8 (pkOp c.pkt) ∧ unitsOf s id = us ∧
  (∀ a ∈ s.brn.arrivals, a.cmd ≠ some id)

/-- The command is over, with this status. -/
def over_ (t : State) (id : Nat) (st : BitVec 8) : Prop := ∃ y, cmd? t id = some y ∧ y.phase = .done ∧ y.status = st

/-- The sender of a unit has nothing to do at once. -/
def restful (s : State) (u : UnitFor) : Prop := ∀ id c, u = .cmd id → cmd? s id = some c → c.phase ≠ .active ∨ c.reading = true

/-! ## Tallies, power, faults -/

/-- A tally entry of kind `k` for this device, which has its fabric ID, arrives on link `l` (R226, R245). -/
def hearsEntry (s : State) (l : BitVec 7) (e : Word) (k : Nat) : Prop :=
  linkHears s l = true ∧ s.gbl.fabricValid = true ∧ teKind e = k ∧ teTo e = (ownId s).toNat

/-- A fault message of a source waits to be processed. -/
def flagged (s : State) (src : Nat) : Prop := ∃ m ∈ s.flt.msgs, m.src = BitVec.ofNat 10 src

/-- What the power controller leaves alone: everything but power, pins, events, faults, links, routes, the debug port, units in flight. -/
def powerAside (s : State) : Part × Otp × Alm × Ree × Stw × Chn × Eng × Memp × Ter × Wins × Tal × Brn × Sig × Mil × List (Nat × Parish) × Obs × Cur :=
  (s.part, s.otp, s.alm, s.ree, s.stw, s.chn, s.eng, s.memp, s.ter, s.wins, s.tal, s.brn, s.sig, s.mil, s.par, s.obs, s.cur)

/-- Croft `c` has begun to calibrate: placement forbids its planes, and its joined links that were in service pause (R452). -/
def calibrates (s t : State) (c : Nat) (forced : Bool) : Prop :=
  (croft t c).calActive = true ∧ (croft t c).calForced = forced ∧ (∀ p ∈ linksOf c, memb t.route.calPause p = true) ∧
  ∀ p ∈ linksOf c, (link s p).joined = true → ((link s p).state = .up ∨ (link s p).state = .lpi) →
    (link t p).pause = some (.calibration, now s) ∧ (link t p).state = .up

/-! ## The control port -/

/-- The control port serves every access: power on, out of reset, started, not stopped, not parked, nothing held (R466). -/
def served (s : State) : Prop :=
  s.flt.safe = false ∧ stoppedByCurfew s = false ∧ ctrlpOpen s = true ∧ s.pwr.state ≠ .parked ∧ s.cur.heldAccesses = []

end Sys2Proof.Safety
end

