-- ==== Sys2Proof/Certificates/Slice0/Obligations.lean ====
section
/-! DEFINITION. The statements for the provers. -/

open Sys2Proof Sys2Proof.Machine Sys2Proof.Safety

/-! ## Packet commands: starting -/

/-- Every command that an engine runs starts when its channel may start it and an engine is free: it takes the next number, its place behind
the commands in flight, its record index and its engine, and memory, part, queue, time and safe state stay (R34, R38, R114). -/
def Obligations.EngineCommandsStart : Prop :=
  ∀ (ch : BitVec 21) (pkt : List Word) (s : State) (c : Chan) (e : Nat), starts s ch c pkt → pickEngine s = some e →
    (pkOp pkt = opPut → ∃ t, exec (.put ch pkt) s = .next t ∧ startedIn s t ch c pkt (some e)) ∧
    (pkOp pkt = opGet → ∃ t, exec (.get ch pkt) s = .next t ∧ startedIn s t ch c pkt (some e)) ∧
    (pkOp pkt = opCopy → ∃ t, exec (.copy ch pkt) s = .next t ∧ startedIn s t ch c pkt (some e)) ∧
    (pkOp pkt = opRput → ∃ t, exec (.rput ch pkt) s = .next t ∧ startedIn s t ch c pkt (some e)) ∧
    (pkOp pkt = opMput → ∃ t, exec (.mput ch pkt) s = .next t ∧ startedIn s t ch c pkt (some e)) ∧
    (pkOp pkt = opIput → ∃ t, exec (.iput ch pkt) s = .next t ∧ startedIn s t ch c pkt (some e)) ∧
    (pkOp pkt = opIget → ∃ t, exec (.iget ch pkt) s = .next t ∧ startedIn s t ch c pkt (some e)) ∧
    (pkOp pkt = opAmo → ∃ t, exec (.amo ch pkt) s = .next t ∧ startedIn s t ch c pkt (some e)) ∧
    (pkOp pkt = opAmof → ∃ t, exec (.amof ch pkt) s = .next t ∧ startedIn s t ch c pkt (some e)) ∧
    (pkOp pkt = opXform → ∃ t, exec (.xform ch pkt) s = .next t ∧ startedIn s t ch c pkt (some e))

/-- A packet command that R114's steps reject, in each row of the table, starts and ends at once with the status of the step, on its own number, and no
unit beside the front end changes (R114). An unassigned opcode is one of them, and comes as the NOP row: log entry 9. A WAIT is rejected so where its
channel waits for none, a HANG_REPORT while Curfew is idle (R435), a TEST while no other test runs. -/
def Obligations.RejectedCommandsEnd : Prop :=
  ∀ (ch : BitVec 21) (pkt : List Word) (s : State) (c : Chan) (st : BitVec 8),
    chan? s ch = some c → mayStart s ch pkt = true → early s (ch == 0) c.parish pkt = some st → fresh s →
    (∀ row ∈ packetRows, row.2 pkt →
      ∃ t, exec (row.1 ch pkt) s = .next t ∧ endedIn s t st 0 ∧ startedIn s t ch c pkt none ∧ aside t = aside s) ∧
    (pkOp pkt = 0x0C → waiter? s ch = none →
      ∃ t, exec (.wait ch pkt) s = .next t ∧ endedIn s t st 0 ∧ startedIn s t ch c pkt none ∧ aside t = aside s) ∧
    (pkOp pkt = 0x96 → testAct pkt = 1 → s.stw.test = none →
      ∃ t, exec (.selftestTest ch pkt) s = .next t ∧ endedIn s t st 0 ∧ startedIn s t ch c pkt none ∧ aside t = aside s) ∧
    (pkOp pkt = 0x95 → s.cur.state = .idle →
      (bitAt (pw pkt 0) 16 = false → ∃ t, exec (.hangReportGraph ch pkt) s = .next t ∧ endedIn s t st 0 ∧ startedIn s t ch c pkt none ∧ aside t = aside s) ∧
      (bitAt (pw pkt 0) 16 = true → ∃ t, exec (.hangReportSnapshot ch pkt) s = .next t ∧ endedIn s t st 0 ∧ startedIn s t ch c pkt none ∧ aside t = aside s))

/-- NOP ends at once with OK; MARK ends at once with OK and the time at which it started; SYNC, once every earlier command of its channel is
complete, ends at once with OK. HEAD passes each, and no unit beside the front end changes (R36, R133). A SYNC with an earlier command incomplete
blocks its channel with cause 1, and one under HALT_ON_ERROR whose channel has the error mark parks it for reason 0x03: neither starts (R36, R73).
A WAIT whose word can be read now blocks its channel with cause 2 and reads the word, 8 bytes; one whose address needs a walk, or a fault record, blocks
it too and reads nothing yet. Neither has started: HEAD stays, and no command is in flight for it (R131, R93). Of WORD_VA on channel 0 the low
52 bits count: log entry 172. -/
def Obligations.QueueCommandsEnd : Prop :=
  (∀ (ch : BitVec 21) (pkt : List Word) (s : State) (c : Chan), starts s ch c pkt →
      (pkOp pkt = 0x00 → ∃ t, exec (.nop ch pkt) s = .next t ∧ endedIn s t stOk 0 ∧ startedIn s t ch c pkt none ∧ aside t = aside s ∧ headPast t ch c pkt) ∧
      (pkOp pkt = 0x0E → ∃ t, exec (.mark ch pkt) s = .next t ∧ endedIn s t stOk (now s) ∧ startedIn s t ch c pkt none ∧ aside t = aside s ∧
        headPast t ch c pkt) ∧
      (pkOp pkt = 0x0D → incomplete s ch = false → (pkFlag0 pkt && c.errMark) = false →
        ∃ t, exec (.sync ch pkt) s = .next t ∧ endedIn s t stOk 0 ∧ startedIn s t ch c pkt none ∧ aside t = aside s ∧
          ∃ x, chan? t ch = some x ∧ x.head = c.head + BitVec.ofNat 32 (pkEntries pkt) ∧ x.errMark = false)) ∧
  (∀ (ch : BitVec 21) (pkt : List Word) (s : State) (c : Chan), atHead s ch c pkt → pkOp pkt = 0x0D →
      (incomplete s ch = true →
        ∃ t, exec (.sync ch pkt) s = .next t ∧ kept t = kept s ∧ aside t = aside s ∧
          chan? t ch = some { c with state := .blocked, blockCause := 1, blockedAt := now s }) ∧
      (incomplete s ch = false → pkFlag0 pkt = true → c.errMark = true →
        ∃ t, exec (.sync ch pkt) s = .next t ∧ kept t = kept s ∧ aside t = aside s ∧
          ∃ x, chan? t ch = some x ∧ x.state = .parking ∧ x.parkWhy = 0x03 ∧ x.head = c.head ∧ x.fetched = c.head)) ∧
  (∀ (ch : BitVec 21) (pkt : List Word) (s : State) (c : Chan), atHead s ch c pkt → pkOp pkt = 0x0C → waiter? s ch = none →
      joined s (.wait ch) = [] → waitsRecord s (.wait ch) = false →
      (∀ pa : BitVec 52, ((ch = 0 ∧ pa = (pw pkt 1).extractLsb' 0 52) ∨
          (ch ≠ 0 ∧ ∃ a n, lookup s c.parish (pw pkt 1).toNat = .resident a n ∧ pa = BitVec.ofNat 52 a)) →
        ∃ t, exec (.wait ch pkt) s = .next t ∧
          (∃ x, chan? t ch = some x ∧ x.state = .blocked ∧ x.blockCause = 2 ∧ x.head = c.head) ∧
          (∃ w, waiter? t ch = some w ∧ w.va = pw pkt 1 ∧ w.mask = pw pkt 2 ∧ w.val = pw pkt 3 ∧ w.reading = true) ∧
          (∃ r ∈ t.memp.reads, r.use = .waitWord ch ∧ r.parts = [(pa.toNat, 8)]) ∧
          kept t = kept s ∧ deep t = deep s) ∧
      (ch ≠ 0 → (lookup s c.parish (pw pkt 1).toNat = .miss ∨ (terEn s = true ∧ ∃ k n, lookup s c.parish (pw pkt 1).toNat = .bad k n)) →
        ∃ t, exec (.wait ch pkt) s = .next t ∧
          (∃ x, chan? t ch = some x ∧ x.state = .blocked ∧ x.blockCause = 2 ∧ x.head = c.head) ∧
          (∃ w, waiter? t ch = some w ∧ w.va = pw pkt 1 ∧ w.mask = pw pkt 2 ∧ w.val = pw pkt 3 ∧ w.reading = false) ∧
          kept t = kept s ∧ deep t = deep s))

/-! ## Parish commands -/

/-- WIN_OPEN takes the lowest free handle, opens its window as the packet says, for the command's parish and with that parish's tag, and ends
with the handle once the entry is written (R141).
WIN_CLOSE of an open window of the command's parish closes it: the window is CLOSING and the command waits for it to drain. Once it has
drained it goes to quarantine for two transaction timeouts, and leaves it free (R142).
Log entry 151: the model's choice where the rules leave one. -/
def Obligations.WindowsOpenAndClose : Prop :=
  (∀ (ch : BitVec 21) (pkt : List Word) (s : State) (c : Chan) (h : Nat), starts s ch c pkt → pkOp pkt = 0x40 →
      (parish s (ownParish ch c).toNat).state = .active → winOpenOk pkt = true → winEn s = true →
      winHeld s (ownParish ch c) < (parish s (ownParish ch c).toNat).windowQuota.toNat →
      firstBelow (winCount s) (fun h => (win s h).state == .free) = some h →
      ∃ t, exec (.winOpen ch pkt) s = .next t ∧ startedIn s t ch c pkt none ∧ writesIn s t stOk (BitVec.ofNat 64 h) ∧
        win t h = { state := .opened, tag := parTag s (ownParish ch c), parish := ownParish ch c, classes := (pw pkt 3).extractLsb' 0 4,
                    vaBase := (pw pkt 1).extractLsb' 0 57, length := (pw pkt 2).extractLsb' 0 48, label := pw pkt 4 } ∧
        (∀ k, k ≠ h → win t k = win s k) ∧ t.route = s.route ∧ t.alm = s.alm ∧ t.pwr = s.pwr) ∧
  ((∀ (ch : BitVec 21) (pkt : List Word) (s : State) (c : Chan), starts s ch c pkt → pkOp pkt = 0x41 → winEn s = true →
      bits (pw pkt 1) 0 20 < winCount s → (win s (bits (pw pkt 1) 0 20)).state = .opened → (win s (bits (pw pkt 1) 0 20)).parish = ownParish ch c →
      ∃ t, exec (.winClose ch pkt) s = .next t ∧ startedIn s t ch c pkt none ∧
        win t (bits (pw pkt 1) 0 20) = { win s (bits (pw pkt 1) 0 20) with state := .closing } ∧
        (bits (pw pkt 1) 0 20, some s.eng.nextId) ∈ t.wins.closing ∧ t.route = s.route) ∧
    (∀ (h : BitVec 20) (s : State) (x : Nat × Option Nat), running s = true → s.wins.closing.find? (fun y => y.1 == h.toNat) = some x → winDrained s h.toNat = true →
      (win s h.toNat).state = .closing →
      ∃ t, exec (.winCloseDrained h) s = .next t ∧
        win t h.toNat = { win s h.toNat with state := .quarantine, qEnd := later (now s) (2 * effTimeout s) } ∧
        t.wins.closing = s.wins.closing.filter (fun y => y.1 != h.toNat) ∧ kept t = kept s ∧ t.route = s.route) ∧
    (∀ (h : BitVec 20) (s : State), running s = true → (win s h.toNat).state = .quarantine → reached s (win s h.toNat).qEnd = true →
      ∃ t, exec (.windowQuarantineEnd h) s = .next t ∧ win t h.toNat = {} ∧ (∀ k, k ≠ h.toNat → win t k = win s k) ∧ kept t = kept s))

/-- PROFILE_SET and TABLE_SET set one profile register and one mode-L table of the command's parish and nothing else of any parish; both end
at once with OK (R278, R280).
MATRIX_SET registers a matrix for the command's parish and ends; CLEAR, with nothing that uses the matrix, drops the registration and ends;
MIL_RELEASE ends with the number of Stones that held a matrix of the range (R315, R316).
Log entries 100, 104: the model's choice where the rules leave one. -/
def Obligations.CodingIsRegistered : Prop :=
  (∀ (ch : BitVec 21) (pkt : List Word) (s : State) (c : Chan), starts s ch c pkt → (parish s (ownParish ch c).toNat).state = .active →
      (pkOp pkt = 0x44 → bits (pw pkt 1) 0 4 ≠ 0 → profileOk (pw pkt 2) = true → (profNeedsC (pw pkt 2) && !s.part.c) = false →
        (profNeedsM (pw pkt 2) && !s.part.m) = false →
        ∃ t, exec (.profileSet ch pkt) s = .next t ∧ startedIn s t ch c pkt none ∧ endedIn s t stOk 0 ∧ aside t = aside s ∧
          (∃ d, parish t (ownParish ch c).toNat = { parish s (ownParish ch c).toNat with
            deficit := d, profiles := Tab.put none (parish s (ownParish ch c).toNat).profiles (bits (pw pkt 1) 0 4) (some (pw pkt 2)) }) ∧
          ∀ p, p ≠ (ownParish ch c).toNat → ∃ d, parish t p = { parish s p with deficit := d }) ∧
      (pkOp pkt = 0x45 → lTableOk (pw pkt 2) = true →
        ∃ t, exec (.tableSet ch pkt) s = .next t ∧ startedIn s t ch c pkt none ∧ endedIn s t stOk 0 ∧ aside t = aside s ∧
          (∃ d, parish t (ownParish ch c).toNat = { parish s (ownParish ch c).toNat with
            deficit := d, tabs := Tab.put (0x4444444444444444#64) (parish s (ownParish ch c).toNat).tabs (bits (pw pkt 1) 0 2) (pw pkt 2) }) ∧
          ∀ p, p ≠ (ownParish ch c).toNat → ∃ d, parish t p = { parish s p with deficit := d })) ∧
  (∀ (ch : BitVec 21) (pkt : List Word) (s : State) (c : Chan), starts s ch c pkt →
      (pkOp pkt = 0x46 → bitAt (pw pkt 0) 16 = false → matrixOk pkt = true → regOf s (ownParish ch c) (bits (pw pkt 1) 0 8) = none → s.mil.regs.length < 1024 →
        ∃ t, exec (.matrixSet ch pkt) s = .next t ∧ startedIn s t ch c pkt none ∧ endedIn s t stOk 0 ∧ aside t = aside s ∧
          t.mil.regs = s.mil.regs ++ [{ parish := ownParish ch c, ident := BitVec.ofNat 8 (bits (pw pkt 1) 0 8), va := bits (pw pkt 2) 0 57
                                        k := BitVec.ofNat 16 (bits (pw pkt 3) 16 16), n := BitVec.ofNat 16 (bits (pw pkt 3) 0 16)
                                        format := BitVec.ofNat 8 (pkFormat pkt) }]) ∧
      (pkOp pkt = 0x46 → bitAt (pw pkt 0) 16 = true → pw pkt 2 = 0 → pw pkt 3 = 0 → bits (pw pkt 1) 0 8 ≠ 0 →
        (regOf s (ownParish ch c) (bits (pw pkt 1) 0 8)).isSome = true → s.mil.clears = [] →
        matrixUsed s (ownParish ch c) (BitVec.ofNat 8 (bits (pw pkt 1) 0 8)) = false →
        ∃ t, exec (.matrixSetClear ch pkt) s = .next t ∧ startedIn s t ch c pkt none ∧ endedIn s t stOk 0 ∧ aside t = aside s ∧
          t.mil.regs = s.mil.regs.filter (fun r => !(r.parish == ownParish ch c && r.ident == BitVec.ofNat 8 (bits (pw pkt 1) 0 8)))) ∧
      (pkOp pkt = 0x47 → bits (pw pkt 1) 0 57 % 4096 = 0 → bits (pw pkt 2) 0 57 % 4096 = 0 →
        ∃ t, exec (.milRelease ch pkt) s = .next t ∧ startedIn s t ch c pkt none ∧ aside t = aside s ∧ t.mil.regs = s.mil.regs ∧
          endedIn s t stOk (BitVec.ofNat 64 ((List.range 8).filter fun n => (stone s n).matrix.any
            (millHolds (ownParish ch c) (bits (pw pkt 1) 0 57) (bits (pw pkt 1) 0 57 + bits (pw pkt 2) 0 57))).length)))

/-- WATCH_SET arms a watch for the command's parish and ends with the old hit count; CLEAR removes it and ends with the count (R427).
Log entry 164: the model's choice where the rules leave one. -/
def Obligations.WatchesAreSet : Prop :=
  ∀ (ch : BitVec 21) (pkt : List Word) (s : State) (c : Chan), starts s ch c pkt → pkOp pkt = 0x48 →
    watchTaken s (ownParish ch c) pkt (bits (pw pkt 1) 0 6) = false →
    (bitAt (pw pkt 0) 16 = false → watchOk s (ownParish ch c) false pkt = true → (bitAt (pw pkt 4) 1 && !s.part.t) = false →
      ∃ t, exec (.watchSet ch pkt) s = .next t ∧ startedIn s t ch c pkt none ∧
        endedIn s t stOk (Tab.get {} s.obs.watches (bits (pw pkt 1) 0 6)).count ∧
        aside t = { aside s with obs := { s.obs with watches := Tab.put {} s.obs.watches (bits (pw pkt 1) 0 6) (watchOf (ownParish ch c) pkt) } }) ∧
    (bitAt (pw pkt 0) 16 = true → watchOk s (ownParish ch c) true pkt = true → (bitAt (pw pkt 4) 1 && !s.part.t) = false →
      ∃ t, exec (.watchSetClear ch pkt) s = .next t ∧ startedIn s t ch c pkt none ∧
        endedIn s t stOk (Tab.get {} s.obs.watches (bits (pw pkt 1) 0 6)).count ∧
        aside t = { aside s with obs := { s.obs with watches := Tab.put {} s.obs.watches (bits (pw pkt 1) 0 6) {} } })

/-! ## Operator commands -/

/-- The packet commands whose operand is an array in memory start and wait for the read of it, and no unit beside the front end changes:
TRACE_CTL reads the descriptors of its channels, ROUTE_LOAD its entries, STRIPE_MAP_SET its map, TALLY_PLAN its plan, REEVE_MSG REQUEST
and PUSH their message (R94, R172, R175, R240, R347, R424).
The read response that brings the array ends each in one step: ROUTE_LOAD writes its entries into its bank, or refuses them whole; STRIPE_MAP_SET
writes its map, or refuses a bad one and one that a valid entry names; TALLY_PLAN stores its plan and answers the default grant, or refuses it
whole; TRACE_CTL sets its parish's sampling, or refuses a channel of another parish; REEVE_MSG REQUEST writes Reeve's answer into the buffer, and
PUSH hands Reeve the response and answers 0. What waits then goes on. How Reeve answers rests on log entry 19, that the ports answer the pieces
of a read together on log entry 184, that an ownerless plan entry names no parish on log entry 154. -/
def Obligations.ArrayCommandsReadAndAct : Prop :=
  (∀ (ch : BitVec 21) (pkt : List Word) (s : State) (c : Chan), starts s ch c pkt →
    (pkOp pkt = 0x49 → 10 ≤ bits (pw pkt 1) 0 5 → bits (pw pkt 1) 0 5 ≤ 24 → 1 ≤ bits (pw pkt 3) 0 7 → bits (pw pkt 3) 0 7 ≤ 64 →
      bits (pw pkt 2) 0 21 + bits (pw pkt 3) 0 7 ≤ chnCount s → chnEn s = true →
      ∃ t, exec (.traceCtl ch pkt) s = .next t ∧ startedIn s t ch c pkt none ∧ aside t = aside s ∧
        readsIn s t ((traceChans pkt).map fun k => (descAddr s k, 8))) ∧
    (pkOp pkt = 0x84 → 1 ≤ bits (pw pkt 1) 16 10 → bits (pw pkt 1) 16 10 ≤ 512 → bits (pw pkt 1) 0 9 + bits (pw pkt 1) 16 10 ≤ 512 →
      bits (pw pkt 2) 0 52 % 16 = 0 →
      ((systemLevel s = false ∧ bitAt (pw pkt 1) 32 = false) ∨ (systemLevel s = true ∧ bitAt (pw pkt 1) 32 = !s.route.epoch ∧ s.route.settled = true)) →
      ∃ t, exec (.routeLoad ch pkt) s = .next t ∧ startedIn s t ch c pkt none ∧ aside t = aside s ∧
        readsIn s t [(bits (pw pkt 2) 0 52, 16 * bits (pw pkt 1) 16 10)]) ∧
    (pkOp pkt = 0x86 → bits (pw pkt 2) 0 52 % 64 = 0 →
      ∃ t, exec (.stripeMapSet ch pkt) s = .next t ∧ startedIn s t ch c pkt none ∧ aside t = aside s ∧ readsIn s t [(bits (pw pkt 2) 0 52, 128)]) ∧
    (pkOp pkt = 0x8A → bitAt (pw pkt 0) 16 = false → bits (pw pkt 1) 0 52 % 64 = 0 →
      ∃ t, exec (.tallyPlan ch pkt) s = .next t ∧ startedIn s t ch c pkt none ∧ aside t = aside s ∧ readsIn s t [(bits (pw pkt 1) 0 52, 4096)]) ∧
    (pkOp pkt = 0x8C → pkSubop pkt = 0 → msgLen pkt ≤ 16384 →
      ∃ t, exec (.reeveMsgRequest ch pkt) s = .next t ∧ startedIn s t ch c pkt none ∧ aside t = aside s ∧ readsIn s t [(msgAddr pkt, msgLen pkt)]) ∧
    (pkOp pkt = 0x8C → pkSubop pkt = 2 → msgLen pkt ≤ 16384 →
      ∃ t, exec (.reeveMsgPush ch pkt) s = .next t ∧ startedIn s t ch c pkt none ∧ aside t = aside s ∧ readsIn s t [(msgAddr pkt, msgLen pkt)])) ∧
  (∀ (req : Nat) (seen : List (Nat × Byte)) (r : ReadReq) (id : Nat) (c : Cmd) (bs : List Byte) (s u : State), portsLive s = true → s.flt.safe = false →
    read? s req = some r → r.use = .mgmt id → elapsed s r.at_ ≤ usUnits → cmd? s id = some c → c.phase = .mgmt →
    bs = readBytes (otherWrites r seen s) r → u = dropRead r (otherWrites r seen s) →
    (pkOp c.pkt = 0x84 → ∀ es : List (BitVec 128), es = (chunks 16 (bits (pw c.pkt 1) 16 10) bs).map (fun b => BitVec.ofNat 128 (ofLE b)) →
      ((∃ i, i < es.length ∧ routeOk u (bits (pw c.pkt 1) 0 9 + i) (es.getD i 0) = false) →
        ∃ t, exec (.mempReadResponse req seen) s = .next (settleWaits t) ∧ over_ t id stBadCommand ∧ t.route = s.route) ∧
      ((∀ i, i < es.length → routeOk u (bits (pw c.pkt 1) 0 9 + i) (es.getD i 0) = true) →
        ∃ t, exec (.mempReadResponse req seen) s = .next (settleWaits t) ∧ over_ t id stOk ∧
          (∀ i, i < es.length → Tab.get 0 (bankOf t (bitAt (pw c.pkt 1) 32)) (bits (pw c.pkt 1) 0 9 + i) = es.getD i 0) ∧
          (∀ d, (d < bits (pw c.pkt 1) 0 9 ∨ bits (pw c.pkt 1) 0 9 + es.length ≤ d) →
            Tab.get 0 (bankOf t (bitAt (pw c.pkt 1) 32)) d = Tab.get 0 (bankOf s (bitAt (pw c.pkt 1) 32)) d) ∧
          bankOf t (!bitAt (pw c.pkt 1) 32) = bankOf s (!bitAt (pw c.pkt 1) 32) ∧ t.route.epoch = s.route.epoch ∧ t.route.fences = s.route.fences)) ∧
    (pkOp c.pkt = 0x86 → ∀ named : Bool, named = ((s.route.bank0 ++ s.route.bank1).any fun e =>
        reValid e.2 && reMapEn e.2 && e.1 != (ownId s).toNat && reMapIndex e.2 == bits (pw c.pkt 1) 0 12) →
      (mapOk bs = false → ∃ t, exec (.mempReadResponse req seen) s = .next (settleWaits t) ∧ over_ t id stBadCommand ∧ t.route = s.route) ∧
      (mapOk bs = true → named = true → ∃ t, exec (.mempReadResponse req seen) s = .next (settleWaits t) ∧ over_ t id stBusy ∧ t.route = s.route) ∧
      (mapOk bs = true → named = false → ∃ t, exec (.mempReadResponse req seen) s = .next (settleWaits t) ∧ over_ t id stOk ∧
        t.route = { s.route with maps := Tab.put [] s.route.maps (bits (pw c.pkt 1) 0 12) bs })) ∧
    (pkOp c.pkt = 0x8A → ∀ (ws : List (Nat × Word)) (ok : Bool), ws = (List.range 512).map (fun i => (i, (bytesWords 512 bs).getD i 0)) →
      ok = ((ws.all fun x => planOk u x.1 x.2) &&
        decide ((ws.map fun x => if planPlanned x.2 then planGrant x.2 else 0).foldl (· + ·) 0 ≤ barnLines)) →
      (ok = false → ∃ t, exec (.mempReadResponse req seen) s = .next (settleWaits t) ∧ over_ t id stBadCommand ∧ t.tal.plan = s.tal.plan) ∧
      (ok = true → ∃ t, exec (.mempReadResponse req seen) s = .next (settleWaits t) ∧ over_ t id stOk ∧
        t.tal.plan = ws.filter (fun x => x.2 != 0) ∧ (∃ y, cmd? t id = some y ∧ y.result = BitVec.ofNat 64 (defaultGrant t)))) ∧
    (pkOp c.pkt = 0x49 → ∀ own : Bool, own = (((traceChans c.pkt).zip (bytesWords (traceChans c.pkt).length bs)).all fun x => channelOf u x.1 x.2 == some c.q) →
      (own = false → ∃ t, exec (.mempReadResponse req seen) s = .next (settleWaits t) ∧ over_ t id stBadCommand ∧ t.par = s.par) ∧
      (own = true → ∃ t, exec (.mempReadResponse req seen) s = .next (settleWaits t) ∧ over_ t id stOk ∧
        parish t c.q.toNat = { parish s c.q.toNat with
          traceOn := bitAt (pw c.pkt 0) 16, tracePeriod := (pw c.pkt 1).extractLsb' 0 5, traceFirst := (pw c.pkt 2).extractLsb' 0 21
          traceCount := (pw c.pkt 3).extractLsb' 0 7, traceLast := [] })) ∧
    (pkOp c.pkt = 0x8C → pkSubop c.pkt = 0 → ∃ t n, exec (.mempReadResponse req seen) s = .next (settleWaits t) ∧
      (∃ y, cmd? t id = some y ∧ y.phase = .mgmt ∧ y.status = stOk ∧ y.result = BitVec.ofNat 64 n) ∧
      0 < n ∧ n ≤ 16384 ∧ (∃ w ∈ t.memp.writes, w.use = .mgmt id ∧ w.cells.map (fun x => x.1) = (List.range n).map (msgAddr c.pkt + ·)) ∧
      t.ree = (asResponder bs u).1.ree) ∧
    (pkOp c.pkt = 0x8C → pkSubop c.pkt = 2 → ∃ t, exec (.mempReadResponse req seen) s = .next (settleWaits t) ∧ over_ t id stOk ∧
      t.ree = (asRequester bs u).ree))

/-- ROUTE_COMMIT makes the other bank the active one at once, and the settle time of the one left starts on comparator 0; PLANE_DRAIN sets the operator's
drain bit of its plane, and ends where nothing on the plane is outstanding and waits where something is; UNDRAIN clears the bit and ends (R171, R172, R179).
FENCE sets the bits of its fence entry and ends, with OK where nothing is in flight that it stops; UNFENCE clears those that Reeve has not set and ends. Reeve's own set and clear any bit,
with a note (R181, R339, R341).
Log entries 108, 137 and 182: the model's choices where the rules leave one. -/
def Obligations.RoutesAndFencesAreSet : Prop :=
  (∀ (ch : BitVec 21) (pkt : List Word) (s : State) (c : Chan), starts s ch c pkt →
    (pkOp pkt = 0x85 → systemLevel s = true → (s.route.loaded && !s.route.settled) = false →
      ∃ t, exec (.routeCommit ch pkt) s = .next t ∧ startedIn s t ch c pkt none ∧ endedIn s t stOk 0 ∧
        t.route = { s.route with epoch := !s.route.epoch, loaded := false, settled := false, cursors := [] } ∧
        t.alm = { s.alm with cmps := Tab.put {} s.alm.cmps 0 { compare := later (now s) (settleUnits s), en := true } } ∧ t.pwr = s.pwr ∧ t.otp = s.otp ∧ t.wins = s.wins) ∧
    (pkOp pkt = 0x87 → bitAt (pw pkt 0) 16 = false → hasLink s (bits (pw pkt 1) 0 7) = true →
      ∃ t, exec (.planeDrain ch pkt) s = .next t ∧ startedIn s t ch c pkt none ∧ (waitsIn s t ∨ endedIn s t stOk 0) ∧
        (s.route.drains = [] → if planeBusy s (bits (pw pkt 1) 0 7) then waitsIn s t else endedIn s t stOk 0) ∧
        t.route.drain = setBit s.route.drain (bits (pw pkt 1) 0 7) true ∧ t.route.fences = s.route.fences ∧ t.route.epoch = s.route.epoch ∧
        t.route.bank0 = s.route.bank0 ∧ t.route.bank1 = s.route.bank1) ∧
    (pkOp pkt = 0x87 → bitAt (pw pkt 0) 16 = true → hasLink s (bits (pw pkt 1) 0 7) = true →
      ∃ t, exec (.planeUndrain ch pkt) s = .next t ∧ startedIn s t ch c pkt none ∧ endedIn s t stOk 0 ∧
        t.route = (withRoute { s.route with drain := setBit s.route.drain (bits (pw pkt 1) 0 7) false } s).route)) ∧
  ((∀ (ch : BitVec 21) (pkt : List Word) (s : State) (c : Chan), starts s ch c pkt →
    (pkOp pkt = 0x88 → ∃ t, exec (.fence (.ring ch pkt)) s = .next t ∧ (∃ x, cmd? t s.eng.nextId = some x ∧ x.phase = .done) ∧
        (toStill (kept t) = toStill (kept s)) ∧
        (((pw pkt 1).extractLsb' 0 9 = ownId s ∨
            (s.eng.cmds = [] ∧ s.tx.units = [] ∧ s.brn.arrivals = [] ∧ s.sig.ents = [] ∧ s.sig.ops = [] ∧ s.groups = [])) →
          endedIn s t stOk 0 ∧ startedIn s t ch c pkt none) ∧
        t.route.fences = Tab.put {} s.route.fences (bits (pw pkt 1) 0 9) { fence s (bits (pw pkt 1) 0 9) with
          device := (fence s (bits (pw pkt 1) 0 9)).device || bitAt (pw pkt 0) 16
          parishes := (fence s (bits (pw pkt 1) 0 9)).parishes ||| pw pkt 2 }) ∧
    (pkOp pkt = 0x89 → ∃ t, exec (.unfence (.ring ch pkt)) s = .next t ∧ startedIn s t ch c pkt none ∧ endedIn s t stOk 0 ∧
        aside t = { aside s with route := { s.route with
          fences := Tab.put {} s.route.fences (bits (pw pkt 1) 0 9) { fence s (bits (pw pkt 1) 0 9) with
            device := (fence s (bits (pw pkt 1) 0 9)).device && (!(bitAt (pw pkt 0) 16) || (fence s (bits (pw pkt 1) 0 9)).reeveDevice)
            parishes := (fence s (bits (pw pkt 1) 0 9)).parishes &&& ~~~(pw pkt 2 &&& ~~~(fence s (bits (pw pkt 1) 0 9)).reeveParishes) } } })) ∧
  (∀ (w m : Word) (s : State), running s = true →
    (∃ t, exec (.fence (.reeve w m)) s = .next t ∧ toStill (kept t) = toStill (kept s) ∧
      t.route.fences = Tab.put {} s.route.fences (bits w 0 9)
        { device := (fence s (bits w 0 9)).device || bitAt w 9, parishes := (fence s (bits w 0 9)).parishes ||| m
          reeveDevice := (fence s (bits w 0 9)).reeveDevice || bitAt w 9, reeveParishes := (fence s (bits w 0 9)).reeveParishes ||| m } ∧
      ∃ n, t.ree.notes.getLast? = some n ∧ n.w2 = m) ∧
    (∃ t, exec (.unfence (.reeve w m)) s = .next t ∧ kept t = kept s ∧
      t.route = { s.route with fences := (Tab.put {} s.route.fences (bits w 0 9)
                    { device := (fence s (bits w 0 9)).device && !(bitAt w 9), parishes := (fence s (bits w 0 9)).parishes &&& ~~~m
                      reeveDevice := (fence s (bits w 0 9)).reeveDevice && !(bitAt w 9), reeveParishes := (fence s (bits w 0 9)).reeveParishes &&& ~~~m }) } ∧
      ∃ n, t.ree.notes.getLast? = some n ∧ n.w2 = m)))

/-- TALLY_PLAN CLEAR forgets the plan and answers the default grant; TIME_SET, on the master, sets the time and answers the old one;
POWER_SET sets the power state, ACTIVE wakes the links in LPI, PARK arms comparator 4 and asks every joined link to park, and ACTIVE or IDLE in a
block PARKED and not yet gated wake it; CURFEW arms the stop, on comparator 1, and answers its time (R227, R240, R373, R376, R378, R379, R429).
Log entries 93 and 181: the model's choice where the rules leave one. -/
def Obligations.WholeBlockCommandsTakeEffect : Prop :=
  ∀ (ch : BitVec 21) (pkt : List Word) (s : State) (c : Chan), starts s ch c pkt →
    (pkOp pkt = 0x8A → bitAt (pw pkt 0) 16 = true → pw pkt 1 = 0 →
      ∃ t, exec (.tallyPlanClear ch pkt) s = .next t ∧ startedIn s t ch c pkt none ∧ endedIn s t stOk (BitVec.ofNat 64 (defaultGrant t)) ∧ t.tal.plan = []) ∧
    (pkOp pkt = 0x8D → isMaster s = true → (earlier (pw pkt 1) (now s) = false ∨ s.route.linkUp = 0) →
      ∃ t, exec (.timeSet ch pkt) s = .next t ∧ endedIn s t stOk (now s) ∧ aside t = { aside s with alm := { s.alm with now := pw pkt 1, frac := 0 } } ∧
        headPast t ch c pkt) ∧
    (pkOp pkt = 0x8E → pkSubop pkt % 4 < 2 → pw pkt 1 = 0 →
      ∃ t, exec (.powerSet ch pkt) s = .next t ∧ startedIn s t ch c pkt none ∧ endedIn s t stOk 0 ∧
        t.pwr = (if s.pwr.state = .parked then
            { s.pwr with state := if pkSubop pkt % 4 = 0 then .active else .idle, gated := false, coreAt := some (now s) }
          else { s.pwr with state := if pkSubop pkt % 4 = 0 then .active else .idle }) ∧ t.alm = s.alm ∧
        (pkSubop pkt % 4 = 0 → s.pwr.state ≠ .parked → ∀ p, (link s p).state = .lpi → (link t p).lpiWake.isSome = true) ∧
        (pkSubop pkt % 4 = 1 → s.pwr.state ≠ .parked →
          aside t = { aside s with pwr := { s.pwr with state := .idle } })) ∧
    (pkOp pkt = 0x8E → pkSubop pkt % 4 = 2 → mayPark s s.eng.nextId = true →
      ∃ t, exec (.powerSet ch pkt) s = .next t ∧ startedIn s t ch c pkt none ∧ endedIn s t stOk 0 ∧
        t.pwr = { s.pwr with before := if s.pwr.state = .parked then s.pwr.before else s.pwr.state, state := .parked } ∧
        t.alm = { s.alm with cmps := Tab.put {} s.alm.cmps 4 (if pw pkt 1 = 0 then { Tab.get {} s.alm.cmps 4 with en := false } else { compare := pw pkt 1, en := true }) } ∧
        (∀ p, (s.lnk.links.any fun e => e.1 == p && e.2.joined && !e.2.parkReq) = true → memb t.route.parkDrain p = true ∨ 96 ≤ p)) ∧
    (pkOp pkt = 0x94 → (s.cur.state = .idle ∨ s.cur.state = .armed) → (pw pkt 1 = 0 ∨ earlier (pw pkt 1) (later (now s) (curLead s (pkSubop pkt % 2 == 1))) = false) →
      ∃ t, exec (.curfew ch pkt) s = .next t ∧ startedIn s t ch c pkt none ∧ endedIn s t stOk t.cur.stopTime ∧ t.cur.state = .armed ∧
        (s.cur.state = .idle → t.cur.stopTime = (if pw pkt 1 = 0 then later (now s) (curLead s (pkSubop pkt % 2 == 1)) else pw pkt 1)) ∧
        (s.cur.state = .idle → cmpOf t 1 = { compare := t.cur.stopTime, en := true }) ∧
        deep t = deep s)

/-- KEY_PAIR and its REKEY give Reeve a job for the pair and end; REEVE_MSG PULL writes Reeve's next message into the buffer, and the job goes on, or
is over with SEAL_DONE, or the command ends with 0 where none waits; REEVE_MSG NOTES takes every note, 32 bytes each, and loses none (R347-R349, R351).
A KEY_PAIR job that has not reached step 4 within 10 s fails, and the slot of its key not yet enabled goes; a DRAINING pair slot with
nothing sealed by it in flight, a transaction timeout after it left ACTIVE, is freed (R349, R351).
Log entries 19, 77, 79: the model's choice where the rules leave one. -/
def Obligations.KeyJobsRun : Prop :=
  (∀ (ch : BitVec 21) (pkt : List Word) (s : State) (c : Chan), starts s ch c pkt →
    (∀ (rekey : Bool), pkOp pkt = 0x8B → bitAt (pw pkt 0) 16 = rekey → sealedNow s ((pw pkt 1).extractLsb' 16 6) = true →
      reValid (routeEntry s ((pw pkt 1).extractLsb' 0 9)) = true → s.ree.jobs.any (isJob ((pw pkt 1).extractLsb' 16 6) ((pw pkt 1).extractLsb' 0 9)) = false →
      ∃ t, exec (if rekey then .keyPairRekey ch pkt else .keyPair ch pkt) s = .next t ∧ startedIn s t ch c pkt none ∧ endedIn s t stOk 0 ∧
        aside t = { aside s with ree := { s.ree with jobs := s.ree.jobs ++
          [{ parish := (pw pkt 1).extractLsb' 16 6, peer := (pw pkt 1).extractLsb' 0 9, rekey := rekey, start := now s }] } }) ∧
    (pkOp pkt = 0x8C → pkSubop pkt = 1 → s.ree.jobs.any (fun j => j.ready) = false →
      ∃ t, exec (.reeveMsgPull ch pkt) s = .next t ∧ startedIn s t ch c pkt none ∧ endedIn s t stOk 0 ∧ aside t = aside s) ∧
    (∀ j, pkOp pkt = 0x8C → pkSubop pkt = 1 → s.ree.jobs.find? (fun j => j.ready) = some j →
      ∃ t, exec (.reeveMsgPull ch pkt) s = .next t ∧ startedIn s t ch c pkt none ∧
        (∃ n, 3 ≤ n ∧ n ≤ 16384 ∧ writesIn s t stOk (BitVec.ofNat 64 n)) ∧
        t.ree.jobs = (if j.step = 4 then s.ree.jobs.filter (fun k => !(isJob j.parish j.peer k))
          else modFirst (isJob j.parish j.peer) (fun k => { k with ready := false, step := if k.step = 2 then 3 else k.step }) s.ree.jobs)) ∧
    (pkOp pkt = 0x8C → pkSubop pkt = 3 →
      ∃ t, exec (.reeveMsgNotes ch pkt) s = .next t ∧ startedIn s t ch c pkt none ∧
        (if s.ree.notes = [] then endedIn s t stOk 0 else writesIn s t stOk (BitVec.ofNat 64 (32 * s.ree.notes.length))) ∧
        aside t = { aside s with ree := { s.ree with notes := [], noteLost := false } })) ∧
  ((∀ (q : BitVec 6) (d : BitVec 9) (s : State) (j : KeyJob), stoppedByCurfew s = false → s.ree.jobs.find? (isJob q d) = some j → j.step < 4 → reached s (later j.start keyLimit) = true →
    ∃ t, exec (.keyPairTimeout q d) s = .next t ∧ t.ree.jobs = s.ree.jobs.filter (fun k => !(isJob q d k)) ∧
      (∃ n, t.ree.notes.getLast? = some n ∧ n.w3 = now s) ∧
      (∀ e ∈ t.ree.slots, ¬(e.2.state = .receive ∧ e.2.parish = q ∧ e.2.peer = d)) ∧ kept t = kept s ∧ deep t = deep s) ∧
  (∀ (n : BitVec 12) (s : State), stoppedByCurfew s = false → (slot s n.toNat).state = .draining → slotQuiet s (slot s n.toNat) = true →
    reached s (slot s n.toNat).due = true →
    ∃ t, exec (.pairSlotDrainEnd n) s = .next t ∧ t.ree.slots = Tab.put {} s.ree.slots n.toNat {} ∧ kept t = kept s ∧ deep t = deep s))

/-- APERTURE_SET enables an aperture and ends; it disables one and ends once no access uses it. HANG_REPORT writes its report, as Steward
lays out the state in which the command has started, into the buffer, or ends with 0 where the report is empty; it keeps within its buffer, a SNAPSHOT
within 2 MiB (R146, R435, R436). The report's layout, and with it its length, is log entry 105's choice. -/
def Obligations.ApertureSetAndHangReport : Prop :=
  ∀ (ch : BitVec 21) (pkt : List Word) (s : State) (c : Chan), starts s ch c pkt →
    (pkOp pkt = 0x92 → apOk s (bits (pw pkt 5) 16 12) (apOf pkt) = true → (apOf pkt).enabled = true →
      ∃ t, exec (.apertureSet ch pkt) s = .next t ∧ startedIn s t ch c pkt none ∧ endedIn s t stOk 0 ∧
        aside t = { aside s with dap := { s.dap with aps := Tab.put {} s.dap.aps (bits (pw pkt 5) 16 12) (apOf pkt) } }) ∧
    (pkOp pkt = 0x92 → apOk s (bits (pw pkt 5) 16 12) (apOf pkt) = true → (apOf pkt).enabled = false →
      ∃ t, exec (.apertureSet ch pkt) s = .next t ∧ startedIn s t ch c pkt none ∧ t.dap.aps = Tab.put {} s.dap.aps (bits (pw pkt 5) 16 12) {} ∧
        (if s.dap.accs.any (fun x => x.aperture == BitVec.ofNat 12 (bits (pw pkt 5) 16 12)) then waitsIn s t else endedIn s t stOk 0)) ∧
    (∀ (snapshot : Bool), pkOp pkt = 0x95 → bitAt (pw pkt 0) 16 = snapshot → s.cur.state = .idle → bits (pw pkt 1) 0 52 % 4096 = 0 → bits (pw pkt 2) 0 32 % 4096 = 0 →
      ∃ t, exec (if snapshot then .hangReportSnapshot ch pkt else .hangReportGraph ch pkt) s = .next t ∧ startedIn s t ch c pkt none ∧
        ∀ bs, bs = hangBytes snapshot (bits (pw pkt 2) 0 32) (begin_ ch pkt none false s) →
          bs.length ≤ bits (pw pkt 2) 0 32 ∧ (snapshot = true → bs.length ≤ 2097152) ∧
          (bs = [] → endedIn s t stOk 0) ∧
          (bs ≠ [] → writesIn s t stOk (BitVec.ofNat 64 bs.length) ∧
            ∃ w ∈ t.memp.writes, w.use = .mgmt s.eng.nextId ∧ w.cells = cellsAt (bits (pw pkt 1) 0 52) bs))

/-! ## Invalidations, fault records, parishes -/

/-- TER_INVALIDATE, with nothing that the range is translated for, takes the range's entries out of the range cache and waits for the agents;
each agent that has no access of the range outstanding acknowledges once, and the last acknowledgement ends the command with the number of
entries removed; 4 µs after the start a late agent is reported, once (R162-R164).
TER_RESOLVE of a record that is not open changes nothing and answers 0. RETRY closes its record and takes the record's granule out of the
range cache; ABORT closes it and fails its requester with XLATE_ABORTED and the record's number, and so does the timeout, which raises
TER_TIMEOUT; the answer is the number of requesters (R158, R159).
Log entries 17, 22: the model's choice where the rules leave one. -/
def Obligations.TerrierEventsEnd : Prop :=
  ((∀ (ch : BitVec 21) (pkt : List Word) (s : State) (c : Chan) (q : BitVec 6) (lo hi : Nat), starts s ch c pkt → pkOp pkt = 0x90 → invalOk pkt = true →
      q = (pw pkt 3).extractLsb' 0 6 → lo = (if bitAt (pw pkt 0) 16 then 0 else bits (pw pkt 1) 0 57) →
      hi = (if bitAt (pw pkt 0) 16 then 2 ^ 57 else lo + bits (pw pkt 2) 0 57) → (∀ x ∈ s.eng.cmds, x.parish ≠ some q) → s.brn.arrivals = [] → s.sig.ents = [] →
      ∃ t, exec (.terInvalidate ch pkt) s = .next t ∧ startedIn s t ch c pkt none ∧ waitsIn s t ∧
        t.ter.cache = s.ter.cache.filter (fun e => !(e.parish == q && decide (e.va < hi) && decide (lo < e.va + e.len))) ∧
        ∃ m, t.ter.inval = some { cmd := s.eng.nextId, parish := q, lo := lo, hi := hi, start := now s, acked := []
                                  removed := s.ter.cache.length - t.ter.cache.length, mark := m, late := false }) ∧
    (∀ (agent : BitVec 6) (s : State) (v : Inval), running s = true → s.ter.inval = some v → agent.toNat < agentCount → v.acked.contains agent = false → agentBusy s v agent = false →
      (v.acked.length + 1 ≠ agentCount → ∃ t, exec (.invalidateAck agent) s = .next t ∧ kept t = kept s ∧ aside t = aside s ∧
        t.ter = { s.ter with inval := some { v with acked := v.acked ++ [agent] } }) ∧
      (v.acked.length + 1 = agentCount → ∃ t, exec (.invalidateAck agent) s = .next t ∧ kept t = kept s ∧ aside t = aside s ∧ t.ter.inval = none ∧
        ∀ x, cmd? s v.cmd = some x → x.phase ≠ .done →
          ∃ y, cmd? t v.cmd = some y ∧ y.phase = .done ∧ y.status = stOk ∧ y.result = BitVec.ofNat 64 v.removed)) ∧
    (∀ (s : State) (v : Inval), running s = true → s.ter.inval = some v → v.late = false → reached s (later v.start (4 * usUnits)) = true →
      ∃ t, exec .invalidateLate s = .next t ∧ t.ter = { s.ter with inval := some { v with late := true } } ∧ kept t = kept s ∧ aside t = aside s ∧
        ∃ m ∈ t.flt.msgs, m.src = BitVec.ofNat 10 srcTerrier)) ∧
  ((∀ (ch : BitVec 21) (pkt : List Word) (s : State) (c : Chan), starts s ch c pkt → pkOp pkt = 0x91 →
      (∀ (abort : Bool), bitAt (pw pkt 0) 16 = abort → s.ter.recs.any (fun r => r.seq == (pw pkt 1).extractLsb' 0 32) = false →
        ∃ t, exec (if abort then .terResolveAbort ch pkt else .terResolveRetry ch pkt) s = .next t ∧ startedIn s t ch c pkt none ∧ endedIn s t stOk 0 ∧
          aside t = aside s ∧ t.ter.cache = s.ter.cache) ∧
      (∀ r, bitAt (pw pkt 0) 16 = false → s.ter.recs.find? (fun r => r.seq == (pw pkt 1).extractLsb' 0 32) = some r → r.waiters = [] → s.ter.noRec = [] →
        ∃ t, exec (.terResolveRetry ch pkt) s = .next t ∧ startedIn s t ch c pkt none ∧ endedIn s t stOk 0 ∧ aside t = aside s ∧
          (∀ x ∈ t.ter.recs, x.seq ≠ r.seq) ∧
          t.ter.cache = s.ter.cache.filter (fun e => !(e.parish == r.parish && decide (e.va < (r.granule + 1) * 2 ^ 21) && decide (r.granule * 2 ^ 21 < e.va + e.len)))) ∧
      (∀ r id x, bitAt (pw pkt 0) 16 = true → s.ter.recs.find? (fun r => r.seq == (pw pkt 1).extractLsb' 0 32) = some r → r.waiters = [.cmd id] →
        s.ter.noRec = [] → cmd? s id = some x → x.phase = .parked → x.admitted = false → x.targets = [] → ownWrites s id = false →
        (∀ a ∈ s.brn.arrivals, a.cmd ≠ some id) →
        ∃ t, exec (.terResolveAbort ch pkt) s = .next t ∧ startedIn s t ch c pkt none ∧ endedIn s t stOk 1 ∧ (∀ x ∈ t.ter.recs, x.seq ≠ r.seq) ∧
          ∃ y, cmd? t id = some y ∧ y.phase = .done ∧ y.status = stAborted ∧ y.faultSeq = r.seq)) ∧
    (∀ (seq : BitVec 32) (s : State) (r : TerRec) (id : Nat) (x : Cmd), running s = true → s.ter.recs.find? (fun r => r.seq == seq) = some r →
      reached s (later r.time (bits s.gbl.terCtl 32 14 * msUnits)) = true → r.waiters = [.cmd id] → s.ter.noRec = [] →
      cmd? s id = some x → x.phase = .parked → x.admitted = false → x.targets = [] → ownWrites s id = false →
        (∀ a ∈ s.brn.arrivals, a.cmd ≠ some id) →
      ∃ t, exec (.terFaultTimeout seq) s = .next t ∧ kept t = kept s ∧ (∀ x ∈ t.ter.recs, x.seq ≠ seq) ∧
        (∃ y, cmd? t id = some y ∧ y.phase = .done ∧ y.status = stAborted ∧ y.faultSeq = seq) ∧ ∃ m ∈ t.flt.msgs, m.src = BitVec.ofNat 10 srcTerrier))

/-- PARISH_CREATE makes a FREE parish ACTIVE with its tag, its seal and the values R83 gives, and counts the creation; PARISH_SET sets the five
values of an ACTIVE parish. Every other parish stays as it is, but for deficits of one with nothing to start (R83, R84, R335, R336).
PARISH_RETIRE, of a parish that has no open window and no open record, stops its channels, disables its apertures and makes it RETIRING;
when nothing of it is in flight it becomes CLEARING; when its records are posted and its writes acknowledged it is FREE, with every field
of it at its reset value but the bases and controls that the operator wrote (R475), and no channel, pair slot or registered matrix of it is left (R361). -/
def Obligations.ParishesComeAndGo : Prop :=
  (∀ (ch : BitVec 21) (pkt : List Word) (s : State) (c : Chan), starts s ch c pkt →
      (∀ (q : BitVec 6) (tag : BitVec 16), q = (pw pkt 1).extractLsb' 0 6 → tag = (pw pkt 1).extractLsb' 16 16 → pkOp pkt = 0x80 → (parish s q.toNat).state = .free → tag ≠ 0 →
        s.par.any (fun e => e.1 != q.toNat && e.2.state != .free && e.2.tag == tag) = false →
        (bitAt (pw pkt 1) 32 = true → s.part.s = true ∧ s.ree.sealReady = true) →
        ∃ t, exec (.parishCreate ch pkt) s = .next t ∧ startedIn s t ch c pkt none ∧ endedIn s t stOk 0 ∧
          parish t q.toNat = { parish s q.toNat with
            state := .active, tag := tag, sealed := bitAt (pw pkt 1) 32, share := 16, maxPrio := 3, reserve := 0, maxInflight := 256
            windowQuota := 16384, terMode := 0, profiles := [], tabs := [] } ∧
          (∀ p, p ≠ q.toNat → parish t p = parish s p) ∧ t.ree.created = Tab.put 0 s.ree.created q.toNat (Tab.get 0 s.ree.created q.toNat + 1) ∧
          t.route = s.route ∧ t.alm = s.alm) ∧
      (∀ (q : Nat), q = bits (pw pkt 1) 0 6 → pkOp pkt = 0x81 → parishSetOk s q pkt = true →
        ∃ t, exec (.parishSet ch pkt) s = .next t ∧ startedIn s t ch c pkt none ∧ endedIn s t stOk 0 ∧ aside t = aside s ∧
          (∃ d, parish t q = { parish s q with
            deficit := d, share := (pw pkt 2).extractLsb' 40 8, maxPrio := (pw pkt 2).extractLsb' 32 3, reserve := (pw pkt 2).extractLsb' 16 11
            maxInflight := (pw pkt 2).extractLsb' 0 11, windowQuota := (pw pkt 3).extractLsb' 0 21 }) ∧
          (∀ p, p ≠ q → ∃ d, parish t p = { parish s p with deficit := d }))) ∧
  ((∀ (q : BitVec 6) (s : State), (parish s q.toNat).state = .active → (∀ e ∈ s.wins.entries, e.2.parish = q → e.2.state ≠ .opened) →
      (∀ r ∈ s.ter.recs, r.parish ≠ q) →
      (∀ (ch : BitVec 21) (pkt : List Word) (c : Chan), starts s ch c pkt → pkOp pkt = 0x82 → q = (pw pkt 1).extractLsb' 0 6 →
        ∃ t, exec (.parishRetire (.ring ch pkt)) s = .next t ∧ startedIn s t ch c pkt none ∧ endedIn s t stOk 0 ∧
          (parish t q.toNat).state = .retiring ∧ (parish t q.toNat).retireAt = now s ∧
          (∀ k x, k ≠ 0 → chan? s k = some x → x.parish = q → ∃ y, chan? t k = some y ∧ y.state = .stopped) ∧
          (∀ e ∈ t.dap.aps, e.2.parish = q → e.2.enabled = false) ∧ t.ree.sealMap.getLsbD q.toNat = (parish s q.toNat).sealed) ∧
      (∀ (w m : Word), running s = true → q = w.extractLsb' 0 6 →
        ∃ t, exec (.parishRetire (.reeve w m)) s = .next t ∧ kept t = kept s ∧ (parish t q.toNat).state = .retiring ∧ (parish t q.toNat).retireAt = now s ∧
          (∀ k x, k ≠ 0 → chan? s k = some x → x.parish = q → ∃ y, chan? t k = some y ∧ y.state = .stopped))) ∧
    (∀ (q : BitVec 6) (s : State), running s = true → (parish s q.toNat).state = .retiring → quiet s q = true → (∀ a ∈ s.brn.arrivals, a.state ≠ .unit) →
      ∃ t, exec (.parishQuiescent q) s = .next t ∧ kept t = kept s ∧ parish t q.toNat = { parish s q.toNat with state := .clearing } ∧ deep t = deep s) ∧
    (∀ (q : BitVec 6) (s : State), running s = true → (parish s q.toNat).state = .clearing → cleared s q = true →
      ∃ t, exec (.parishCleared q) s = .next t ∧ kept t = kept s ∧
        parish t q.toNat = { notify := { base := (parish s q.toNat).notify.base, ctl := (parish s q.toNat).notify.ctl }
                             terMode := (parish s q.toNat).terMode, terRoot := (parish s q.toNat).terRoot
                             traceBase := (parish s q.toNat).traceBase, traceCtl := (parish s q.toNat).traceCtl } ∧ (∀ p, p ≠ q.toNat → parish t p = parish s p) ∧
        (∀ e ∈ t.chn.chans, e.1 = 0 ∨ e.2.parish ≠ q) ∧ (∀ r ∈ t.mil.regs, r.parish ≠ q) ∧ (∀ e ∈ t.ter.cache, e.parish ≠ q) ∧
        t.ree.sealMap.getLsbD q.toNat = false))

/-- BLOCK_SCRUB, where no window and no record is open, retires every ACTIVE parish and remembers every parish that is not FREE; when they
are FREE again the scrub is over and no signal, range or matrix of a parish that is not ACTIVE is left (R363). -/
def Obligations.BlockScrubClearsTheBlock : Prop :=
  (∀ (s : State), (∀ e ∈ s.wins.entries, e.2.state ≠ .opened) → s.ter.recs = [] → s.stw.scrub = none →
    (∀ (ch : BitVec 21) (pkt : List Word) (c : Chan), starts s ch c pkt → pkOp pkt = 0x83 →
      ∃ t, exec (.blockScrub (.ring ch pkt)) s = .next t ∧ startedIn s t ch c pkt none ∧ endedIn s t stOk 0 ∧
        (∃ m, t.stw.scrub = some (m, false) ∧ ∀ q, q < 64 → m.getLsbD q = decide ((parish s q).state ≠ .free)) ∧
        ∀ q, q < 64 → (parish t q).state ≠ .active) ∧
    (∀ (w m : Word), running s = true →
      ∃ t, exec (.blockScrub (.reeve w m)) s = .next t ∧ kept t = kept s ∧ (∃ m, t.stw.scrub = some (m, true)) ∧
        ∀ q, q < 64 → (parish t q).state ≠ .active)) ∧
  (∀ (s : State) (m : BitVec 64) (own : Bool), running s = true → s.stw.scrub = some (m, own) →
    (∀ q, m.getLsbD q = true → (parish s q).state = .free ∨ (parish s q).state = .active) →
    ∃ t, exec .blockScrubCleared s = .next t ∧ kept t = kept s ∧ t.stw.scrub = none ∧ t.par = s.par ∧
      (∀ e ∈ t.ter.cache, (parish s e.parish.toNat).state = .active) ∧ (∀ e ∈ t.sig.ents, (parish s e.parish.toNat).state = .active) ∧
      (∀ r ∈ t.mil.regs, (parish s r.parish.toNat).state = .active))

/-- SELFTEST REMOVE takes a unit out of service, and it must pass a test again; TEST, of a unit out of service with nothing on it, waits
for the test, whose pass or first failing step ends it; RESTORE puts a unit that has passed back; CALIBRATE asks for the calibration of
each croft of its mask (R448-R450).
Log entries 39, 59: the model's choice where the rules leave one. -/
def Obligations.UnitsAreTested : Prop :=
  (∀ (ch : BitVec 21) (pkt : List Word) (s : State) (c : Chan), starts s ch c pkt →
    (pkOp pkt = 0x96 → testAct pkt = 0 → testBad s pkt = false → (testKind pkt == 0 && lastEngine s (testUnit pkt)) = false →
      (testKind pkt == 2 && (linksOf (testUnit pkt)).any fun p => (link s p).en) = false →
      ∃ t, exec (.selftestRemove ch pkt) s = .next t ∧ startedIn s t ch c pkt none ∧ endedIn s t stOk 0 ∧ aside t = aside s ∧
        (service t (testKind pkt) (testUnit pkt)).removed = true ∧
        (∀ n, n ≠ testUnit pkt → service t (testKind pkt) n = service s (testKind pkt) n) ∧
        ((service s (testKind pkt) (testUnit pkt)).removed = false → (service t (testKind pkt) (testUnit pkt)).passed = false)) ∧
    (pkOp pkt = 0x96 → testAct pkt = 1 → s.stw.test = none → testBad s pkt = false → inService s (testKind pkt) (testUnit pkt) = false →
      (testKind pkt = 0 → engineLoad s (testUnit pkt) = 0) →
      ∃ t, exec (.selftestTest ch pkt) s = .next t ∧ startedIn s t ch c pkt none ∧ waitsIn s t ∧ aside t = aside s ∧
        t.stw = { s.stw with test := some (testKind pkt, testUnit pkt, s.eng.nextId) }) ∧
    (pkOp pkt = 0x96 → testAct pkt = 2 → testBad s pkt = false → (source s (unitSource (testKind pkt) (testUnit pkt))).severe = false →
      (service s (testKind pkt) (testUnit pkt)).passed = true → s.lnk.forcedWait = [] →
      ∃ t, exec (.selftestRestore ch pkt) s = .next t ∧ startedIn s t ch c pkt none ∧ endedIn s t stOk 0 ∧ aside t = aside s ∧
        service t (testKind pkt) (testUnit pkt) = {}) ∧
    (pkOp pkt = 0x97 → pkSubop pkt % 2 = 0 → (∀ k, k < 32 → ((pw pkt 1).extractLsb' 0 32).getLsbD k = true → hasCroft s k = true) →
      ∃ t, exec (.calibrate ch pkt) s = .next t ∧ startedIn s t ch c pkt none ∧ endedIn s t stOk 0 ∧
        (∀ k, k < 32 → ((pw pkt 1).extractLsb' 0 32).getLsbD k = true →
          (croft t k).calPending = some (((croft s k).calPending).getD (now s))) ∧
        (windowFits s = false → t.route = s.route ∧ t.lnk.links = s.lnk.links))) ∧
  (∀ (step : Word) (s : State) (k n id : Nat) (x : Cmd), running s = true → s.stw.test = some (k, n, id) → cmd? s id = some x → x.phase ≠ .done →
    ∃ t, exec (.selftestDone step) s = .next t ∧ kept t = kept s ∧ t.stw.test = none ∧
      (∃ y, cmd? t id = some y ∧ y.phase = .done ∧ y.status = stOk ∧ y.result = step) ∧
      (step ≠ 0 → ∃ m ∈ t.flt.msgs, m.src = BitVec.ofNat 10 (unitSource k n)) ∧
      (step = 0 → k ≠ 1 → (service t k n).passed = true))

/-! ## The front end -/

/-- A TAIL or CPL_HEAD doorbell within its bounds moves TAIL or CPL_HEAD of a held channel and no other word of its ring; PARK takes a channel
that works to PARKING, discards what it has fetched and drops its WAIT; RESUME is remembered while PARKING, and for a channel that
is in no cache entry it waits for the descriptor, whose read goes out (R70, R71, R74, R75, R77). -/
def Obligations.DoorbellsAct : Prop :=
  (∀ (who : Who) (ch : BitVec 21) (c : Chan) (s : State), rings s who ch c →
    (∀ val, c.state ≠ .stopped → tailOk c.ringLog2 c.head c.tail val = true →
      ∃ t, exec (.doorbellTail who ch val) s = .next t ∧ kept t = kept s ∧ aside t = aside s ∧
        ∃ x, chan? t ch = some x ∧ x.tail = val ∧ x.head = c.head ∧ x.cplHead = c.cplHead ∧ x.cplTail = c.cplTail) ∧
    (∀ val, c.state ≠ .stopped → tailOk c.ringLog2 c.head c.tail val = false →
      ∃ t, exec (.doorbellTail who ch val) s = .next t ∧ kept t = kept s ∧ chan? t ch = some c) ∧
    (∀ val, cplHeadOk c.cplHead c.cplTail val = true →
      ∃ t, exec (.doorbellCplHead who ch val) s = .next t ∧ kept t = kept s ∧ aside t = aside s ∧
        ∃ x, chan? t ch = some x ∧ x.cplHead = val ∧ x.head = c.head ∧ x.tail = c.tail ∧ x.cplTail = c.cplTail) ∧
    ((c.state = .idle ∨ c.state = .running ∨ c.state = .blocked) →
      ∃ t, exec (.doorbellPark who ch) s = .next t ∧ kept t = kept s ∧ aside t = aside s ∧ waiter? t ch = none ∧
        ∃ x, chan? t ch = some x ∧ x.state = .parking ∧ x.fetched = c.head ∧ x.head = c.head ∧ x.parkWhy = 1) ∧
    (c.state = .parking →
      ∃ t, exec (.doorbellResume who ch) s = .next t ∧ kept t = kept s ∧ aside t = aside s ∧
        ∃ x, chan? t ch = some x ∧ x.state = .parking ∧ x.resumeHeld = true)) ∧
  (∀ (who : Who) (ch : BitVec 21) (s : State), s.pins.pwrOk = true → s.pins.aonReset = false → s.flt.safe = false → ctrlpOpen s = true → heldAccess s = false →
    ch.toNat < chnCount s → chnEn s = true → s.chn.bells.any (fun x => x.ch == ch) = false →
    (∀ c, chan? s ch = some c → c.cached = false ∧ c.state ≠ .parking ∧ c.state ≠ .stopped) →
    ∃ t, exec (.doorbellResume who ch) s = .next t ∧ kept t = kept s ∧ aside t = aside s ∧
      t.chn = { s.chn with bells := s.chn.bells ++ [{ who := who, ch := ch, action := 3, val := 0 }] } ∧ ∃ r ∈ t.memp.reads, r.use = .desc ch)

/-- A PARKING channel with nothing in flight and every record acknowledged is PARKED: its words 3 to 5 are written back with the reason,
and the controller holds it no more. The next channel of the overflow ring enters the cache when there is room (R75, R80). -/
def Obligations.ChannelsLeaveAndEnter : Prop :=
  (∀ (ch : BitVec 21) (s : State) (c : Chan), running s = true → chan? s ch = some c → parkable s ch c = true → c.resumeHeld = false →
    ∃ t, exec (.channelParked ch) s = .next t ∧ kept t = kept s ∧ aside t = aside s ∧ t.chn = { s.chn with chans := Tab.erase s.chn.chans ch.toNat } ∧
      ∃ w ∈ t.memp.writes, w.use = .park (ownerOf ch c.parish) ch c.head c.parkWhy (c.parkWhy != 1 && c.parkWhy != 2) ∧
        w.cells = cellsAt (descAddr s ch + 24) (wordsBytes (chanWords { c with state := .parked, parkReason := c.parkWhy, blockCause := 0, recNext := c.cplTail }))) ∧
  (∀ (s : State) (ch : BitVec 21) (rest : List (BitVec 21)) (c : Chan), running s = true → s.chn.ovf = ch :: rest → chan? s ch = some c →
    (ch = 0 ∨ (parish s c.parish.toNat).state = .active) → cachedCount s < 16384 →
    ∃ t, exec .overflowDequeue s = .next t ∧ kept t = kept s ∧ aside t = aside s ∧ t.chn.ovf = rest ∧
      ∃ x, chan? t ch = some x ∧ x.cached = true ∧ x.ovfQueued = false ∧ x.head = c.head ∧ x.tail = c.tail)

/-- RECORD_POST writes the record of the channel's oldest command, complete and with no fault message pending, at its index of the completion
ring, the command leaves and CPL_TAIL moves on; WAIT_REEVALUATE reads the word again once it is due; TAG_GRANT gives the command
at the head of the queue the lowest free tag, and with its last tag the command starts to issue (R35, R87, R110, R132).
Log entries 12, 32: the model's choice where the rules leave one. -/
def Obligations.RecordsWaitsTags : Prop :=
  (∀ (ch : BitVec 21) (s : State) (k : Cmd) (c : Chan), running s = true → oldest s ch = some k → chan? s ch = some c → k.phase = .done →
    s.flt.msgs.any (fun m => m.cmds.contains k.id) = false → s.route.drains = [] → s.mil.clears = [] → calm s →
    (∀ n, n < 8 → (stone s n).work = none) →
    (∀ x ∈ s.eng.cmds, x.op.toNat = opXform → x.phase ≠ .done → canForm s 1 (bits (pw x.pkt 6) 0 3) = true) →
    ∃ t, exec (.recordPost ch) s = .next t ∧ t.eng.cmds = s.eng.cmds.filter (fun x => x.id != k.id) ∧ toStill (kept t) = toStill (kept s) ∧
      (∃ x, chan? t ch = some x ∧ x.cplTail = c.cplTail + 1 ∧ x.head = c.head) ∧
      ∃ w ∈ t.memp.writes, (∃ wants, w.use = .record (ownerOf ch c.parish) ch k.ringIx k.status wants) ∧
        w.cells = cellsAt (c.cplBase.toNat + 32 * (k.recIx.toNat % 2 ^ c.cplLog2.toNat)) (wordsBytes (recordWords k c.cplLog2.toNat))) ∧
  (∀ (ch : BitVec 21) (s : State) (w : Waiter) (pa : BitVec 52), running s = true → waiter? s ch = some w → reached s w.due = true → w.reading = false → w.pa = some pa →
    joined s (.wait w.ch) = [] → waitsRecord s (.wait w.ch) = false →
    ∃ t, exec (.waitReevaluate ch) s = .next t ∧ kept t = kept s ∧ deep t = deep s ∧ (∃ x, waiter? t ch = some x ∧ x.reading = true ∧ x.mask = w.mask ∧ x.val = w.val) ∧
      ∃ r ∈ t.memp.reads, r.use = .waitWord w.ch ∧ r.parts = [(pa.toNat, 8)]) ∧
  (∀ (s : State) (id n : Nat) (c : Cmd) (d : BitVec 9), running s = true → s.eng.tagWait = [id] → cmd? s id = some c → c.needTags = [d] → freeTag s = some n →
    pkOp c.pkt = opPut → c.phase = .tags → c.redo = false → c.outw = none → s.dap.held = [] → c.reading = false → hasWaiting s id = false → (nextStripe c).isSome = true → s.obs.watches = [] →
    ∃ t, exec .tagGrant s = .next t ∧ kept t = kept s ∧ aside t = aside s ∧ t.eng.tagWait = [] ∧ t.eng.tagsUsed = s.eng.tagsUsed ++ [BitVec.ofNat 16 n] ∧
      (∃ y, cmd? t id = some y ∧ y.phase = .active ∧ y.admitted = true ∧ y.needTags = [] ∧ ∀ g ∈ y.targets, g.dev = d → g.tag = BitVec.ofNat 16 n) ∧
      ∃ r ∈ t.memp.reads, r.use = .source id)

/-! ## Stripes and their answers at the source -/

/-- STRIPE_ISSUE takes the first transaction that waits for a destination: one to the device itself goes to its own ingress; another, once it
has credit and a plane, is charged to its destination's tally and goes out on that plane (R17, R113, R235). -/
def Obligations.StripesAreIssued : Prop :=
  ∀ (d : BitVec 9) (s : State) (u : Xu), waitingFor s d = some u → running s = true → restful s u.use → unit? s u.id = some u →
    (∀ id c, u.use = .cmd id → cmd? s id = some c → pkOp c.pkt = opMput → emptyMembers s c u.dests = []) →
    (u.dests = [ownId s] →
      ∃ t, exec (.stripeIssue d) s = .next t ∧ kept t = kept s ∧ t.tx.locals = s.tx.locals ++ [{ u.txn with dest := ownId s }] ∧
        ∃ v, unit? t u.id = some v ∧ v.charged = true ∧ v.sent = true ∧ v.deadline = later (now s) (effTimeout s)) ∧
    (∀ p, u.dests = [d] → d ≠ ownId s → firstWaiting s u = true → mayCharge s u d = true → unitPlane s u = some p →
      ∃ t, exec (.stripeIssue d) s = .next t ∧ kept t = kept s ∧ (srcTally t d.toNat).sent = (srcTally s d.toNat).sent + BitVec.ofNat 32 u.lines ∧
        t.tx.locals = s.tx.locals ∧ ∃ v, unit? t u.id = some v ∧ v.charged = true ∧ v.plane = p ∧ v.deadline = later (now s) (effTimeout s))

/-- A transaction that has waited for credit, or for its answer, for the effective timeout is given up, and the command that waits for nothing
else ends with TIMEOUT; a response of this device is dropped, and an access of the port is answered with an error (R57, R235).
Log entry 123: the model's choice where the rules leave one. -/
def Obligations.TransactionsTimeOut : Prop :=
  ∀ (n : Nat) (s : State) (u : Xu), running s = true → unit? s n = some u →
    (∀ id c, u.use = .cmd id → waitsFor s id c [u] → c.lost = [] → s.tx.queries = [] → pkSignalled c.pkt = false → u.txn.kind.toNat = kPutData →
      (atCheck s u = true → reached s u.waitEnd = true →
        ∃ t, exec (.creditWaitTimeout n) s = .next t ∧ kept t = kept s ∧ over_ t id stTimeout) ∧
      (u.charged = true → u.await = false → reached s u.deadline = true →
        ∃ t, exec (.txnTimeout n) s = .next t ∧ kept t = kept s ∧ over_ t id stTimeout)) ∧
    (∀ r, u.use = .answer r →
      (atCheck s u = true → reached s u.waitEnd = true →
        ∃ t, exec (.creditWaitTimeout n) s = .next t ∧ t = { s with tx := { s.tx with units := s.tx.units.filter fun v => v.id != n } }) ∧
      (u.charged = true → reached s u.deadline = true →
        ∃ t, exec (.txnTimeout n) s = .next t ∧ t = dropUnits (fun v => v.id == n) s)) ∧
    (∀ a acc, u.use = .dap a → s.dap.accs.find? (fun x => x.id == a) = some acc →
      (atCheck s u = true → reached s u.waitEnd = true →
        ∃ t, exec (.creditWaitTimeout n) s = .next t ∧ kept t = kept s ∧ (∃ r, t.dap.resps = s.dap.resps ++ { pa := acc.pa, error := true, data := [] } :: r ∧ (s.dap.held = [] → r = []))) ∧
      (u.charged = true → reached s u.deadline = true →
        ∃ t, exec (.txnTimeout n) s = .next t ∧ kept t = kept s ∧ (∃ r, t.dap.resps = s.dap.resps ++ { pa := acc.pa, error := true, data := [] } :: r ∧ (s.dap.held = [] → r = []))))

/-- The answer that a command's last item waits for ends the command: ACK and AMO_DONE with OK and its result, REFUSE with the refusal's
status. STORE_DONE returns the port's response. An answer that names nothing outstanding is counted, and raises
SEAL_ANSWER where it is authenticated (R46, R48, R52, R127-R129, R358, R484).
Log entries 20, 174: the model's choice where the rules leave one. -/
def Obligations.AnswersEndItems : Prop :=
  ∀ (via : Via) (a : Txn) (s : State), hears s via a →
    (∀ u id c, itemOf s a = some u → unit? s u.id = some u → u.use = .cmd id → u.owed = [a.src] → u.await = false → waitsFor s id c [u] → c.lost = [] → s.tx.queries = [] →
      pkSignalled c.pkt = false → answerAuthentic s (u.parish.getD 0) u.txn.sealSlot a = true →
      (a.kind.toNat = kAck → ∃ t, exec (.ack via a) s = .next t ∧ kept t = kept s ∧
        ∃ y, cmd? t id = some y ∧ y.phase = .done ∧ y.status = stOk ∧ y.result = resultOf c) ∧
      (a.kind.toNat = kAmoDone → ∃ t, exec (.amoDone via a) s = .next t ∧ kept t = kept s ∧
        ∃ y, cmd? t id = some y ∧ y.phase = .done ∧ y.status = stOk ∧ y.result = resultOf c) ∧
      (a.kind.toNat = kRefuse → ∃ t, exec (.refuse via a) s = .next t ∧ kept t = kept s ∧
        ∃ y, cmd? t id = some y ∧ y.phase = .done ∧ y.status = a.status ∧ y.device = a.src)) ∧
    (∀ u n acc, itemOf s a = some u → u.use = .dap n → s.dap.accs.find? (fun x => x.id == n) = some acc → a.kind.toNat = kStoreDone →
      answerAuthentic s (u.parish.getD 0) u.txn.sealSlot a = true →
      ∃ t, exec (.storeDone via a) s = .next t ∧ kept t = kept s ∧ (∃ r, t.dap.resps = s.dap.resps ++ { pa := acc.pa, error := false, data := [] } :: r ∧ (s.dap.held = [] → r = [])) ∧
        (s.dap.held = [] → t.dap.accs = s.dap.accs.filter (fun x => x.id != n))) ∧
    (itemOf s a = none → a.kind.toNat = kAck →
      ∃ t, exec (.ack via a) s = .next t ∧ kept t = kept s ∧ t.tx.stale = s.tx.stale + 1 ∧ t.tx.units.map (fun u => u.id) = s.tx.units.map (fun u => u.id) ∧
        (s.tx.ghosts = [] → t.tx.units = s.tx.units) ∧
        (a.sealSlot.isSome = true → ∃ m ∈ t.flt.msgs, m.src = BitVec.ofNat 10 (srcPeer a.src.toNat)))

/-- SIGNAL_DONE from the one target of a signalled command that waits for nothing else ends it with OK, and the target's entry is to be
released; QUERY_REPLY settles the command whose signal it concerns: OK where the signal was applied, LINK_DOWN where it was not
(R46, R58, R59, R248).
Log entry 20: the model's choice where the rules leave one. -/
def Obligations.SignalsResolve : Prop :=
  ∀ (via : Via) (a : Txn) (s : State), hears s via a →
    (∀ c x u, a.kind.toNat = kSignalDone → tagOwner s a.src a.tag = some (c, x) → waitsFor s c.id c [u] → c.targets = [x] → x.dev = a.src → x.sig = .sent → x.sigLost = false → x.lost = false →
      c.lost = [] → s.tx.queries = [] → pkSignalled c.pkt = true → u.await = true → u.charged = true → u.owed = [] → u.dests = [a.src] →
      answerAuthentic s c.q (signalSeal s c.id a.src) a = true →
      ∃ t, exec (.signalDone via a) s = .next t ∧ kept t = kept s ∧ over_ t c.id stOk ∧
        (a.src ≠ ownId s → t.tal.releases.any (fun r => r.1 == a.src && r.2.1 == a.tag) = true)) ∧
    (∀ q c x, a.kind.toNat = kQueryReply → s.tx.queries = [q] → q.dev = a.src → q.tag = a.tag → waitsFor s q.cmd c [] → c.targets = [x] → x.dev = a.src → x.sig = .querying →
      x.stopped = false → x.dropped = false → c.lost ≠ [] → pkSignalled c.pkt = true → answerAuthentic s c.q q.auth a = true →
      ∃ t, exec (.queryReply via a) s = .next t ∧ kept t = kept s ∧ (∀ y ∈ t.tx.queries, y.cmd ≠ q.cmd) ∧
        (a.status ≠ 0 → t.tx.queries = []) ∧ over_ t q.cmd (if a.status = 0 then stOk else stLinkDown))

/-- A charged answer lands for the item that waits for it: a GET response's bytes are written to the command's memory, an AMOF's old value
too and is the command's result, a load's data are returned to the core that asked (R52, R116, R127).
Log entry 20: the model's choice where the rules leave one. -/
def Obligations.ResponsesLand : Prop :=
  ∀ (via : Via) (a : Txn) (s : State) (u : Xu), lands s via a → itemOf s a = some u → unit? s u.id = some u → a.sealSlot = none →
    (a.src = ownId s ∨ (fenced s (u.parish.getD 0).toNat a.src.toNat = false ∧ parSealed s (u.parish.getD 0) = false)) → s.obs.watches = [] → s.brn.arrivals = [] →
    (∀ id c, u.use = .cmd id → cmd? s id = some c → c.phase = .active → abortedCmd c = false →
      (a.kind.toNat = kGetResponse → a.coded = false →
        ∃ t, exec (.getResponse via a) s = .next t ∧ kept t = kept s ∧ ∃ w ∈ t.memp.writes, w.use = .commit s.brn.nextId ∧
          w.cells = cellsOver (c.phys (planAt c a.stripe.toNat).pieces) (a.payload.take (txBytes a))) ∧
      (a.kind.toNat = kAmofResult →
        ∃ t, exec (.amofResult via a) s = .next t ∧ kept t = kept s ∧ (∃ y, cmd? t id = some y ∧ y.result = a.oldValue) ∧
          ∃ w ∈ t.memp.writes, w.use = .commit s.brn.nextId ∧ w.cells = cellsOver (c.phys [((pw c.pkt 1).toNat, 8)]) (wordBytes a.oldValue))) ∧
    (∀ n acc, u.use = .dap n → s.dap.accs.find? (fun x => x.id == n) = some acc → a.kind.toNat = kLoadData →
      ∃ t, exec (.loadData via a) s = .next t ∧ kept t = kept s ∧ (∃ r, t.dap.resps = s.dap.resps ++ { pa := acc.pa, error := false, data := a.payload.take (txBytes a) } :: r ∧ (s.dap.held = [] → r = [])))

/-! ## The target side -/

/-- A charged request or stripe of a device that is not fenced whole, which lands while its window's entry is not at hand, enters the Barn, holds its lines and waits there for
the entry, whose read goes out (R144, R182, R232). -/
def Obligations.RequestsEnterTheBarn : Prop :=
  ∀ (via : Via) (x : Txn) (s : State) (mk : Via → Txn → Instr) (k : Nat), lands s via x → x.kind.toNat = k → winEn s = true → (txWindow x).toNat < winCount s →
    fencedWhole s x.src = false → s.wins.cached.contains (txWindow x).toNat = false → (∀ b ∈ s.brn.arrivals, b.state ≠ .window) →
    (mk, k) ∈ [(Instr.putData, kPutData), (Instr.rputSum, kRputSum), (Instr.rputMax, kRputMax), (Instr.rputMin, kRputMin), (Instr.rputWsum, kRputWsum),
               (Instr.getRequest, kGetRequest), (Instr.amoRequest, kAmo), (Instr.amofRequest, kAmof), (Instr.signal, kSignal), (Instr.load, kLoad), (Instr.store, kStore)] →
    ∃ t, exec (mk via x) s = .next t ∧ kept t = kept s ∧ deep t = deep s ∧
      (∃ a, t.brn.arrivals = s.brn.arrivals ++ [a] ∧ a.id = s.brn.nextId ∧ a.txn = x ∧ a.lines = landLines via x ∧ a.state = .window) ∧
      ∃ r ∈ t.memp.reads, r.use = .winEntry s.brn.nextId ∧ r.parts = [(winAddr s (txWindow x).toNat, 64)]

/-- A charged request or stripe that passes its window does what its kind says: PUT_DATA and STORE write their bytes, GET_REQUEST and LOAD
read theirs, a reduce stripe keeps its contribution and reads its target, AMO and AMOF enter the atomic unit, and a SIGNAL is recorded,
answered, and handed over where no stripe is expected (R16, R44, R143, R256, R482, R484, R485). -/
def Obligations.RequestsReachTheirWindow : Prop :=
  ∀ (via : Via) (x : Txn) (s : State) (pa n : Nat), lands s via x → reaches s x pa n →
    (∀ mk k, x.kind.toNat = k → (mk, k) ∈ [(Instr.putData, kPutData), (Instr.store, kStore)] →
      ∃ t, exec (mk via x) s = .next t ∧ kept t = kept s ∧
        ∃ w ∈ t.memp.writes, w.use = .commit s.brn.nextId ∧ w.cells = cellsOver [(pa, n)] (x.payload.take (txBytes x))) ∧
    (∀ mk k, x.kind.toNat = k → (mk, k) ∈ [(Instr.getRequest, kGetRequest), (Instr.load, kLoad)] →
      ∃ t, exec (mk via x) s = .next t ∧ kept t = kept s ∧ ∃ r ∈ t.memp.reads, r.use = .target s.brn.nextId ∧ r.parts = [(pa, n)]) ∧
    (∀ mk k, x.kind.toNat = k → (mk, k) ∈ [(Instr.rputSum, kRputSum), (Instr.rputMax, kRputMax), (Instr.rputMin, kRputMin), (Instr.rputWsum, kRputWsum)] →
      ∃ t, exec (mk via x) s = .next t ∧ kept t = kept s ∧
        (∃ a, arrival? t s.brn.nextId = some a ∧ a.state = .reading ∧ a.data = contribution x.format.toNat (.bytes (x.payload.take (txBytes x)))) ∧
        ∃ r ∈ t.memp.reads, r.use = .target s.brn.nextId ∧ r.parts = [(pa, n)]) ∧
    (∀ mk k, x.kind.toNat = k → (mk, k) ∈ [(Instr.amoRequest, kAmo), (Instr.amofRequest, kAmof)] →
      ∃ t, exec (mk via x) s = .next t ∧ kept t = kept s ∧
        (∃ o ∈ t.sig.ops, o.use = .arrival s.brn.nextId ∧ o.pa = pa ∧ o.width = n ∧ o.subop = x.subop ∧ o.operand = x.operand ∧ o.compare = x.compare) ∧
        ∃ r ∈ t.memp.reads, r.use = .atomic s.sig.nextId) ∧
    (x.kind.toNat = kSignal →
      ∃ t, exec (.signal via x) s = .next t ∧ kept t = kept s ∧
        (∃ e, ent? t x.src x.tag = some e ∧ e.sig = some (x.sigCtl, x.sigValue, x.expected.toNat) ∧
          (if x.expected.toNat = 0 then e.state = .handed ∧ ∃ o ∈ t.sig.ops, o.use = .signal x.src x.tag ∧ o.pa = pa ∧ o.width = 8 else e.state = .pending)) ∧
        (x.src = ownId s → ∃ a ∈ t.tx.locals, a.kind.toNat = kAck ∧ a.tag = x.tag ∧ a.dest = x.src))

/-- A request of the device's own that its window's check refuses is answered REFUSE with the first reason of R128, leaves no line held, and
cancels the entry of its signalled command (R128, R130, R236, R484). -/
def Obligations.RefusalsAreAnswered : Prop :=
  ∀ (x : Txn) (s : State) (mk : Via → Txn → Instr) (k : Nat), lands s .self x → x.kind.toNat = k → x.src = ownId s → x.sealSlot = none → s.brn.arrivals = [] →
    s.wins.cached.contains (txWindow x).toNat = true → windowCheck s x ≠ stOk →
    (mk, k) ∈ [(Instr.putData, kPutData), (Instr.rputSum, kRputSum), (Instr.getRequest, kGetRequest), (Instr.amoRequest, kAmo), (Instr.load, kLoad), (Instr.store, kStore)] →
    ∃ t, exec (mk .self x) s = .next t ∧ kept t = kept s ∧ t.brn.arrivals = [] ∧ t.memp = s.memp ∧
      (∃ a ∈ t.tx.locals, a.kind.toNat = kRefuse ∧ a.status = windowCheck s x ∧ a.tag = x.tag ∧ a.stripe = x.stripe ∧ a.dest = x.src) ∧
      (txData x = true → x.signalled = true → ∃ e, ent? t x.src x.tag = some e ∧ e.state ≠ .pending)

/-- QUERY of an applied signal is answered APPLIED; of one that is not there it is answered NOT_APPLIED, and its entry is CANCELLED from then
on. An entry held for the effective timeout goes, an ORDERED stripe staged so long is answered TIMEOUT, one of the device's own by a REFUSE of its own, and breaks its group, and a
broken group nothing arrives for is freed (R44, R59, R268).
Log entry 40: the model's choice where the rules leave one. -/
def Obligations.SignalsAndGroupsRunOut : Prop :=
  (∀ (x : Txn) (s : State), hears s .self x → x.kind.toNat = kQuery → x.src = ownId s → x.sealSlot = none →
    (∀ e, ent? s x.src x.tag = some e → e.state = .done →
      ∃ t, exec (.query .self x) s = .next t ∧ kept t = kept s ∧ ent? t x.src x.tag = some e ∧ ∃ a ∈ t.tx.locals, a.kind.toNat = kQueryReply ∧ a.status = 0 ∧ a.tag = x.tag) ∧
    (ent? s x.src x.tag = none →
      ∃ t, exec (.query .self x) s = .next t ∧ kept t = kept s ∧ (∃ e, ent? t x.src x.tag = some e ∧ e.state = .cancelled) ∧
        ∃ a ∈ t.tx.locals, a.kind.toNat = kQueryReply ∧ a.status = 1 ∧ a.tag = x.tag)) ∧
  (∀ (src : BitVec 9) (tag : BitVec 16) (s : State) (e : SigEnt), running s = true → ent? s src tag = some e → e.state ≠ .handed → reached s e.holdEnd = true →
    ∃ t, exec (.signalHoldExpiry src tag) s = .next t ∧ kept t = kept s ∧ t.sig = { s.sig with ents := s.sig.ents.filter fun y => !(isEnt src tag y) } ∧
      (e.state = .cancelled → t.flt = s.flt) ∧ (e.state ≠ .cancelled → ∃ m ∈ t.flt.msgs, m.src = BitVec.ofNat 10 (srcPeer src.toNat))) ∧
  (∀ (id : Nat) (s : State) (a : Arrival), running s = true → arrival? s id = some a → a.state = .staged → reached s a.waitEnd = true →
    ∃ t, exec (.orderedStageTimeout id) s = .next t ∧ kept t = kept s ∧ arrival? t id = none ∧
      (∀ g, s.groups.find? (isGroup a.txn) = some g → ∃ h, t.groups.find? (isGroup a.txn) = some h ∧ h.broken = true) ∧
      (a.txn.src = ownId s → a.txn.sealSlot = none →
        ∃ x ∈ t.tx.locals, x.kind.toNat = kRefuse ∧ x.status = stTimeout ∧ x.tag = a.txn.tag ∧ x.stripe = a.txn.stripe ∧ x.dest = a.txn.src)) ∧
  (∀ (w : BitVec 20) (o : BitVec 48) (x : BitVec 40) (s : State) (g : Group), running s = true →
    s.groups.find? (fun g => g.window == w && g.offset == o && g.stripe == x) = some g → g.broken = true → reached s g.freeAt = true →
    (∀ a ∈ s.brn.arrivals, a.state ≠ .group) →
    ∃ t, exec (.orderedBrokenFree w o x) s = .next t ∧ kept t = kept s ∧ t.groups = dropFirst (fun g => g.window == w && g.offset == o && g.stripe == x) s.groups)

/-- An access of a core whose address an aperture covers and allows waits under a tag of its own with the transaction that carries it, LOAD or
STORE, into the aperture's window; in the safe state, and where no aperture covers it, it is answered with an error. A slot of a cancelled
command frees at its time, where no lost command asks for one (R45, R147, R408).
Log entries 12, 117: the model's choice where the rules leave one. -/
def Obligations.CoresReachTheFabric : Prop :=
  (∀ (pa : BitVec 52) (s : State) (n tag : Nat) (a : Aperture), running s = true → apFor s pa.toNat = some (n, a) → destOk s a.dest = true →
    (a.dest ≠ ownId s → fenced s a.parish.toNat a.dest.toNat = false) → s.dap.accs.length < 4096 → s.dap.held = [] → freeTag s = some tag →
    (∀ (size : BitVec 8), dapSizeOk pa.toNat size.toNat = true → a.load = true →
      ∃ t, exec (.dapLoad pa size) s = .next t ∧ kept t = kept s ∧
        t.dap.accs = s.dap.accs ++ [{ id := s.dap.next, aperture := BitVec.ofNat 12 n, dest := a.dest, isStore := false, pa := pa }] ∧
        t.eng.tagsUsed = s.eng.tagsUsed ++ [BitVec.ofNat 16 tag] ∧
        ∃ u ∈ t.tx.units, u.use = .dap s.dap.next ∧ u.charged = false ∧ u.txn.kind.toNat = kLoad ∧ u.txn.window = a.window ∧ u.txn.tag = BitVec.ofNat 16 tag ∧
          u.txn.offset = BitVec.ofNat 48 (a.offset.toNat + (pa.toNat - a.base.toNat)) ∧ u.txn.bytes = BitVec.ofNat 12 (size.toNat - 1)) ∧
    (∀ (data : List Byte), dapSizeOk pa.toNat data.length = true → a.store = true →
      ∃ t, exec (.dapStore pa data) s = .next t ∧ kept t = kept s ∧
        t.dap.accs = s.dap.accs ++ [{ id := s.dap.next, aperture := BitVec.ofNat 12 n, dest := a.dest, isStore := true, pa := pa }] ∧
        ∃ u ∈ t.tx.units, u.use = .dap s.dap.next ∧ u.charged = false ∧ u.txn.kind.toNat = kStore ∧ u.txn.window = a.window ∧ u.txn.payload = data)) ∧
  (∀ (pa : BitVec 52) (size : BitVec 8) (data : List Byte) (s : State), (s.flt.safe = true ∨ (running s = true ∧ apFor s pa.toNat = none ∧ s.dap.held = [] ∧ dapFull s = false)) →
    (∃ t, exec (.dapLoad pa size) s = .next t ∧ kept t = kept s ∧ t.dap = { s.dap with resps := s.dap.resps ++ [{ pa := pa, error := true, data := [] }] } ∧ t.tx = s.tx) ∧
    (∃ t, exec (.dapStore pa data) s = .next t ∧ kept t = kept s ∧ t.dap = { s.dap with resps := s.dap.resps ++ [{ pa := pa, error := true, data := [] }] } ∧ t.tx = s.tx)) ∧
  (∀ (d : BitVec 9) (s : State), running s = true → (∀ c ∈ s.eng.cmds, c.lost = []) → ∃ t, exec (.signalSlotRelease d) s = .next t ∧ kept t = kept s ∧ aside t = aside s ∧
    t.tal.slots = Tab.put {} s.tal.slots d.toNat { sigSlots s d.toNat with cancelled := (sigSlots s d.toNat).cancelled.filter fun x => !(reached s x) })

/-- MEMP_READ_RESPONSE makes the other agents' writes that it saw visible, and ring entries read are fetched; MEMP_WRITE_ACK makes the write
visible, and the stripe whose bytes it wrote is acknowledged only then; MEMP_ERROR_RESPONSE of a write makes any bytes visible and of a read
none, and raises MEMPORT. The image that Reeve reads is with it then; its read's error rejects it, through port 0 (R31, R42, R72, R344, R412, R457,
R458, R484).
Log entries 24, 25, 31, 125, 159, 184: the model's choice where the rules leave one. -/
def Obligations.PortsAnswer : Prop :=
  (∀ (req : Nat) (seen : List (Nat × Byte)) (s : State) (r : ReadReq), portsLive s = true → read? s req = some r →
    (∃ t, exec (.mempReadResponse req seen) s = .next t ∧
      t.mem = Memory.writeAll s.mem (seen.filter fun c => covers r c.1 && !(r.held.any fun h => h.1 == c.1))) ∧
    (∀ ch first count c, r.use = .ring ch first count → s.flt.safe = false → s.route.drains = [] → s.mil.clears = [] → calm s → chan? s ch = some c → c.cached = true →
      c.state = .running → c.ringError = none → c.fetched = first →
      ∃ t, exec (.mempReadResponse req seen) s = .next t ∧ ∃ x, chan? t ch = some x ∧ x.fetched = first + BitVec.ofNat 32 count ∧ x.head = c.head)) ∧
  (∀ (req : Nat) (s : State) (r : ReadReq), portsLive s = true → read? s req = some r → r.use = .image → s.flt.safe = false → s.route.drains = [] → s.mil.clears = [] →
    s.brn.arrivals = [] → s.sig.ents = [] → s.dap.held = [] → s.lnk.forcedWait = [] → (∀ n, n < 8 → (stone s n).work = none) →
    (∃ t, exec (.mempReadResponse req []) s = .next t ∧ t.ree.fwCopied = true ∧ t.ree.fwHead = asMemory ((readBytes s r).take 4096) ∧ t.gbl.stage = s.gbl.stage) ∧
    (∀ pa : BitVec 52, ∃ t, exec (.mempErrorResponse req pa) s = .next t ∧ t.gbl.stage = .failed ∧ t.ree.boot = 3 ∧ t.stw.code = [] ∧ t.stw.data = [] ∧
      ∃ m ∈ t.flt.msgs, m.src = BitVec.ofNat 10 (srcPort 0))) ∧
  (∀ (req : Nat) (s : State) (w : WriteReq), portsLive s = true → write? s req = some w →
    (∃ t, exec (.mempWriteAck req) s = .next t ∧ t.mem = Memory.writeAll s.mem w.cells) ∧
    (w.use = .background → calm s → (∀ n, n < 8 → (stone s n).work = none) → ∃ t, exec (.mempWriteAck req) s = .next t ∧ ∀ x ∈ t.memp.writes, x.id ≠ w.id) ∧
    (∀ id a, w.use = .commit id → s.flt.safe = false → s.route.drains = [] → s.mil.clears = [] → calm s → arrival? s id = some a → a.cmd = none → a.txn.kind.toNat = kPutData →
      a.txn.signalled = false → a.txn.src = ownId s → a.txn.sealSlot = none →
      ∃ t, exec (.mempWriteAck req) s = .next t ∧ arrival? t id = none ∧ ∃ x ∈ t.tx.locals, x.kind.toNat = kAck ∧ x.status = stOk ∧ x.tag = a.txn.tag ∧ x.stripe = a.txn.stripe)) ∧
  (∀ (req : Nat) (pa : BitVec 52) (s : State), portsLive s = true →
    (∀ r ch first count c, read? s req = some r → r.use = .ring ch first count → s.flt.safe = false → s.route.drains = [] → s.mil.clears = [] → calm s → chan? s ch = some c →
      c.state = .running → c.half = false → c.fetched = first → c.head ≠ first →
      ∃ t, exec (.mempErrorResponse req pa) s = .next t ∧ t.mem = s.mem ∧ (∃ x, chan? t ch = some x ∧ x.ringError = some first) ∧
        ∃ m ∈ t.flt.msgs, m.src = BitVec.ofNat 10 (srcPort (readPort s r.use (failedAt pa.toNat (readAddr r) (covers r pa.toNat))))) ∧
    (∀ w, read? s req = none → write? s req = some w → w.use = .background →
      ∃ t, exec (.mempErrorResponse req pa) s = .next t ∧ t.mem = Memory.writeAll s.mem ((w.cells.zip (freeBytes s.free w.cells.length)).map fun c => (c.1.1, c.2)) ∧
        ∃ m ∈ t.flt.msgs, m.src = BitVec.ofNat 10 (srcPort (portOf s (failedAt pa.toNat (writeAddr w) (w.cells.any fun c => c.1 == pa.toNat))))))

/-! ## Links -/

/-- FLIT_SEND puts the first ready flit on the lanes: in the safe state IDLE with the ACK frozen; on an UP link with a CTRL message first in
turn, that message as a sequenced flit, numbered and kept until it is acknowledged; with nothing ready, IDLE; while it retrains,
TRAIN, or the LINK_ID that is due, and nothing once its training has stopped; an unparked link calibrates and then trains from DETECT (R188, R202, R203, R210, R224, R225, R408). With the acknowledgement that grants a width or a speed change the
pause begins, and with the one that grants parking the link is parked (R213, R215, R227).
Log entries 80, 83, 87, 99, 156: the model's choice where the rules leave one. -/
def Obligations.FlitsAreSent : Prop :=
  ∀ (l : BitVec 7) (s : State), lanesRun s = true → hasLink s l.toNat = true →
    (s.flt.safe = true → (link s l.toNat).state = .up →
      ∃ t, exec (.flitSend l) s = .next t ∧ kept t = kept s ∧
        link t l.toNat = { ontoLanes false (flitBytes { type := 0, seq := (link s l.toNat).nextSeq } (ackOf (link s l.toNat))) (link s l.toNat) with
          lastFlit := flitBytes { type := 0, seq := (link s l.toNat).nextSeq } (ackOf (link s l.toNat)) }) ∧
    (∀ sub w1 w2 w3 rest, s.flt.safe = false → (link s l.toNat).state = .up → (link s l.toNat).pause = none → (link s l.toNat).parkReq = false →
      (link s l.toNat).parkAgree = false →
      timeDue s (link s l.toNat) = false → (link s l.toNat).nackDue = none → tallyReady s (link s l.toNat) true = false → (link s l.toNat).resend = none →
      (link s l.toNat).curfewq = [] → (link s l.toNat).ctrlq = (sub, w1, w2, w3) :: rest → unacked (link s l.toNat) < replayWindow (link s l.toNat) →
      spillStalls s l.toNat = false → (link s l.toNat).replay.length < 256 →
      ((bitAt w1 8 = true ∨ (sub ≠ 2 ∧ sub ≠ 4 ∧ sub ≠ 6)) →
        ∃ t, exec (.flitSend l) s = .next t ∧ kept t = kept s ∧ (link t l.toNat).nextSeq = (link s l.toNat).nextSeq + 1 ∧ (link t l.toNat).ctrlq = rest ∧
          (link t l.toNat).pause = none ∧
          ∃ f : Flit, f.type = 7 ∧ f.seq = (link s l.toNat).nextSeq ∧ f.body = wordSlots [place sub.toNat 0 8, w1, w2, w3] ∧
            (link t l.toNat).replay = (link s l.toNat).replay ++ [f] ∧ (link t l.toNat).lastFlit = flitBytes f (ackOf (link s l.toNat))) ∧
      (bitAt w1 8 = false → sub = 2 →
        ∃ t, exec (.flitSend l) s = .next t ∧ kept t = kept s ∧ (link t l.toNat).ctrlq = rest ∧ (link t l.toNat).pause = some (.width, now s) ∧
          (link t l.toNat).timer = none ∧ (link t l.toNat).widthTo = some (w1.extractLsb' 0 2)) ∧
      (bitAt w1 8 = false → sub = 4 →
        ∃ t, exec (.flitSend l) s = .next t ∧ kept t = kept s ∧ (link t l.toNat).ctrlq = rest ∧ (link t l.toNat).pause = some (.speed, now s) ∧
          (link t l.toNat).timer = none ∧ (link t l.toNat).speedAck = true) ∧
      (bitAt w1 8 = false → sub = 6 →
        ∃ t, exec (.flitSend l) s = .next t ∧ toStill (kept t) = toStill (kept s) ∧ (link t l.toNat).state = .parked ∧ (link t l.toNat).lanes = 0 ∧
          memb t.route.linkUp l.toNat = false)) ∧
    (s.flt.safe = false → (link s l.toNat).state = .up → (link s l.toNat).pause = none → (link s l.toNat).parkReq = false →
      (link s l.toNat).parkAgree = false →
      timeDue s (link s l.toNat) = false → (link s l.toNat).nackDue = none → tallyReady s (link s l.toNat) true = false →
      tallyReady s (link s l.toNat) false = false → (link s l.toNat).resend = none → newReady s (link s l.toNat) = false →
      ∃ t, exec (.flitSend l) s = .next t ∧ kept t = kept s ∧ (link t l.toNat).nextSeq = (link s l.toNat).nextSeq ∧ (link t l.toNat).replay = (link s l.toNat).replay ∧
        (link t l.toNat).lastFlit = flitBytes { type := 0, seq := (link s l.toNat).nextSeq } (ackOf (link s l.toNat))) ∧
    (s.flt.safe = false → (link s l.toNat).state = .retraining →
      ((link s l.toNat).phase = .stopped → exec (.flitSend l) s = .next s) ∧
      ((link s l.toNat).phase ≠ .stopped → (link s l.toNat).idDue = false →
        ∃ t, exec (.flitSend l) s = .next t ∧ kept t = kept s ∧ t.free = s.free + (if (link s l.toNat).phase = .align then 2 else 1) ∧
          (link t l.toNat).nextSeq = (link s l.toNat).nextSeq ∧ (link t l.toNat).replay = (link s l.toNat).replay) ∧
      ((link s l.toNat).phase ≠ .stopped → (link s l.toNat).idDue = true →
        ∃ t, exec (.flitSend l) s = .next t ∧ kept t = kept s ∧ t.free = s.free ∧ (link t l.toNat).idDue = false ∧
          (link t l.toNat).lastFlit = flitBytes { type := 7, seq := (link s l.toNat).nextSeq, body := wordSlots [8, linkIdWord s l.toNat, 0, 0] } (ackOf (link s l.toNat)) ∧
          (link t l.toNat).nextSeq = (link s l.toNat).nextSeq ∧ (link t l.toNat).replay = (link s l.toNat).replay)) ∧
    (s.flt.safe = false → (link s l.toNat).state = .calibrating → s.gbl.calibrated.getLsbD (l.toNat / 3) = true →
      ∃ t, exec (.flitSend l) s = .next t ∧ kept t = kept s ∧ t.free = s.free + 1 ∧ (link t l.toNat = link s l.toNat ∨
        link t l.toNat = { link s l.toNat with state := .training, phase := .detect, idDue := false, confirmed := false }))

/-- FLIT_RECEIVE of a flit that cannot be corrected, fails its CRC or leaves a gap asks for the one expected, with the cause, once; the one
expected, a CTRL or CURFEW flit, is delivered, and EXPECTED moves on; one that was delivered before is counted and dropped; without a fabric ID one of a type that is not accepted then is counted
and dropped (R187, R204, R205, R226).
Log entry 89: the model's choice where the rules leave one. -/
def Obligations.FlitsAreReceived : Prop :=
  ∀ (l : BitVec 7) (raw : List Byte) (s : State), linkHears s l = true → (link s l.toNat).state = .up → (link s l.toNat).pause = none → raw.length = 256 →
    (link s l.toNat).nackHold = none → s.lnk.forcedWait = [] →
    (rsDecode raw = none →
      ∃ t, exec (.flitReceive l raw) s = .next t ∧ kept t = kept s ∧ (link t l.toNat).nackDue = some ((link s l.toNat).expected, 1) ∧
        (link t l.toNat).nackHold = some ((link s l.toNat).expected, now s) ∧ (link t l.toNat).expected = (link s l.toNat).expected ∧
        ∃ m ∈ t.flt.msgs, m.src = BitVec.ofNat 10 (srcLink l.toNat)) ∧
    (∀ bs, rsDecode raw = some (bs, []) →
      (crcOk bs = false →
        ∃ t, exec (.flitReceive l raw) s = .next t ∧ kept t = kept s ∧ (link t l.toNat).nackDue = some ((link s l.toNat).expected, 2) ∧
          (link t l.toNat).expected = (link s l.toNat).expected) ∧
      (crcOk bs = true → headerBad (headerOf bs) = false → s.gbl.fabricValid = false →
        (bits (headerOf bs) 32 4 = ftData ∨ bits (headerOf bs) 32 4 = ftCurfew ∨ bits (headerOf bs) 32 4 = ftNack ∨ bits (headerOf bs) 32 4 = ftTally) →
        ∃ t, exec (.flitReceive l raw) s = .next t ∧ kept t = kept s ∧ link t l.toNat = { link s l.toNat with discarded := (link s l.toNat).discarded + 1 }) ∧
      (crcOk bs = true → headerBad (headerOf bs) = false → (s.gbl.fabricValid = true ∨ bits (headerOf bs) 32 4 = ftCtrl) →
        (headerOf bs).extractLsb' 16 16 = (link s l.toNat).acked →
        ((ftSequenced (bits (headerOf bs) 32 4) = true → bits (headerOf bs) 32 4 ≠ ftData → bits (headerOf bs) 0 16 = (link s l.toNat).expected.toNat →
          (bits (headerOf bs) 32 4 = ftCtrl → 1 ≤ ((slotOf bs 0).getD 0 0).toNat ∧ ((slotOf bs 0).getD 0 0).toNat ≤ 8) →
          ∃ t, exec (.flitReceive l raw) s = .next t ∧ kept t = kept s ∧ link t l.toNat =
            { link s l.toNat with expected := (link s l.toNat).expected + 1, quietAt := none }) ∧
        (ftSequenced (bits (headerOf bs) 32 4) = true → 32769 ≤ ((headerOf bs).extractLsb' 0 16 - (link s l.toNat).expected).toNat →
          ∃ t, exec (.flitReceive l raw) s = .next t ∧ kept t = kept s ∧ link t l.toNat = { link s l.toNat with duplicates := (link s l.toNat).duplicates + 1 }) ∧
        (ftSequenced (bits (headerOf bs) 32 4) = true → 1 ≤ ((headerOf bs).extractLsb' 0 16 - (link s l.toNat).expected).toNat →
          ((headerOf bs).extractLsb' 0 16 - (link s l.toNat).expected).toNat ≤ 32767 →
          ∃ t, exec (.flitReceive l raw) s = .next t ∧ kept t = kept s ∧ (link t l.toNat).nackDue = some ((link s l.toNat).expected, 3) ∧
            (link t l.toNat).expected = (link s l.toNat).expected))))

/-- NACK frees the copies it acknowledges and sends the rest again from the oldest; so does the replay timer after 4 µs without an
acknowledgement; the NACK holdoff ends after 1 µs (R205, R206). -/
def Obligations.ReplayRewinds : Prop :=
  (∀ (l : BitVec 7) (e : BitVec 16) (s : State), linkHears s l = true → s.gbl.fabricValid = true → (e - 1 - (link s l.toNat).acked).toNat ≤ unacked (link s l.toNat) →
    ∃ t, exec (.nack l e) s = .next t ∧ kept t = kept s ∧ deep t = deep s ∧ (link t l.toNat).acked = e - 1 ∧
      unacked (link t l.toNat) = unacked (link s l.toNat) - (e - 1 - (link s l.toNat).acked).toNat ∧
      (link t l.toNat).resend = (if unacked (link t l.toNat) = 0 then none else some 0) ∧ (link t l.toNat).nextSeq = (link s l.toNat).nextSeq ∧
      (link t l.toNat).expected = (link s l.toNat).expected) ∧
  (∀ (l : BitVec 7) (s : State) (e : BitVec 16) (at_ : Time), running s = true → (link s l.toNat).nackHold = some (e, at_) → reached s (later at_ usUnits) = true →
    exec (.nackHoldoffExpiry l) s = .next (setLink l.toNat { link s l.toNat with nackHold := none } s)) ∧
  (∀ (l : BitVec 7) (s : State) (at_ : Time), running s = true → (link s l.toNat).state = .up → (link s l.toNat).pause = none → 0 < unacked (link s l.toNat) →
    (link s l.toNat).timer = some at_ → reached s (later at_ (4 * usUnits)) = true →
    ∃ t, exec (.replayTimerExpiry l) s = .next t ∧ kept t = kept s ∧ deep t = deep s ∧
      link t l.toNat = { link s l.toNat with resend := some 0, granaryIn := [], timer := some (now s) })

/-- A TRAIN flit, a pause past its limit, and lanes that do not regain lock within 1 µs of a wake, take a link to RETRAINING with its
sequence numbers and copies as they are. More than two retimers stop its training. When the lanes have passed ALIGN the link uses those that it may, owes its LINK_ID and is in CONFIRM;
with the partner's LINK_ID at hand it is UP: it sends its copies again after a retrain or a calibration, and joins with its numbers at their reset values the
first time (R201, R216, R219, R220, R225, R227, R452).
Log entries 82, 83, 86, 127, 156: the model's choice where the rules leave one. -/
def Obligations.LinksTrain : Prop :=
  (∀ (l : BitVec 7) (s : State) (i : Instr),
    ((i = .trainFlit l ∧ linkHears s l = true ∧ (link s l.toNat).pause = none) ∨
     (i = .pauseLimitExpiry l ∧ running s = true ∧ ∃ k at_, (link s l.toNat).pause = some (k, at_) ∧ reached s (later at_ (pauseLimit k)) = true) ∨
     (i = .lpiWakeTimeout l ∧ running s = true ∧ ∃ at_, (link s l.toNat).lpiWake = some at_ ∧ reached s (later at_ usUnits) = true)) →
    ∃ t, exec i s = .next t ∧ kept t = kept s ∧ aside t = { aside s with lnk := t.lnk } ∧ (link t l.toNat).state = .retraining ∧ (link t l.toNat).retrainAt = some (now s) ∧
      (link t l.toNat).pause = none ∧ (link t l.toNat).nextSeq = (link s l.toNat).nextSeq ∧ (link t l.toNat).expected = (link s l.toNat).expected ∧
      (link t l.toNat).replay = (link s l.toNat).replay) ∧
  (∀ (l : BitVec 7) (lanes retimers : BitVec 2) (d0 d1 : BitVec 32) (s : State), running s = true → hasLink s l.toNat = true → (link s l.toNat).miswiredAt = none →
    (link s l.toNat).phase = .align → lanes &&& trainLanes s l.toNat ≠ 0 → s.lnk.forcedWait = [] →
    (2 < retimers.toNat →
      ((link s l.toNat).state = .training →
        ∃ t, exec (.linkTrained l lanes retimers d0 d1) s = .next t ∧ kept t = kept s ∧ link t l.toNat = { link s l.toNat with state := .off } ∧
          ∃ m ∈ t.flt.msgs, m.src = BitVec.ofNat 10 (srcLink l.toNat)) ∧
      ((link s l.toNat).state = .retraining →
        ∃ t, exec (.linkTrained l lanes retimers d0 d1) s = .next t ∧ kept t = kept s ∧ link t l.toNat = { link s l.toNat with phase := .stopped } ∧
          ∃ m ∈ t.flt.msgs, m.src = BitVec.ofNat 10 (srcLink l.toNat))) ∧
    (((link s l.toNat).state = .training ∨ (link s l.toNat).state = .retraining ∨ inPause (link s l.toNat) .calibration = true) →
      retimers.toNat ≤ 2 → (link s l.toNat).confirmed = false →
      ∃ t, exec (.linkTrained l lanes retimers d0 d1) s = .next t ∧ kept t = kept s ∧ link t l.toNat = { link s l.toNat with
        phase := .confirm, idDue := true
        lanes := lanes &&& trainLanes s l.toNat, standby := ~~~(lanes &&& trainLanes s l.toNat)
        lock0 := (lanes &&& trainLanes s l.toNat).getLsbD 0, lock1 := (lanes &&& trainLanes s l.toNat).getLsbD 1
        lost := allowedLanes (link s l.toNat) &&& ~~~lanes, noLock := none
        retimer0 := if 1 ≤ retimers.toNat then retimerWord d0 else 0, retimer1 := if 2 ≤ retimers.toNat then retimerWord d1 else 0 }) ∧
    ((link s l.toNat).state = .retraining → inPause (link s l.toNat) .calibration = false → retimers.toNat ≤ 2 → (link s l.toNat).confirmed = true →
      (link s l.toNat).joined = true →
      ∃ t, exec (.linkTrained l lanes retimers d0 d1) s = .next t ∧ kept t = kept s ∧ (link t l.toNat).state = .up ∧
        (link t l.toNat).lanes = lanes &&& trainLanes s l.toNat ∧ (link t l.toNat).retrainAt = none ∧ (link t l.toNat).nextSeq = (link s l.toNat).nextSeq ∧
        (link t l.toNat).expected = (link s l.toNat).expected ∧ (link t l.toNat).resend = (if unacked (link s l.toNat) = 0 then none else some 0)) ∧
    ((link s l.toNat).state = .up → inPause (link s l.toNat) .calibration = true → retimers.toNat ≤ 2 → (link s l.toNat).confirmed = true →
      ∃ t, exec (.linkTrained l lanes retimers d0 d1) s = .next t ∧ kept t = kept s ∧ (link t l.toNat).state = .up ∧ (link t l.toNat).pause = none ∧
        (link t l.toNat).lanes = lanes &&& trainLanes s l.toNat ∧ (link t l.toNat).resend = (if unacked (link s l.toNat) = 0 then none else some 0)) ∧
    ((link s l.toNat).state = .training → inPause (link s l.toNat) .calibration = false → retimers.toNat ≤ 2 → (link s l.toNat).confirmed = true →
      (link s l.toNat).joined = false → s.gbl.fabricValid = true →
      ∃ t, exec (.linkTrained l lanes retimers d0 d1) s = .next t ∧ kept t = kept s ∧ (link t l.toNat).state = .up ∧ (link t l.toNat).joined = true ∧
        (link t l.toNat).lanes = lanes &&& trainLanes s l.toNat ∧ (link t l.toNat).nextSeq = 0 ∧ (link t l.toNat).expected = 0 ∧
        (link t l.toNat).acked = 0xFFFF ∧ memb t.route.linkUp l.toNat = true))

/-- LINK_ID that names the link's own plane, a switch and its rate, and no other fabric ID than the device's, makes a link in CONFIRM come UP and
join the link-up mask, with its event and with its numbers at their reset values; one that comes before CONFIRM is kept for it; one that names
another plane raises MISWIRED, and the link trains again, which it may do after 100 ms (R201, R225, R226, R444).
Log entries 84, 156: the model's choice where the rules leave one. -/
def Obligations.LinksJoinOrAreMiswired : Prop :=
  (∀ (l : BitVec 7) (w1 : Word) (s : State), linkNames s l.toNat = true → s.gbl.fabricValid = true → (link s l.toNat).joined = false → bits w1 0 7 = l.toNat →
    mismatched s { link s l.toNat with partnerId := some w1 } = false → bitAt w1 14 = true → bitAt w1 (25 + (croft s (l.toNat / 3)).rate.toNat) = true →
    inPause (link s l.toNat) .calibration = false → s.lnk.forcedWait = [] →
    (((link s l.toNat).state = .up ∨ ((link s l.toNat).state = .training ∧ (link s l.toNat).phase = .confirm)) →
      ∃ t, exec (.linkId l w1) s = .next t ∧ kept t = kept s ∧ t.route = (withRoute { s.route with linkUp := setBit s.route.linkUp l.toNat true } s).route ∧
        (link t l.toNat).state = .up ∧ (link t l.toNat).joined = true ∧ (link t l.toNat).partnerId = some w1 ∧ (link t l.toNat).nextSeq = 0 ∧
        (link t l.toNat).expected = 0 ∧ (link t l.toNat).acked = 0xFFFF ∧ (link t l.toNat).lanes = (link s l.toNat).lanes ∧ t.gbl.eventStatus.getLsbD 1 = true) ∧
    (((link s l.toNat).state = .training ∨ (link s l.toNat).state = .retraining) → (link s l.toNat).phase ≠ .confirm →
      ∃ t, exec (.linkId l w1) s = .next t ∧ kept t = kept s ∧ t.route = s.route ∧ link t l.toNat = { link s l.toNat with partnerId := some w1, confirmed := true })) ∧
  (∀ (l : BitVec 7) (w1 : Word) (s : State), linkNames s l.toNat = true → bits w1 0 7 ≠ l.toNat → s.lnk.forcedWait = [] →
    ∃ t, exec (.linkId l w1) s = .next t ∧ toStill (kept t) = toStill (kept s) ∧ t.route.linkUp = setBit s.route.linkUp l.toNat false ∧
      (link t l.toNat).state = .training ∧ (link t l.toNat).miswiredAt = some (now s)) ∧
  (∀ (l : BitVec 7) (s : State) (at_ : Time), (link s l.toNat).miswiredAt = some at_ → running s = true → reached s (later at_ (100 * msUnits)) = true →
    exec (.miswiredRetrain l) s = .next (setLink l.toNat { link s l.toNat with miswiredAt := none } s))

/-- A width change: WIDTH_REQ for lanes that the link may use is granted: lanes to be added go to STANDBY and the acknowledgement is queued, with
which the pause will begin; for others it is refused. WIDTH_ACK to a request of this end begins the pause, or ends the request; done, the link
has the new lanes and goes on (R212, R213, R218).
A speed change: SPEED_REQ for a rate that may be taken is acknowledged and the croft's other links ask for it, for another it is refused; SPEED_ACK to a request of this end begins the
pause, or, refused, ends the change of the croft with a fault; done, the croft has the rate, its PLL has locked, and each of its links in the pause
owes its LINK_ID; the partners' LINK_IDs let traffic resume (R214, R215).
Log entries 85, 156, 178: the model's choice where the rules leave one. -/
def Obligations.LinksChangeWidthAndSpeed : Prop :=
  (∀ (l : BitVec 7) (lanes : BitVec 2) (s : State), s.lnk.forcedWait = [] →
      (linkHears s l = true → (link s l.toNat).pause = none →
        (lanes ≠ 0 → lanes &&& ~~~(laneLimit s l.toNat) = 0 →
          ∃ t, exec (.widthReq l lanes) s = .next t ∧ kept t = kept s ∧ link t l.toNat = { link s l.toNat with
            widthTo := some lanes, standby := (link s l.toNat).standby ||| (lanes &&& ~~~(link s l.toNat).lanes)
            ctrlq := (link s l.toNat).ctrlq ++ [(0x02, place lanes.toNat 0 2, 0, 0)] }) ∧
        ((lanes = 0 ∨ lanes &&& ~~~(laneLimit s l.toNat) ≠ 0) →
          ∃ t, exec (.widthReq l lanes) s = .next t ∧ kept t = kept s ∧ link t l.toNat = { link s l.toNat with
            ctrlq := (link s l.toNat).ctrlq ++ [(0x02, flag true 8 ||| place lanes.toNat 0 2, 0, 0)] }) ∧
        ((link s l.toNat).widthReq.isSome = true → (link s l.toNat).widthTo = none → lanes ≠ 0 →
          ∃ t, exec (.widthAck l lanes false) s = .next t ∧ kept t = kept s ∧ link t l.toNat = { link s l.toNat with
            widthTo := some lanes, pause := some (.width, now s), timer := none, switched := false, phase := .detect, idDue := false, confirmed := false }) ∧
        ((link s l.toNat).widthReq.isSome = true → (link s l.toNat).widthTo = none →
          ∃ t, exec (.widthAck l lanes true) s = .next t ∧ kept t = kept s ∧ link t l.toNat = { link s l.toNat with
            widthReq := none, widthAsked := false, narrow := .none })) ∧
      (running s = true → inPause (link s l.toNat) .width = true → (link s l.toNat).widthTo = some lanes → (link s l.toNat).state = .up →
        ((link s l.toNat).widthReq = none ∨ (link s l.toNat).widthReq = some lanes) →
        ∃ t, exec (.widthChangeDone l) s = .next t ∧ kept t = kept s ∧ (link t l.toNat).lanes = lanes ∧ (link t l.toNat).widthTo = none ∧ (link t l.toNat).pause = none ∧
          (link t l.toNat).widthReq = none ∧ (link t l.toNat).resend = (if unacked (link s l.toNat) = 0 then none else some 0) ∧
          (link t l.toNat).stay = (if (link s l.toNat).widthReq = some lanes ∧ (link s l.toNat).narrow = .health then lanes else (link s l.toNat).stay))) ∧
  (∀ (l : BitVec 7) (rate : BitVec 2) (s : State), s.lnk.forcedWait = [] →
      (linkHears s l = true → (link s l.toNat).pause = none →
        (rate ≠ 3 → maxRate s ≤ rate.toNat → ((croft s (l.toNat / 3)).rateTo = none ∨ (croft s (l.toNat / 3)).rateTo = some rate) →
          ∃ t, exec (.speedReq l rate) s = .next t ∧ kept t = kept s ∧ (croft t (l.toNat / 3)).rateTo = some rate ∧ link t l.toNat = { link s l.toNat with
            speedReq := false, ctrlq := (link s l.toNat).ctrlq ++ [(0x04, place rate.toNat 0 2, 0, 0)] } ∧
            ∀ p ∈ linksOf (l.toNat / 3), p ≠ l.toNat → (link s p).joined = true → linkFree (link s p) = true → (link s p).speedAck = false → (link t p).speedReq = true) ∧
        ((rate = 3 ∨ rate.toNat < maxRate s ∨ ∃ r, (croft s (l.toNat / 3)).rateTo = some r ∧ r ≠ rate) →
          ∃ t, exec (.speedReq l rate) s = .next t ∧ kept t = kept s ∧ croft t (l.toNat / 3) = croft s (l.toNat / 3) ∧ link t l.toNat = { link s l.toNat with
            ctrlq := (link s l.toNat).ctrlq ++ [(0x04, flag true 8 ||| place rate.toNat 0 2, 0, 0)] }) ∧
        ((croft s (l.toNat / 3)).rateTo = some rate → (link s l.toNat).speedReq = true →
          (∃ t, exec (.speedAck l rate false) s = .next t ∧ kept t = kept s ∧ link t l.toNat = { link s l.toNat with
            speedReq := false, speedAck := true, pause := some (.speed, now s), timer := none, switched := false, phase := .detect, idDue := false, confirmed := false }) ∧
          (∃ t, exec (.speedAck l rate true) s = .next t ∧ kept t = kept s ∧ ∃ m ∈ t.flt.msgs, m.src = BitVec.ofNat 10 (srcCroft (l.toNat / 3))))) ∧
      (∀ c : BitVec 5, running s = true → hasCroft s c.toNat = true → (croft s c.toNat).rateTo = some rate →
        (∀ p ∈ linksOf c.toNat, (link s p).joined = false ∨ (link s p).speedAck = true) →
        (∃ p ∈ linksOf c.toNat, inPause (link s p) .speed = true ∧ (link s p).confirmed = false) →
        ∃ t, exec (.speedChangeDone c) s = .next t ∧ kept t = kept s ∧ croft t c.toNat = { croft s c.toNat with rate := rate, rateTo := none, pllLock := true } ∧
          ∀ p ∈ linksOf c.toNat, inPause (link s p) .speed = true → (link t p).phase = .confirm ∧ (link t p).idDue = true ∧ (link t p).speedAck = false)) ∧
  (∀ (l : BitVec 7) (w1 : Word) (s : State), linkNames s l.toNat = true → (link s l.toNat).state = .up → (link s l.toNat).joined = true → s.lnk.forcedWait = [] →
    inPause (link s l.toNat) .speed = true → (link s l.toNat).phase = .confirm →
    (∀ p ∈ linksOf (l.toNat / 3), p ≠ l.toNat → inPause (link s p) .speed = true → confirming (link s p) = true ∧ (link s p).confirmed = true) →
    bits w1 0 7 = l.toNat → mismatched s { link s l.toNat with partnerId := some w1 } = false → bitAt w1 14 = true →
    bitAt w1 (25 + (croft s (l.toNat / 3)).rate.toNat) = true →
    ∃ t, exec (.linkId l w1) s = .next t ∧ kept t = kept s ∧ (link t l.toNat).pause = none ∧
      (link t l.toNat).resend = (if unacked (link s l.toNat) = 0 then none else some 0))

/-- Parking: PARK_REQ makes the link drain, and with nothing left to send or acknowledge its PARK_ACK goes out and parks it; PARK_ACK to this end's request parks the link, out of the
mask, or leaves it. An UP link that has been quiet for 2 µs enters LPI where the power state permits it (R172, R227).
Log entries 85, 180: the model's choice where the rules leave one. -/
def Obligations.LinksParkAndIdle : Prop :=
  ∀ (l : BitVec 7) (s : State),
    (linkHears s l = true → (link s l.toNat).pause = none →
      ∃ t, exec (.parkReq l) s = .next t ∧ kept t = kept s ∧ t.route = (withRoute { s.route with parkDrain := setBit s.route.parkDrain l.toNat true } s).route ∧
        link t l.toNat = { link s l.toNat with parkAgree := true }) ∧
    (lanesRun s = true → hasLink s l.toNat = true → s.flt.safe = false → (link s l.toNat).state = .up → (link s l.toNat).pause = none →
      (link s l.toNat).parkReq = false → (link s l.toNat).parkAgree = true → (link s l.toNat).txq = [] → unacked (link s l.toNat) = 0 →
      planeBusy s l.toNat = false → timeDue s (link s l.toNat) = false → (link s l.toNat).nackDue = none → tallyReady s (link s l.toNat) true = false →
      (link s l.toNat).resend = none → (link s l.toNat).curfewq = [] → (link s l.toNat).ctrlq = [] → spillStalls s l.toNat = false → (link s l.toNat).replay = [] →
      ∃ t, exec (.flitSend l) s = .next t ∧ toStill (kept t) = toStill (kept s) ∧ (link t l.toNat).state = .parked ∧ memb t.route.linkUp l.toNat = false) ∧
    (linkHears s l = true → (link s l.toNat).parkSent = true →
      (∃ t, exec (.parkAck l false) s = .next t ∧ toStill (kept t) = toStill (kept s) ∧
        t.route = (withRoute { s.route with linkUp := setBit s.route.linkUp l.toNat false, parkDrain := setBit s.route.parkDrain l.toNat false } s).route ∧
        (link t l.toNat).state = .parked ∧ (link t l.toNat).lanes = 0) ∧
      (∃ t, exec (.parkAck l true) s = .next t ∧ kept t = kept s ∧ t.route = (withRoute { s.route with parkDrain := setBit s.route.parkDrain l.toNat false } s).route ∧
        link t l.toNat = { link s l.toNat with parkReq := false, parkSent := false })) ∧
    (∀ at_, running s = true → s.pwr.state = .idle → (link s l.toNat).state = .up → (link s l.toNat).pause = none → (link s l.toNat).quietAt = some at_ →
      reached s (later at_ (2 * usUnits)) = true → unacked (link s l.toNat) = 0 → (link s l.toNat).txq = [] → (link s l.toNat).ctrlq = [] → (link s l.toNat).curfewq = [] →
      (link s l.toNat).nackDue = none →
      exec (.lpiEnter l) s = .next (setLink l.toNat { link s l.toNat with state := .lpi, lpiWake := none, quietAt := none } s))

/-- PLANE_NOTICE takes the plane out of the entries it names, in both banks; a link that has lost every lane it uses retrains from then on, and
past DOWN_TIME it is declared down: it leaves the link-up mask and trains again; a croft's PLL out of lock is a fault (R177, R189,
R217, R219, R221, R396).
Log entry 82: the model's choice where the rules leave one. -/
def Obligations.PlanesAreLost : Prop :=
  (∀ (l p : BitVec 7) (racks : BitVec 8) (slots : BitVec 64) (s : State), linkHears s l = true → hasLink s p.toNat = true →
    ∃ t, exec (.planeNotice l p racks slots) s = .next t ∧ toStill (kept t) = toStill (kept s) ∧ t.gbl.eventStatus.getLsbD 2 = true ∧
      t.route = (withRoute { s.route with
        bank0 := s.route.bank0.foldl (fun b e => if noticed racks slots e.1 then Tab.put 0 b e.1 (setBit e.2 p.toNat false) else b) s.route.bank0
        bank1 := s.route.bank1.foldl (fun b e => if noticed racks slots e.1 then Tab.put 0 b e.1 (setBit e.2 p.toNat false) else b) s.route.bank1 } s).route) ∧
  (∀ (l : BitVec 7) (lane1 : Bool) (s : State), running s = true → hasLink s l.toNat = true → (link s l.toNat).state = .up → (link s l.toNat).pause = none →
    (if lane1 then (link s l.toNat).lock1 else (link s l.toNat).lock0) = true →
    (if lane1 then (link s l.toNat).lanes.getLsbD 0 && (link s l.toNat).lock0 else (link s l.toNat).lanes.getLsbD 1 && (link s l.toNat).lock1) = false →
    ∃ t, exec (.laneLockChange l lane1 false) s = .next t ∧ kept t = kept s ∧ (link t l.toNat).state = .retraining ∧
      (link t l.toNat).noLock = some ((link s l.toNat).noLock.getD (now s)) ∧ (if lane1 then (link t l.toNat).lock1 else (link t l.toNat).lock0) = false ∧
      ∃ m ∈ t.flt.msgs, m.src = BitVec.ofNat 10 (srcLane l.toNat (if lane1 then 1 else 0))) ∧
  (∀ (l : BitVec 7) (s : State), running s = true → hasLink s l.toNat = true → downDue s (link s l.toNat) = true → s.lnk.forcedWait = [] →
    (∃ t, exec (.linkDownDeclare l) s = .next t ∧ toStill (kept t) = toStill (kept s) ∧
      t.route = (withRoute { s.route with linkUp := setBit s.route.linkUp l.toNat false, parkDrain := setBit s.route.parkDrain l.toNat false } s).route) ∧
    ((link s l.toNat).en = true → s.tx.units = [] →
      ∃ t, exec (.linkDownDeclare l) s = .next t ∧ kept t = kept s ∧ (link t l.toNat).state = .training ∧ (link t l.toNat).joined = false ∧
        (link t l.toNat).expected = 0 ∧ (link t l.toNat).nextSeq = 0 ∧ (link t l.toNat).acked = 0xFFFF ∧ (link t l.toNat).replay = [] ∧
        ∃ m ∈ t.flt.msgs, m.src = BitVec.ofNat 10 (srcLink l.toNat))) ∧
  (∀ (c : BitVec 5) (s : State), running s = true → hasCroft s c.toNat = true → (croft s c.toNat).pllLock = true →
    ∃ t, exec (.croftPllUnlock c) s = .next t ∧ kept t = kept s ∧ t.lnk = { s.lnk with crofts := Tab.put {} s.lnk.crofts c.toNat { croft s c.toNat with pllLock := false } } ∧
      ∃ m ∈ t.flt.msgs, m.src = BitVec.ofNat 10 (srcCroft c.toNat))

/-! ## Tallies -/

/-- GRANT: a grant value from 1 to 2^31 − 1 ahead of SEEN is accepted, and SEEN is set to it, in a TALLY entry and in a header; any other value
changes nothing (R238). RELEASE frees the DONE entry of its key (R248). An entry for another device or of a reserved kind is a fault (R245). -/
def Obligations.GrantsAreAcceptedAhead : Prop :=
  (∀ (l : BitVec 7) (e : Word) (s : State), hearsEntry s l e 1 →
    (1 ≤ (teVal e - (srcTally s (teFrom e)).seen).toNat ∧ (teVal e - (srcTally s (teFrom e)).seen).toNat ≤ 2 ^ 31 - 1 →
      ∃ t, exec (.grant l e) s = .next t ∧ t = { s with tal := { s.tal with src := Tab.put {} s.tal.src (teFrom e) { srcTally s (teFrom e) with seen := teVal e } } }) ∧
    (¬(1 ≤ (teVal e - (srcTally s (teFrom e)).seen).toNat ∧ (teVal e - (srcTally s (teFrom e)).seen).toNat ≤ 2 ^ 31 - 1) → exec (.grant l e) s = .next s)) ∧
  (∀ (x : Txn) (s : State), x.gv = true → x.rv = false →
    (1 ≤ (x.grant - (srcTally s x.src.toNat).seen).toNat ∧ (x.grant - (srcTally s x.src.toNat).seen).toNat ≤ 2 ^ 31 - 1 →
      takeHeader x s = { s with tal := { s.tal with src := Tab.put {} s.tal.src x.src.toNat { srcTally s x.src.toNat with seen := x.grant } } }) ∧
    (¬(1 ≤ (x.grant - (srcTally s x.src.toNat).seen).toNat ∧ (x.grant - (srcTally s x.src.toNat).seen).toNat ≤ 2 ^ 31 - 1) → takeHeader x s = s)) ∧
  (∀ (l : BitVec 7) (e : Word) (s : State), hearsEntry s l e 2 →
    ∃ t, exec (.release l e) s = .next t ∧ t = { s with sig := t.sig } ∧
      ∀ x, x ∈ t.sig.ents ↔ x ∈ s.sig.ents ∧ ¬(x.src = BitVec.ofNat 9 (teFrom e) ∧ x.tag = e.extractLsb' 32 16 ∧ x.state = .done)) ∧
  (∀ (l : BitVec 7) (e : Word) (s : State), linkHears s l = true → s.gbl.fabricValid = true → e ≠ 0 → (5 ≤ teKind e ∨ teTo e ≠ (ownId s).toNat) →
    ∀ i, (i = .grant l e ∨ i = .release l e ∨ i = .reconcile l e ∨ i = .reconAck l e) →
      ∃ t, exec i s = .next t ∧ kept t = kept s ∧ aside t = aside s ∧ t.tal = s.tal ∧ flagged t (srcPeer (teFrom e)))

/-- RECONCILE with a value not behind FREED sets it, grants follow, and RECON_ACK is queued with what is then ISSUED; one behind FREED is a
fault and nothing else. RECON_ACK sets SEEN and ends the hold (R237, R250, R251).
Reconciliation at the source: past its settle time a pair is held; with nothing charged open towards the peer SENT goes out as RECONCILE,
again every 10 µs without an answer, and a loss meanwhile starts the settle time anew. A bank that was left long enough may be loaded:
comparator 0 fires then (R179, R250, R376).
Log entries 21, 110, 182: the model's choice where the rules leave one. -/
def Obligations.PairsReconcile : Prop :=
  ((∀ (l : BitVec 7) (e : Word) (s : State), hearsEntry s l e 3 →
      ((teVal e - (tgtTally s (teFrom e)).freed).toNat < 2 ^ 31 →
        ∃ t, exec (.reconcile l e) s = .next t ∧ kept t = kept s ∧ (tgtTally t (teFrom e)).freed = teVal e ∧
          (∀ d, d ≠ teFrom e → (tgtTally t d).freed = (tgtTally s d).freed) ∧
          (∀ d, (tgtTally t d).issued = (tgtTally (issueAll (modTgtTally (teFrom e) (fun x => { x with freed := teVal e }) s)) d).issued) ∧
          (tgtTally t (teFrom e)).lastSent = (tgtTally t (teFrom e)).issued ∧
          ∀ p, entryPlane s (teFrom e) = some p → (link t p).tallyq =
            (link s p).tallyq ++ [tallyEntry (tgtTally t (teFrom e)).issued 4 (ownId s) (BitVec.ofNat 9 (teFrom e))]) ∧
      (2 ^ 31 ≤ (teVal e - (tgtTally s (teFrom e)).freed).toNat →
        ∃ t, exec (.reconcile l e) s = .next t ∧ kept t = kept s ∧ aside t = aside s ∧ t.tal = s.tal ∧ flagged t (srcPeer (teFrom e)))) ∧
    (∀ (l : BitVec 7) (e : Word) (s : State) (at_ : Time), hearsEntry s l e 4 → (srcTally s (teFrom e)).hold = true → (srcTally s (teFrom e)).recon = some at_ →
      ∃ t, exec (.reconAck l e) s = .next t ∧ t = { s with tal := { s.tal with src := (Tab.put {} s.tal.src (teFrom e)
        { srcTally s (teFrom e) with seen := teVal e, hold := false, recon := none, lossInHold := false }) } })) ∧
  ((∀ (dev : BitVec 9) (s : State) (at_ : Time), running s = true → (srcTally s dev.toNat).settle = some at_ → reached s at_ = true →
      ∃ t, exec (.reconcileSettleExpiry dev) s = .next t ∧ t = { s with tal := { s.tal with src := (Tab.put {} s.tal.src dev.toNat
        { srcTally s dev.toNat with settle := none, hold := true, lossInHold := false, recon := none }) } }) ∧
    (∀ (dev : BitVec 9) (s : State) (x : SrcTally), x = srcTally s dev.toNat → running s = true → x.hold = true →
      (x.recon = none → (∀ u ∈ s.tx.units ++ s.tx.ghosts, u.charged = true → dev ∉ u.owed) →
        (x.lossInHold = true →
          ∃ t, exec (.reconcileSend dev) s = .next t ∧ t = { s with tal := { s.tal with src := (Tab.put {} s.tal.src dev.toNat
            { x with hold := false, lossInHold := false, settle := some (later (now s) (bits s.route.ctl 16 16 * usUnits)) }) } }) ∧
        (∀ p, x.lossInHold = false → lowestPlane (activeMask s dev) = some p →
          ∃ t, exec (.reconcileSend dev) s = .next t ∧ t = { s with
            lnk := { s.lnk with links := Tab.put {} s.lnk.links p { link s p with tallyq := (link s p).tallyq ++ [tallyEntry x.sent 3 (ownId s) dev] } }
            tal := { s.tal with src := Tab.put {} s.tal.src dev.toNat { x with recon := some (now s) } } })) ∧
      (∀ at_ p, x.recon = some at_ → reached s (later at_ (10 * usUnits)) = true → lowestPlane (activeMask s dev) = some p →
        ∃ t, exec (.reconcileResend dev) s = .next t ∧ t = { s with
          lnk := { s.lnk with links := Tab.put {} s.lnk.links p { link s p with tallyq := (link s p).tallyq ++ [tallyEntry x.sent 3 (ownId s) dev] } }
          tal := { s.tal with src := Tab.put {} s.tal.src dev.toNat { x with recon := some (now s) } } })) ∧
    (∀ s : State, s.pins.aonReset = false → stoppedByCurfew s = false → (cmpOf s 0).en = true → reached s (cmpOf s 0).compare = true →
      ∃ t, exec .routeSettleExpiry s = .next t ∧ t = { s with
        route := { s.route with settled := true }
        alm := { s.alm with fired := setBit s.alm.fired 0 true, cmps := Tab.put {} s.alm.cmps 0 { cmpOf s 0 with en := false } } }))

/-- A grant update that is due is queued on the lowest plane of the active mask; a refresh queues a GRANT for every other device with a route
entry and a plane at hand, and every link that is UP or in LPI owes a TALLY flit (R246).
Log entry 21: the model's choice where the rules leave one. -/
def Obligations.GrantsAreSent : Prop :=
  (∀ (dev : BitVec 9) (s : State) (p : Nat), running s = true → updateDue s dev.toNat = true → lowestPlane (activeMask s dev) = some p →
    ∃ t, exec (.grantUpdateDue dev) s = .next t ∧
      t = { s with
        lnk := { s.lnk with links := (Tab.put {} s.lnk.links p { link s p with
          tallyq := (link s p).tallyq ++ [tallyEntry (tgtTally s dev.toNat).issued 1 (ownId s) dev] }) }
        tal := { s.tal with tgt := (Tab.put {} s.tal.tgt dev.toNat { tgtTally s dev.toNat with lastSent := (tgtTally s dev.toNat).issued, unsentAt := none }) } }) ∧
  (∀ s : State, running s = true → reached s (later s.tal.refreshAt (refreshUnits s)) = true →
    ∃ t, exec .tallyRefresh s = .next t ∧ kept t = kept s ∧ deep t = deep s ∧ t.tal.refreshAt = now s ∧
      (∀ dev : BitVec 9, dev ≠ ownId s → reValid (routeEntry s dev) = true → (∃ p ∈ rotation s [dev] (activeMask s dev), memb (activeMask s dev) p = true) →
        ∃ p, memb (activeMask s dev) p = true ∧ tallyEntry (tgtTally s dev.toNat).issued 1 (ownId s) dev ∈ (link t p).refreshq) ∧
      ∀ p < s.part.links, ((link s p).state = .up ∨ (link s p).state = .lpi) → (link t p).tallyDue.isSome = true)

/-! ## Time and power -/

/-- A follower's TIME flit on its only synced link: that link is the parent; the offset of a completed exchange sets the time at first, then
moves the servo, within ±500 ppm; after a holdover a device that is up on its parent alone steps forward and the comparators passed fire, one that is ahead slews, as it
does under another grandmaster; the eighth exchange within 2 ns locks. A grandmaster only keeps what the flit says, and moves its servo at TIME_PPS (R369 to R373, R376).
Log entries 91, 92: the model's choice where the rules leave one. -/
def Obligations.TimeIsFollowed : Prop :=
  (∀ (l : BitVec 7) (w0 w1 w2 w3 : Word) (s : State), linkHears s l = true → w3 &&& ~~~(maskAt 0 18) = 0 →
    (isMaster s = true → ∃ t, exec (.timeFlit l w0 w1 w2 w3) s = .next t ∧
      t = { s with alm := { s.alm with links := (Tab.put {} s.alm.links l.toNat
        { peerSend := w0, peerRecv := s.alm.now - BitVec.ofNat 64 (bits s.alm.serdesLat 16 16), synced := bitAt w3 17,
          steps := w3.extractLsb' 0 8, gmId := w3.extractLsb' 8 9 }) } }) ∧
    (∀ off, isMaster s = false → bitAt w3 17 = true → (s.alm.links = [] ∨ ∃ x, s.alm.links = [(l.toNat, x)]) →
      s.gbl.fabricValid = true → off = (timeDiff (s.alm.now - BitVec.ofNat 64 (bits s.alm.serdesLat 16 16)) w0 - timeDiff w2 w1) / 2 →
      ((w1 = 0 ∨ 0 ≤ off ∨ (s.alm.state ≠ .slewing ∧ -16000 ≤ off) ∨ ∀ n < 16, (cmpOf s n).en = false) →
        ∃ t, exec (.timeFlit l w0 w1 w2 w3) s = .next t ∧ { kept t with now := 0 } = { kept s with now := 0 } ∧ t.lnk = s.lnk ∧ t.route = s.route ∧ t.gbl = s.gbl ∧
          t.alm.parent = l ∧ t.alm.gmId = w3.extractLsb' 8 9 ∧ t.alm.steps = (if w3.extractLsb' 0 8 = 0xFF then 0xFF else w3.extractLsb' 0 8 + 1) ∧
          (w1 = 0 → t.alm.now = s.alm.now ∧ t.alm.rate = s.alm.rate ∧ t.alm.state = (if s.alm.state = .freeRun then .acquiring else s.alm.state)) ∧
          (w1 ≠ 0 → t.alm.offset = sat24 off ∧
            ((s.alm.state = .freeRun ∨ s.alm.state = .acquiring) → s.alm.acquired = false → t.alm.now = s.alm.now - BitVec.ofInt 64 off ∧ t.alm.acquired = true) ∧
            (s.alm.state = .locked → off.natAbs ≤ 16000 → t.alm.now = s.alm.now ∧ t.alm.state = .locked ∧ -rateLimit ≤ t.alm.rate ∧ t.alm.rate ≤ rateLimit) ∧
            ((s.alm.state = .acquiring ∨ s.alm.state = .slewing) → (t.alm.state = .locked ↔ 7 ≤ s.alm.goodRun ∧ off.natAbs ≤ 32)) ∧
            (s.alm.state = .holdover → 16000 < off → t.alm.state = .slewing ∧ t.alm.now = s.alm.now ∧ t.alm.rate = -rateLimit) ∧
            (∀ g, s.alm.state = .locked → s.alm.lastGm = some g → g ≠ w3.extractLsb' 8 9 → 16000 < off →
              t.alm.state = .slewing ∧ t.alm.now = s.alm.now ∧ t.alm.rate = -rateLimit))) ∧
      (w1 ≠ 0 → s.alm.state = .holdover → off < -16000 → (∀ e ∈ s.lnk.links, e.2.joined = true → e.1 = l.toNat) → (∀ n < 8, (cmpOf s n).en = false) →
        ∃ t, exec (.timeFlit l w0 w1 w2 w3) s = .next t ∧ t.alm.state = .slewing ∧ t.alm.now = s.alm.now - BitVec.ofInt 64 off ∧ flagged t srcAlmanac ∧
          ∀ n, 8 ≤ n → n < 16 → (cmpOf s n).en = true →
            reached { s with alm := { s.alm with now := s.alm.now - BitVec.ofInt 64 off } } (cmpOf s n).compare = true → t.alm.fired.getLsbD n = true))) ∧
  (∀ s : State, s.pins.pwrOk = true → s.pins.aonReset = false →
    (isMaster s = true → bitAt s.alm.ctl 1 = true → stoppedByCurfew s = false →
      ∃ t r, exec .timePps s = .next t ∧ t = { s with free := s.free + 1, alm := { s.alm with rate := r } } ∧ -rateLimit ≤ r ∧ r ≤ rateLimit) ∧
    (isMaster s = false → exec .timePps s = .next s))

/-- A CAP message sets the cap, re-arms the heartbeat and sets the levers: neither the throttle nor the Mill ceiling rises; the effective cap is
the cap or the floor, whichever is higher, with UNREACHABLE below the floor, and an estimate above it begins an episode; a HEARTBEAT leaves the cap; a bad message is a fault. A missed
heartbeat puts the orphan cap in force (R381, R382, R385 to R387). -/
def Obligations.CapsApply : Prop :=
  (∀ (m : Word) (s : State), powerOn s = true → 1 ≤ s.pwr.throttle.toNat →
    (bits m 40 8 ≤ 1 → bits m 16 24 = 0 → (bits m 40 8 = 1 → bits m 0 16 = 0) →
      ∃ t, exec (.capMessage m false) s = .next t ∧ kept t = kept s ∧ powerAside t = powerAside { s with alm := t.alm } ∧
        t.alm = { s.alm with cmps := (Tab.put {} s.alm.cmps 2 { compare := later (now s) (bits s.ree.orphan 0 16 * msUnits), en := true }) } ∧
        t.pwr.capSeq = some (m.extractLsb' 48 16) ∧ t.pwr.orphan = false ∧ t.pwr.ceiling.toNat ≤ s.pwr.ceiling.toNat ∧ t.pwr.throttle.toNat ≤ s.pwr.throttle.toNat ∧
        (bits m 40 8 = 0 → t.pwr.capMsg = m.extractLsb' 0 16 ∧ t.pwr.orphanCap = false ∧ effCap t = max (bits m 0 16) (bits s.ree.pwrFloor 0 16) ∧
          (bits m 0 16 < bits s.ree.pwrFloor 0 16 → t.pwr.belowFloor = true ∧ (s.pwr.belowFloor = false → flagged t srcPower))) ∧
        (s.pwr.episode = none → effCap t < s.pwr.estimate.toNat →
          t.pwr.episode = some (now s, BitVec.ofNat 16 (s.pwr.estimate.toNat - effCap t), 0)) ∧
        (bits m 40 8 = 1 → t.pwr.capMsg = s.pwr.capMsg ∧ t.pwr.orphanCap = s.pwr.orphanCap)) ∧
    (∀ bad, (bad = true ∨ 2 ≤ bits m 40 8 ∨ bits m 16 24 ≠ 0 ∨ (bits m 40 8 = 1 ∧ bits m 0 16 ≠ 0)) →
      ∃ t, exec (.capMessage m bad) s = .next t ∧ kept t = kept s ∧ aside t = aside s ∧ flagged t srcCap)) ∧
  (∀ s : State, powerOn s = true → 1 ≤ s.pwr.throttle.toNat → (cmpOf s 2).en = true → reached s (cmpOf s 2).compare = true →
    ∃ t, exec .capHeartbeat s = .next t ∧ kept t = kept s ∧ (cmpOf t 2).en = false ∧ t.pwr.orphan = true ∧ t.pwr.orphanCap = true ∧
      effCap t = max (bits s.ree.orphan 16 16) (bits s.ree.pwrFloor 0 16) ∧ t.pwr.ceiling.toNat ≤ s.pwr.ceiling.toNat ∧
      t.gbl.eventStatus.getLsbD 9 = true ∧ flagged t srcPower)

/-- An estimate replaces the last; above the effective cap it begins an overshoot episode or adds to its energy, at or below it ends one, with its fault; the throttle
rises by no more than 8 levels, no further than its target. The lever that is next to be released is released when
the estimate has let it for 100 µs (R383, R386 to R388).
Log entries 95, 96: the model's choice where the rules leave one. -/
def Obligations.EstimatesMoveLevers : Prop :=
  (∀ (e : BitVec 16) (s : State), powerOn s = true → 1 ≤ s.pwr.throttle.toNat →
    ∃ t, exec (.powerEstimate e) s = .next t ∧ kept t = kept s ∧ powerAside t = powerAside s ∧ t.pwr.estimate = e ∧
      t.pwr.ceiling.toNat ≤ s.pwr.ceiling.toNat ∧ t.pwr.throttleTo.toNat ≤ s.pwr.throttleTo.toNat ∧
      (t.pwr.throttle.toNat ≤ s.pwr.throttle.toNat ∨ t.pwr.throttle.toNat ≤ min (s.pwr.throttle.toNat + 8) t.pwr.throttleTo.toNat) ∧
      (s.pwr.episode = none → effCap s < e.toNat → t.pwr.episode = some (now s, BitVec.ofNat 16 (e.toNat - effCap s), 0) ∧ t.pwr.overshoot = s.pwr.overshoot) ∧
      (∀ t0 peak en, s.pwr.episode = some (t0, peak, en) → effCap s < e.toNat →
        t.pwr.episode = some (t0, BitVec.ofNat 16 (max peak.toNat (e.toNat - effCap s)), en + s.pwr.excess * elapsed s s.pwr.episodeAt)) ∧
      (s.pwr.episode.isSome = true → e.toNat ≤ effCap s → t.pwr.episode = none ∧ flagged t srcPower ∧ t.gbl.eventStatus.getLsbD 10 = true ∧
        bits s.pwr.overshoot 0 24 ≤ bits t.pwr.overshoot 0 24)) ∧
  (∀ (e : BitVec 16) (s : State) (at_ : Time) (r : Release), powerOn s = true → nextRelease s = some r → s.pwr.belowSince = some at_ →
    reached s (later at_ (100 * usUnits)) = true → e.toNat ≤ effCap s - bits s.pwr.ctl 8 8 →
    ∃ t, exec (.leverRelease e) s = .next t ∧ kept t = kept s ∧ powerAside t = powerAside s ∧ t.pwr.belowSince = none ∧
      (∀ p, r = .unpark p → t.pwr.parked = s.pwr.parked.filter (· ≠ p) ∧ t.pwr.ceiling = s.pwr.ceiling ∧ t.pwr.narrowed = s.pwr.narrowed ∧
        ((link s p).state = .parked → (link s p).en = true → (link t p).state = .calibrating)) ∧
      (r = .throttle → t.pwr.throttleTo.toNat = min (thrLimit s) (s.pwr.throttleTo.toNat + 8) ∧ t.pwr.parked = s.pwr.parked ∧ t.pwr.narrowed = s.pwr.narrowed) ∧
      (∀ p, r = .widen p → t.pwr.narrowed = s.pwr.narrowed.filter (· ≠ p) ∧ t.pwr.parked = s.pwr.parked ∧ ((link s p).narrow = .power → (link t p).narrow = .none) ∧
        ((link s p).narrow ≠ .power → t.lnk = s.lnk)) ∧
      (r = .ceiling → t.pwr.ceiling = s.pwr.ceiling + 1 ∧ t.pwr.parked = s.pwr.parked ∧ t.pwr.narrowed = s.pwr.narrowed))

/-- An emergency input limits the throttle and the Mill ceiling and narrows every link at ×2, with its fault and its event; the brake
settings end once both inputs have been released for 1 ms. Comparator 4 fires once in every power state. A parked block that wakes is in the state it was in, with its
clocks running; after 2 ms it waits for its
links no longer (R376, R380, R390, R466).
Log entries 97, 99, 188: the model's choice where the rules leave one. -/
def Obligations.EmergenciesAndWakes : Prop :=
  (∀ (therm : Bool) (s : State), powerOn s = true → (if therm then s.pins.therm else s.pins.brake) = false →
    ∃ t, exec (.brakeAssert (.low therm)) s = .next t ∧ kept t = kept s ∧ powerAside t = powerAside s ∧
      t.pins = { s.pins with brake := s.pins.brake || !therm, therm := s.pins.therm || therm } ∧
      t.pwr.throttle.toNat ≤ max 1 (bits s.ree.pwrBrake 0 7) ∧ t.pwr.ceiling.toNat ≤ bits s.ree.pwrBrake 8 4 ∧ flagged t srcBrake ∧
      t.gbl.eventStatus.getLsbD (if therm then 12 else 11) = true ∧
      t.pwr.braked = true ∧ t.pwr.brakeEnd = none ∧
      ∀ p x, (p, x) ∈ s.lnk.links → x.joined = true → x.lanes = 3 → x.widthReq = none → p ∈ t.pwr.narrowed) ∧
  (∀ (therm : Bool) (s : State), powerOn s = true → ∃ t, exec (.brakeAssert (.high therm)) s = .next t ∧ t = { s with
    pins := { s.pins with brake := s.pins.brake && therm, therm := s.pins.therm && !therm }
    pwr := { s.pwr with brakeEnd :=
      if s.pwr.braked = true ∧ s.pwr.brakeEnd = none ∧ (s.pins.brake && therm) = false ∧ (s.pins.therm && !therm) = false then some (now s) else s.pwr.brakeEnd } }) ∧
  (∀ (s : State) (at_ : Time), powerOn s = true → s.pwr.brakeEnd = some at_ → reached s (later at_ msUnits) = true →
    ∃ t, exec .brakeRelease s = .next t ∧ t = { s with pwr := { s.pwr with braked := false, brakeEnd := none } }) ∧
  (∀ (i : Instr) (s : State), s.pins.pwrOk = true → s.pins.aonReset = false → s.pwr.state = .parked → s.flt.safe = false → stoppedByCurfew s = false →
    ((i = .parkWakeTime ∧ (cmpOf s 4).en = true ∧ reached s (cmpOf s 4).compare = true ∧ s.cur.heldAccesses = []) ∨
     (i = .blockWake .blockReset ∧ s.pins.blockReset = true ∧ s.cur.heldAccesses = []) ∨
     (∃ w, i = .blockWake .doorbell ∧ s.cur.heldAccesses = [w] ∧ isBell w.2.1.toNat = true) ∨
     (∃ w, i = .blockWake .registerAccess ∧ s.cur.heldAccesses = [w] ∧ isBell w.2.1.toNat = false ∧ w.2.2.2 = none) ∨
     (∃ who a n, i = .blockWake (.registerRead who a n) ∧ s.cur.heldAccesses = [] ∧ isBell a.toNat = false ∧ who ≠ .reeve ∧ who ≠ .internal ∧
       ctrlpOpen s = true ∧ parkedServes a.toNat = false)) →
    ∃ t, exec i s = .next t ∧ toStill (kept t) = toStill (kept s) ∧ t.pwr = { s.pwr with state := s.pwr.before, gated := false, coreAt := some (now s) } ∧
      ∀ p, (link s p).state = .parked → (link s p).en = true → p ∉ s.pwr.parked → (link t p).state = .calibrating) ∧
  (∀ s : State, s.pins.pwrOk = true → s.pins.aonReset = false → s.pwr.state ≠ .parked → s.flt.safe = false → stoppedByCurfew s = false →
    (cmpOf s 4).en = true → reached s (cmpOf s 4).compare = true → s.cur.heldAccesses = [] →
    ∃ t, exec .parkWakeTime s = .next t ∧ t = { s with alm := { s.alm with
      fired := setBit s.alm.fired 4 true, cmps := Tab.put {} s.alm.cmps 4 { cmpOf s 4 with en := false } } }) ∧
  (∀ (s : State) (at_ : Time), stoppedByCurfew s = false → s.pwr.coreAt = some at_ → reached s (later at_ (2 * msUnits)) = true →
    ∃ t, exec .wakeRejoinDeadline s = .next t ∧ t = { s with pwr := { s.pwr with coreAt := none } })

/-! ## Calibration and observation -/

/-- A croft calibrates when its window opens, or by force after 200 ms, one forced croft at a time and 1 ms apart; its links then pause, and
placement leaves its planes out. It is calibrated once each of its links has left the pause. A day without calibration, fallen margins
or a changed temperature ask for one, which starts at once where a window is open (R450 to R453).
Log entries 58, 60: the model's choice where the rules leave one. -/
def Obligations.CroftsCalibrate : Prop :=
  (∀ (c : BitVec 5) (s : State), running s = true → hasCroft s c.toNat = true → s.gbl.calFinished.getLsbD c.toNat = true →
    24 * 3600 * 1000 * msUnits ≤ elapsed s (croft s c.toNat).calLast →
    ∃ t, exec (.calibrationAgeDue c) s = .next t ∧ kept t = kept s ∧ (croft t c.toNat).calPending = some ((croft s c.toNat).calPending.getD (now s)) ∧
      (windowFits s = false → t = { s with lnk := { s.lnk with crofts := (Tab.put {} s.lnk.crofts c.toNat
        { croft s c.toNat with calPending := some ((croft s c.toNat).calPending.getD (now s)) }) } }) ∧
      (windowFits s = true → (∀ x ∈ s.lnk.crofts, x.2.calActive = false) → (∀ k < 32, k ≠ c.toNat → (croft s k).calPending = none) → s.cur.state = .idle →
        croftRemoved s c.toNat = false → (croft s c.toNat).rateTo = none → ((linksOf c.toNat).all fun p => !(changing (link s p))) = true →
        1 ≤ bits s.gbl.calCtl 0 8 → (croft t c.toNat).calActive = true ∧ ∀ p ∈ linksOf c.toNat, memb t.route.calPause p = true)) ∧
  (∀ (margins temps ends : BitVec 32) (s : State), running s = true →
    ∃ t, exec (.ageingMonitorSample margins temps ends) s = .next t ∧ kept t = kept s ∧ (windowFits s = false → t.lnk = { s.lnk with crofts := t.lnk.crofts }) ∧
      ∀ c, hasCroft s c = true → c < 32 →
        croft t c = { croft s c with
          calPending := if margins.getLsbD c || temps.getLsbD c then some ((croft s c).calPending.getD (now s)) else (croft s c).calPending
          calActive := (croft t c).calActive, calForced := (croft t c).calForced } ∧
        (windowFits s = false → (croft t c).calActive = (croft s c).calActive ∧ (croft t c).calForced = (croft s c).calForced) ∧
        (ends.getLsbD c = true → flagged t (srcCroft c))) ∧
  (∀ (c : BitVec 5) (s : State) (at_ : Time), running s = true → (croft s c.toNat).calPending = some at_ → reached s (later at_ (200 * msUnits)) = true →
    s.lnk.forcedWait = [] → forcedRuns s = false → (∀ e, s.lnk.forcedEnd = some e → reached s (later e msUnits) = true) → mayCalibrate s c.toNat = true →
    ∃ t, exec (.calibrationForce c) s = .next t ∧ kept t = kept s ∧ calibrates s t c.toNat true) ∧
  (∀ (s : State) (c : Nat), running s = true → forcedRuns s = false → (∀ e, s.lnk.forcedEnd = some e → reached s (later e msUnits) = true) →
    s.lnk.forcedWait.find? (fun c => mayCalibrate s c) = some c →
    ∃ t, exec .forcedCalibrationSpacing s = .next t ∧ kept t = kept s ∧ calibrates s t c true ∧ t.lnk.forcedWait = s.lnk.forcedWait.erase c) ∧
  (∀ (s : State) (c : Nat) (e : Time), running s = true → (cmpOf s 3).en = true → reached s (cmpOf s 3).compare = true → c < 32 → mayCalibrate s c = true →
    (∀ k < c, mayCalibrate s k = false) → (∀ x ∈ s.lnk.crofts, x.2.calActive = false) → 1 ≤ bits s.gbl.calCtl 0 8 →
    e = later (cmpOf s 3).compare (bits s.gbl.calCtl 32 16 * usUnits) → reached s e = false → reached s (e - BitVec.ofNat 64 (100 * usUnits)) = false →
    ∃ t, exec .calibrationWindowStart s = .next t ∧ kept t = kept s ∧ calibrates s t c false ∧ t.lnk.windowEnd = some e ∧
      cmpOf t 3 = { cmpOf s 3 with compare := later (cmpOf s 3).compare (bits s.gbl.calCtl 48 16 * msUnits) }) ∧
  (∀ (c : BitVec 5) (s : State), running s = true → (croft s c.toNat).calActive = true →
    ((∃ p ∈ linksOf c.toNat, inPause (link s p) .calibration = true) → exec (.croftCalibrationDone c) s = .next s) ∧
    ((∀ p ∈ linksOf c.toNat, inPause (link s p) .calibration = false) → s.lnk.forcedWait = [] → s.lnk.windowEnd = none →
      ∃ t, exec (.croftCalibrationDone c) s = .next t ∧ kept t = kept s ∧ t.lnk.links = s.lnk.links ∧
        croft t c.toNat = { croft s c.toNat with calPending := none, calActive := false, calForced := false, calLast := now s } ∧
        ∀ p ∈ linksOf c.toNat, memb t.route.calPause p = false))

/-- What is observed: a snapshot of the counters is written every ms while they are enabled, a channel that runs puts its sample into its
parish's trace ring, or it is dropped and counted where the trace unit may write no more (Config's `traceOver`), the age of the oldest work past the limit is an event, the diagnostic hold ends; the comparators of the first
and the last fire in every power state (R376, R419, R422 to R426, R435).
Log entries 105, 106: the model's choice where the rules leave one. -/
def Obligations.TheBlockIsObserved : Prop :=
  (∀ s : State, s.pins.aonReset = false → stoppedByCurfew s = false → (cmpOf s 5).en = true → reached s (cmpOf s 5).compare = true →
    ∃ t, exec .telemetrySnapshot s = .next t ∧ kept t = kept s ∧
      t.alm = { s.alm with cmps := Tab.put {} s.alm.cmps 5 { compare := later (now s) msUnits, en := true }, fired := setBit s.alm.fired 5 true } ∧
      (running s = true → bitAt s.obs.ctl 7 = true → t.obs = { s.obs with snapSeq := s.obs.snapSeq + 1 } ∧ s.free ≤ t.free ∧
        ∃ w, t.memp.writes = s.memp.writes ++ [w] ∧ w.cells = snapCells s ∧ w.use = .background) ∧
      ((running s = false ∨ bitAt s.obs.ctl 7 = false) → t = { s with alm := t.alm })) ∧
  (∀ (q : BitVec 6) (s : State), running s = true → s.part.t = true → (parish s q.toNat).traceOn = true → (parish s q.toNat).traceCount = 1 →
    ((sampled s (parish s q.toNat).traceFirst).state = .running ∨ (sampled s (parish s q.toNat).traceFirst).state = .blocked) →
    ringEn (.trace q) s = true → ringRoom (.trace q) s = true → (parish s q.toNat).traceLost = 0 →
    ∃ t, exec (.traceSample q) s = .next t ∧ kept t = kept s ∧ aside t = { aside s with free := s.free + 1 } ∧
      (Config.traceOver s.free = true → (parish t q.toNat).traceLost = 1 ∧ t.memp.writes = s.memp.writes) ∧
      (Config.traceOver s.free = false → ∃ w, t.memp.writes = s.memp.writes ++ [w] ∧ w.use = .ring (.trace q) (ringGet (.trace q) s).next ∧
        w.cells = cellsAt ((ringWords (.trace q) s).1.toNat / 4096 * 4096 + ((ringGet (.trace q) s).next.toNat % 2 ^ ringLog2 (.trace q) s) * ringEntry (.trace q))
          (wordsBytes (match sampleWords s (parish s q.toNat).traceFirst (sampled s (parish s q.toNat).traceFirst) with
            | [] => []
            | w0 :: ws => (w0 ||| flag (phaseBit (ringGet (.trace q) s).next (ringLog2 (.trace q) s)) 63) :: ws)))) ∧
  (∀ s : State, s.pins.aonReset = false → stoppedByCurfew s = false → (cmpOf s 6).en = true → reached s (cmpOf s 6).compare = true →
    ∃ t, exec .hangCheck s = .next t ∧ kept t = kept s ∧
      t.alm = { s.alm with cmps := Tab.put {} s.alm.cmps 6 { compare := later (now s) (10 * msUnits), en := true }, fired := setBit s.alm.fired 6 true } ∧
      (running s = true → (∃ ch age, oldestWaiting s = some (ch, age) ∧ bits s.obs.ctl 48 16 * msUnits < age) → t.gbl.eventStatus.getLsbD 18 = true) ∧
      ((running s = false ∨ ∀ ch age, oldestWaiting s = some (ch, age) → age ≤ bits s.obs.ctl 48 16 * msUnits) → t = { s with alm := t.alm })) ∧
  (∀ (s : State) (at_ : Time), stoppedByCurfew s = false → s.obs.diagUntil = some at_ → reached s at_ = true →
    ∃ t, exec .diagHoldExpiry s = .next t ∧ t = { s with obs := { s.obs with diagUntil := none } })

/-- An operator comparator that is due fires: FIRED is set; one-shot it is disarmed, periodic it moves on into the future; with WAKE it wakes a
parked block (R366, R376, R377). Steward's requests to Reeve have their effects: a job for a sealed parish, a refusal for another, its record,
a fence cleared where Reeve itself has not set it (R341, R349).
Log entry 69: the model's choice where the rules leave one. -/
def Obligations.ComparatorsAndMailbox : Prop :=
  (∀ (n : BitVec 4) (s : State), s.pins.aonReset = false → stoppedByCurfew s = false → 8 ≤ n.toNat → (cmpOf s n.toNat).en = true →
    reached s (cmpOf s n.toNat).compare = true → s.cur.heldAccesses = [] →
    ∃ t, exec (.operatorComparatorFire n) s = .next t ∧ kept t = kept s ∧ t.alm.fired.getLsbD n.toNat = true ∧
      ((cmpOf s n.toNat).period = 0 → cmpOf t n.toNat = { cmpOf s n.toNat with en := false }) ∧
      ((cmpOf s n.toNat).period ≠ 0 → (cmpOf t n.toNat).en = true ∧
        (cmpOf t n.toNat).compare = nextCompare s (cmpOf s n.toNat).compare ((cmpOf s n.toNat).period.toNat * usUnits)) ∧
      ((cmpOf s n.toNat).wake = true → s.flt.safe = false → s.pwr.state = .parked → t.pwr.state = s.pwr.before) ∧
      ((cmpOf s n.toNat).wake = false → t.pwr = s.pwr ∧ t.lnk = s.lnk)) ∧
  (∀ (q : BitVec 6) (d : BitVec 9) (device : Bool) (m : Word) (s : State), running s = true →
    (sealedNow s q = true → s.ree.jobs.any (isJob q d) = false → ∀ r, (r = .keyPairJob q d ∨ r = .installKey q d) →
      ∃ t, exec (.stewardMailboxRequest r) s = .next t ∧ t = { s with ree := { s.ree with jobs := s.ree.jobs ++ [{ parish := q, peer := d, rekey := false, start := now s }] } }) ∧
    (sealedNow s q = false → ∀ r, (r = .keyPairJob q d ∨ r = .installKey q d) →
      ∃ t, exec (.stewardMailboxRequest r) s = .next t ∧ t = { s with ree := { s.ree with notes := t.ree.notes, noteLost := t.ree.noteLost, noteSeq := t.ree.noteSeq } } ∧
        ∃ n, t.ree.notes.getLast? = some n ∧ n.w3 = now s) ∧
    (∀ r, (r = .parishCreated q ∨ r = .parishRetired q) →
      ∃ t, exec (.stewardMailboxRequest r) s = .next t ∧ t = { s with ree := { s.ree with sealMap := setBit s.ree.sealMap q.toNat ((parish s q.toNat).sealed && (parish s q.toNat).state != .free) } }) ∧
    (∃ t, exec (.stewardMailboxRequest (.clearFence d device m)) s = .next t ∧ t = { s with route := { s.route with fences := t.route.fences } } ∧
        (fence t d.toNat).device = ((fence s d.toNat).device && (!device || (fence s d.toNat).reeveDevice)) ∧
        (fence t d.toNat).parishes = (fence s d.toNat).parishes &&& ~~~(m &&& ~~~(fence s d.toNat).reeveParishes)) ∧
    (∀ r, (r = .spdmRelay ∨ r = .blockScrub ∨ r = .writeReeveOwned) → exec (.stewardMailboxRequest r) s = .next s))

/-! ## The Mill -/

/-- GANG_ALLOCATE: the work that is served next takes its gang; with the matrix resident there it streams once its stones are ready, else the
stones load and the matrix is read, once; an ingress matrix that no cached range covers starts a walk, one that may not be used ends its stripe;
with no work to serve, jobs whose shape no gang has end. STONE_LOAD_DONE: a stone's load ends in its turn, its cells hold its tile, and work whose
gang is ready goes on. MILL_GANG_TIMEOUT: a rotation that has waited its timeout ends with TIMEOUT. STONE_QUIET: a stone without work goes QUIET
after 2 µs outside ACTIVE, or at once under pressure; above the ceiling the highest at work freezes its gang, whose stones go QUIET. STONE_WAKE: below the
ceiling the gang that has waited longest wakes a stone, one stone in 100 ns (R314, R322 to R324, R326 to R328, R378).
Log entries 103, 104: the model's choice where the rules leave one. -/
def Obligations.GangsAndStonesTurn : Prop :=
  (∀ s s1 : State, running s = true → s1 = millClears s →
    (nextWork s1 = none → ∃ t, exec .gangAllocate s = .next t ∧ kept t = kept s ∧ deep t = deep s ∧ t = poolShrunk s1) ∧
    (∀ (w : MillWait) (k : MillTask) (g : List Nat) (x : XlState), nextWork s1 = some (w, k, g) → x = millPieces s1 w.work k →
      (x.bads = [] → x.miss = none → residentIn s1 k w.gang ((x.ranges.head?.map fun r => r.pa).getD 0) g = false →
        ∃ t, exec .gangAllocate s = .next t ∧ kept t = kept s ∧ deep t = deep s ∧ t.mil.waiting = s1.mil.waiting.filter (fun y => y.id != w.id) ∧
          (∀ n ∈ g, (stone t n).work = some w.work ∧ (stone t n).loading = true ∧ (stone t n).took = s1.mil.nextId ∧
            ∃ m, (stone t n).matrix = some m ∧ m.parish = k.q ∧ m.va = k.va ∧ m.gang = BitVec.ofNat 3 w.gang) ∧
          (∀ n, n ∉ g → stone t n = stone s1 n) ∧
          ∃ r, t.memp.reads = s1.memp.reads ++ [r] ∧ r.use = .matrix w.work ∧ r.parts = x.ranges.map (fun r => (r.pa, r.len))) ∧
      (x.bads = [] → x.miss = none → residentIn s1 k w.gang ((x.ranges.head?.map fun r => r.pa).getD 0) g = true →
        ∃ t u, exec .gangAllocate s = .next t ∧ kept t = kept s ∧ deep t = deep s ∧ t = gangGo w.work u ∧ (gangReady u w.work = false → t = u) ∧
          u = { s1 with mil := u.mil } ∧ u.mil.waiting = s1.mil.waiting.filter (fun y => y.id != w.id) ∧
          (∀ n ∈ g, (stone u n).work = some w.work ∧ (stone u n).took = s1.mil.nextId ∧ (stone u n).matrix = (stone s1 n).matrix ∧
            (stone u n).cells = (stone s1 n).cells) ∧
          ∀ n, n ∉ g → stone u n = stone s1 n) ∧
      (∀ va, x.bads = [] → x.miss = some va → ∃ t, exec .gangAllocate s = .next t ∧ kept t = kept s ∧ deep t = deep s ∧ t = startWalk k.q va true s1) ∧
      (x.bads ≠ [] → ∃ t, exec .gangAllocate s = .next t ∧ kept t = kept s ∧ deep t = deep s ∧
        ∀ id a, w.work = .ingress id → arrival? s1 id = some a → a.cmd = none → ∃ u, t = retryArrivals (refuseArrival a stAccess u) ∧
          u = { s1 with mil := u.mil, flt := { s1.flt with msgs := u.flt.msgs } } ∧ u.mil.waiting = s1.mil.waiting.filter (fun y => y.id != w.id)))) ∧
  (∀ (n : BitVec 3) (s u : State), running s = true → s.mil.loads.find? (fun m => (stone s m).running) = some n.toNat →
    u = { s with mil := { s.mil with
      loads := s.mil.loads.erase n.toNat
      stones := Tab.put {} s.mil.stones n.toNat { stone s n.toNat with
        loading := false, cells := (stone s n.toNat).tile, holds := (stone s n.toNat).matrix.map fun m => m.parish } } } →
    ∃ t, exec (.stoneLoadDone n) s = .next t ∧ kept t = kept s ∧ deep t = deep s ∧
      ((stone s n.toNat).work = none → t = u) ∧
      ∀ w, (stone s n.toNat).work = some w → t = gangGo w u ∧ (gangReady u w = false → t = u)) ∧
  (∀ (n : Nat) (s u : State) (w : MillWait), running s = true → rotationWait s n = some w → reached s w.waitEnd = true →
    u = giveBack w.work { s with mil := { s.mil with waiting := s.mil.waiting.filter (fun x => x.id != n) } } →
    ∃ t, exec (.millGangTimeout n) s = .next t ∧ kept t = kept s ∧ deep t = deep s ∧
      (∀ id, w.work = .job id → t = millClears s) ∧
      (∀ id a, w.work = .ingress id → arrival? u id = some a →
        (a.cmd = none → t = millClears (retryArrivals (refuseArrival a stTimeout u))) ∧ ∀ c, a.cmd = some c → t = millClears (failResponse a c stTimeout u)) ∧
      (∀ id c, s.mil.clears = [] → w.work = .egress id → cmd? s id = some c → c.phase = .gang → c.reading = false → c.writing = 0 → c.redo = false →
        c.fails = [] → c.lost = [] → c.late = [] → unitsOf s id = [] → s.tx.queries = [] → (∀ a ∈ s.brn.arrivals, a.cmd ≠ some id) → pkSignalled c.pkt = false →
        pkOp c.pkt ≠ opXform → pkOp c.pkt ≠ opMput → pkOp c.pkt ≠ opAmo → pkOp c.pkt ≠ opAmof → c.op = BitVec.ofNat 8 (pkOp c.pkt) →
        (∀ x ∈ t.mil.waiting, x.id ≠ n) ∧ over_ t id stTimeout)) ∧
  (∀ (n : BitVec 3) (s : State), running s = true → mayToggle s = true →
    ((stone s n.toNat).running = true →
      ((stone s n.toNat).work = none ∧ (millPressed s = true ∨ s.pwr.state ≠ .active ∧ reached s (later (stone s n.toNat).lastWork (2 * usUnits)) = true) ∨
       (stone s n.toNat).work.isSome = true ∧ (stone s n.toNat).frozen = true) →
      ∃ t, exec (.stoneQuiet n) s = .next t ∧ t = { s with mil := { s.mil with stones := t.mil.stones, toggled := some (now s) } } ∧
        ∀ m, stone t m = if m = n.toNat then { stone s m with running := false } else stone s m) ∧
    (∀ w, (stone s n.toNat).running = true → (stone s n.toNat).work = some w → (stone s n.toNat).frozen = false → s.pwr.ceiling.toNat < (drawing s).length →
      (∀ m ∈ runningStones s, (stone s m).work.isSome = true) → (∀ m ∈ drawing s, m ≤ n.toNat) →
      ∃ t, exec (.stoneQuiet n) s = .next t ∧
        t = { s with mil := { s.mil with stones := t.mil.stones, toggled := some (now s), nextId := s.mil.nextId + 1 } } ∧
        ∀ m < 8, stone t m = (if (stone s m).work = some w then
          { stone s m with running := (stone s m).running && decide (m ≠ n.toNat), frozen := true, took := s.mil.nextId } else stone s m)) ∧
    (∀ w, (stone s n.toNat).work = some w → (stone s n.toNat).running = false → mayWake s (stone s n.toNat) w = true →
      (∀ m < 8, (stone s m).running = true ∨ (stone s m).work = none ∨ (stone s n.toNat).took ≤ (stone s m).took) →
      ∃ t u, exec (.stoneWake n) s = .next t ∧ kept t = kept s ∧ deep t = deep s ∧ t = gangGo w u ∧ (gangReady u w = false → t = u) ∧
        u = { s with mil := { s.mil with stones := u.mil.stones, toggled := some (now s) } } ∧
        ∀ m < 8, stone u m = (if (stone s m).work = some w then
          { stone s m with running := (stone s m).running || decide (m = n.toNat), frozen := false } else stone s m)))

/-! ## Faults -/

/-- FAULT_MESSAGE processes the oldest message of a source's group, where it is that source's, and waits where it is another's: it takes the next SEQ; a fatal one enters the safe state; a severe source stays as
it is; an immediate one makes it severe; a counted one counts its events in a window of fixed length that opens at the first of them, and
makes it severe at N unless NEVER (R394, R399). The SEQ counts modulo 2^32 and skips 0 (R402).
Log entry 41: the model's choice where the rules leave one. -/
def Obligations.FaultsAreCounted : Prop :=
  (∀ (src : BitVec 10) (s : State), (∀ m, s.flt.msgs.find? (inGroup src) = some m → m.src ≠ src) → exec (.faultMessage (.pending src)) s = .next s) ∧
  ∀ (src : BitVec 10) (s : State) (m : FaultMsg) (p : Word) (k c : Nat) (fresh : Bool), alive s = true → s.flt.msgs.find? (inGroup src) = some m → m.src = src →
    ¬(src.toNat = srcCollector ∧ m.kind.toNat = kCollector) → k = kindRank s m.kind.toNat → p = profile s (profileNo s src.toNat) →
    fresh = (decide ((source s src.toNat).count = 0) || decide (bits p 8 32 * usUnits ≤ elapsed s (source s src.toNat).start)) →
    c = min ((if fresh then 0 else (source s src.toNat).count) + (m.rep.toNat + 1)) 255 →
    ∃ t, exec (.faultMessage (.pending src)) s = .next t ∧ t.mem = s.mem ∧ t.alm.now = s.alm.now ∧ t.flt.nextSeq = (if s.flt.nextSeq + 1 = 0 then 1 else s.flt.nextSeq + 1) ∧
      (k = 3 → t.flt.safe = true) ∧ (k ≠ 3 → t.flt.safe = s.flt.safe) ∧
      ((k = 0 ∨ k = 3 ∨ (source s src.toNat).severe = true) →
        (source t src.toNat).severe = (source s src.toNat).severe ∧ (source t src.toNat).count = (source s src.toNat).count) ∧
      ((source s src.toNat).severe = false → k = 2 → (source t src.toNat).severe = true ∧ (source t src.toNat).count = 0) ∧
      ((source s src.toNat).severe = false → k = 1 →
        (source t src.toNat).start = (if fresh then now s else (source s src.toNat).start) ∧
        (bits p 0 8 ≤ c ∧ bitAt p 63 = false → (source t src.toNat).severe = true ∧ (source t src.toNat).count = 0) ∧
        (¬(bits p 0 8 ≤ c ∧ bitAt p 63 = false) → (source t src.toNat).severe = false ∧ (source t src.toNat).count = c)) ∧
      (ringEn .fault s = false → s.flt.held.length < 256 → (source s src.toNat).severe = false → (source t src.toNat).severe = true →
        ∃ r, t.flt.held = s.flt.held ++ [r] ∧ bitAt r.w0 60 = true ∧ bits r.w0 0 32 = s.flt.nextSeq.toNat ∧ bits r.w0 48 10 = src.toNat) ∧
      (∀ n, n ≠ src.toNat → source t n = source s n)

/-- The first message that is fatal or promotes its source since FIRST was last clear is latched, with FAULT_N; a later one sets OVERFLOW only;
any other leaves both. Writing 1 to FIRST clears FIRST, OVERFLOW, FLT_FIRST and FLT_FIRST_TIME together (R404). -/
def Obligations.TheFirstErrorIsLatched : Prop :=
  (∀ (src : BitVec 10) (s : State) (m : FaultMsg) (k : Nat), alive s = true → s.flt.msgs.find? (inGroup src) = some m → m.src = src →
    ¬(src.toNat = srcCollector ∧ m.kind.toNat = kCollector) → k = kindRank s m.kind.toNat →
    ∃ t, exec (.faultMessage (.pending src)) s = .next t ∧
      (((k = 3 ∧ (s.flt.safe = false ∨ s.flt.first = true)) ∨ ((source s src.toNat).severe = false ∧ (source t src.toNat).severe = true)) →
        (s.flt.first = false → t.flt.first = true ∧ t.flt.overflow = s.flt.overflow ∧ t.flt.firstTime = now s ∧
          t.flt.firstWord = flag (k == 3) 61 ||| flag m.forced 60 ||| place src.toNat 48 10 ||| place m.kind.toNat 40 6 ||| place m.parish.toNat 32 6
            ||| place s.flt.nextSeq.toNat 0 32) ∧
        (s.flt.first = true → t.flt.first = true ∧ t.flt.overflow = true ∧ t.flt.firstTime = s.flt.firstTime ∧ t.flt.firstWord = s.flt.firstWord)) ∧
      (k ≠ 3 → (source t src.toNat).severe = (source s src.toNat).severe →
        t.flt.first = s.flt.first ∧ t.flt.overflow = s.flt.overflow ∧ t.flt.firstTime = s.flt.firstTime ∧ t.flt.firstWord = s.flt.firstWord)) ∧
  (∀ (v : Word) (s : State), served s → bitAt v 1 = true →
    ∃ t, exec (.fltFirstClear .operator v) s = .next t ∧ t = { s with flt := { s.flt with
      first := false, overflow := false, firstWord := 0, firstTime := 0, ringLost := s.flt.ringLost && !(bitAt v 3) } })

/-- A forced event enters at its source where FORCE_EN allows it, and is ACCESS otherwise; clearing a source zeroes its count and makes it not
severe, and undoes nothing else, but that a lane so cleared lets its link widen (R218, R401, R406). The collector's own fault enters the safe
state without a SEQ (R407); Steward's watchdog is FIRMWARE; a corrected word is reported, an uncorrectable one fails what depends on it: a window
entry is invalid (R23, R24, R396), and comparator 7 times the rounds in which words are read (R376). A message that sets FIRST asserts FAULT_N;
the pulse ends after 1 µs, and the pin then follows PIN, but in the safe state, in which a fatal message sets OVERFLOW alone (R405, R408). An event
that reports now is numbered with the oldest of its group; a read that is served raises nothing (R399).
Log entries 43, 49, 70, 183: the model's choice where the rules leave one. -/
def Obligations.FaultsAreForcedAndCleared : Prop :=
  (∀ (src : BitVec 10) (s : State) (m : FaultMsg), alive s = true → s.flt.msgs.find? (inGroup src) = some m → m.src = src →
    ¬(src.toNat = srcCollector ∧ m.kind.toNat = kCollector) →
    ∃ t, exec (.faultMessage (.pending src)) s = .next t ∧
      (s.flt.safe = false → s.flt.first = false → t.flt.first = true → t.flt.pulse = some (now s) ∧ t.pins.fault = true) ∧
      (kindRank s m.kind.toNat = 3 → s.flt.safe = true →
        t.flt.first = s.flt.first ∧ t.flt.overflow = true ∧ t.flt.firstTime = s.flt.firstTime ∧ t.flt.firstWord = s.flt.firstWord)) ∧
  (∀ (s : State) (at_ : Time), alive s = true → s.flt.pulse = some at_ → reached s (later at_ usUnits) = true →
    ∃ t, exec .faultPulseEnd s = .next t ∧ t = { s with flt := { s.flt with pulse := none }, pins := { s.pins with fault := s.flt.safe || bitAt s.flt.ctl 8 } }) ∧
  (∀ (c : BitVec 5) (s : State), running s = true → hasCroft s c.toNat = true → (∀ m ∈ s.flt.msgs, faultGroup m.src.toNat ≠ faultGroup (srcCroft c.toNat)) →
    ∃ t, exec (.faultMessage (.crossing c)) s = .next t ∧ t.flt.nextSeq = (if s.flt.nextSeq + 1 = 0 then 1 else s.flt.nextSeq + 1)) ∧
  (∀ (a : BitVec 29) (s : State), served s → (∀ m ∈ s.flt.msgs, faultGroup m.src.toNat ≠ faultGroup srcCtrlp) →
    (a.toNat % 8 = 0 → mayRead s .operator a.toNat = true → regThere s a.toNat = true → exec (.faultMessage (.read .operator a 8)) s = .next s) ∧
    ((mayRead s .operator a.toNat = false ∨ regThere s a.toNat = false) →
      ∃ t, exec (.faultMessage (.read .operator a 8)) s = .next t ∧ t.flt.nextSeq = (if s.flt.nextSeq + 1 = 0 then 1 else s.flt.nextSeq + 1))) ∧
  (∀ (v : Word) (s : State), served s →
    (bits v 62 2 = 1 → bitAt s.ree.fltCtl 0 = true → 1 ≤ bits v 10 6 → bits v 10 6 ≤ 0x2E → srcListed (bits v 0 10) = true → srcPresent s (bits v 0 10) = true →
      (∀ x ∈ s.flt.msgs, faultGroup x.src.toNat ≠ faultGroup (bits v 0 10)) →
      ∃ t m, exec (.fltForce .operator v) s = .next t ∧ t = { s with flt := { s.flt with msgs := s.flt.msgs ++ [m] } } ∧
        m.src = BitVec.ofNat 10 (bits v 0 10) ∧ m.kind = BitVec.ofNat 6 (bits v 10 6) ∧ m.forced = true ∧ m.addr = 0 ∧ m.cmds = []) ∧
    (bits v 62 2 = 1 → bitAt s.ree.fltCtl 0 = false →
      ∃ t, exec (.fltForce .operator v) s = .next t ∧ t = { s with flt := { s.flt with msgs := t.flt.msgs } } ∧ flagged t srcCtrlp) ∧
    (bits v 62 2 = 2 → srcListed (bits v 0 10) = true →
      ∃ t, exec (.fltClearSource .operator v) s = .next t ∧ t = { s with flt := { s.flt with sources := t.flt.sources }, lnk := t.lnk } ∧
        t.flt.sources = (Tab.put {} s.flt.sources (bits v 0 10) { source s (bits v 0 10) with severe := false, count := 0 }) ∧
        (0xC0 ≤ bits v 0 10 → t.lnk = s.lnk) ∧
        ∀ p, bits v 0 10 < 0xC0 → p = bits v 0 10 / 2 → (link s p).joined = true → (link s p).lanes ≠ 3 → (link s p).lanes ≠ 0 → (link s p).narrow = .none →
          mayWiden { s with flt := t.flt } p = true → (link t p).widthReq = some 3)) ∧
  (∀ s : State, alive s = true → s.flt.safe = false → s.dap.accs = [] → ∀ i, (i = .collectorSelfFault ∨ (i = .patrolScrub .collectorState .double ∧ running s = true)) →
    ∃ t, exec i s = .next t ∧ t.flt.safe = true ∧ t.flt.nextSeq = s.flt.nextSeq ∧ t.pins.fault = true ∧ t.mem = s.mem ∧ t.eng = s.eng ∧
      t.ree = { s.ree with fltSafe := flag true 63 ||| place 0x1FB 48 10 ||| place 0x2E 40 6 } ∧
      (s.flt.first = false → t.flt.firstWord = flag true 61 ||| place 0x1FB 48 10 ||| place 0x2E 40 6 ∧ t.flt.firstTime = now s) ∧ t.flt.first = true) ∧
  (∀ (pc : BitVec 52) (s : State), alive s = true → s.stw.running = true →
    ∃ t, exec (.stewardWatchdog pc) s = .next t ∧ kept t = kept s ∧ t = { s with flt := { s.flt with msgs := t.flt.msgs } } ∧ flagged t srcSteward) ∧
  (∀ (w : SramWord) (s : State), running s = true → srcListed (wordSource w) = true → srcPresent s (wordSource w) = true →
    ((cmpOf s 7).en = true → reached s (cmpOf s 7).compare = true → ∃ t, exec (.patrolScrub w .clean) s = .next t ∧ t = { s with alm := { s.alm with
      fired := setBit s.alm.fired 7 true, cmps := Tab.put {} s.alm.cmps 7 { compare := later (now s) patrolUnits, en := true } } }) ∧
    (((cmpOf s 7).en = false ∨ reached s (cmpOf s 7).compare = false) →
    exec (.patrolScrub w .clean) s = .next s ∧
    (∃ t, exec (.patrolScrub w .single) s = .next t ∧ t = { s with flt := { s.flt with msgs := t.flt.msgs } } ∧ flagged t (wordSource w)) ∧
    (∀ h, w = .windowEntry h → s.wins.cached.contains h.toNat = true →
      ∃ t, exec (.patrolScrub w .double) s = .next t ∧ flagged t srcWindows ∧
        t = { s with flt := { s.flt with msgs := t.flt.msgs }, wins := { s.wins with entries := (Tab.put {} s.wins.entries h.toNat { win s h.toNat with valid := false }) } })))

/-! ## Curfew -/

/-- A request arms an idle Curfew at its stop time, a fabric one with a CURFEW flit on every live link; armed, a later time changes nothing;
stopped, the request is counted as ignored. A flit without REMOTE_EN is counted as refused, and a further copy of one that has been acted
on changes nothing (R429, R430). At the stop time comparator 1 fires and the block stops, with CURFEW_OUT_N and with the stop stamps of
its domains (R376, R431).
Log entries 53, 55, 186: the model's choice where the rules leave one. -/
def Obligations.CurfewsArmAndStop : Prop :=
  (∀ (s : State) (fabric : Bool) (stop : Time), curfewHears s = true → fabric = bitAt s.cur.ctl 1 →
    stop = later (now s) (16 * (if fabric then bits s.cur.ctl 48 16 else bits s.cur.ctl 32 16)) →
    (s.cur.state = .idle → ∃ t, exec .curfewIn s = .next t ∧ kept t = kept s ∧
      t.cur = { s.cur with state := .armed, stopTime := stop, origin := ownId s, originKind := 1, fabric := fabric, lateNs := 0, done := false
                           count := if fabric then s.cur.count + 1 else s.cur.count, curfewId := if fabric then s.cur.count + 1 else s.cur.curfewId } ∧
      cmpOf t 1 = { compare := stop, en := true } ∧ (fabric = false → t.lnk = s.lnk) ∧
      (fabric = true → ∀ p < s.part.links, linkLive (link s p) = true →
        (link t p).curfewq = (link s p).curfewq ++ [(stop, place (s.cur.count + 1).toNat 16 32 ||| place (ownId s).toNat 0 9)])) ∧
    (s.cur.state = .armed → earlier stop s.cur.stopTime = false → exec .curfewIn s = .next s) ∧
    (stoppedByCurfew s = true → ∃ t, exec .curfewIn s = .next t ∧
      t = { s with cur := { s.cur with ignored := if s.cur.ignored = 255 then 255 else s.cur.ignored + 1 } })) ∧
  (∀ (l : BitVec 7) (w0 w1 : Word) (s : State), curfewHears s = true → linkHears s l = true → s.gbl.fabricValid = true →
    (bitAt s.cur.ctl 2 = false → ∃ t, exec (.curfewFlit l w0 w1) s = .next t ∧
      t = { s with cur := { s.cur with refused := if s.cur.refused = 255 then 255 else s.cur.refused + 1 } }) ∧
    (bitAt s.cur.ctl 2 = true → s.cur.fabric = true → s.cur.origin = w1.extractLsb' 0 9 → s.cur.curfewId = w1.extractLsb' 16 32 →
      exec (.curfewFlit l w0 w1) s = .next s) ∧
    (bitAt s.cur.ctl 2 = true → s.cur.state = .idle → ¬(s.cur.fabric = true ∧ s.cur.origin = w1.extractLsb' 0 9 ∧ s.cur.curfewId = w1.extractLsb' 16 32) →
      ∃ t, exec (.curfewFlit l w0 w1) s = .next t ∧ kept t = kept s ∧ t.cur = { s.cur with
        state := .armed, stopTime := w0, origin := w1.extractLsb' 0 9, originKind := 3, fabric := true, done := false, curfewId := w1.extractLsb' 16 32
        lateNs := if reached s w0 then BitVec.ofNat 16 (min 65535 (elapsed s w0 / 16)) else 0 })) ∧
  (∀ s : State, curfewHears s = true → s.cur.state = .armed → (cmpOf s 1).en = true → reached s (cmpOf s 1).compare = true →
    ∃ t, exec .curfewStop s = .next t ∧ t = { s with
      cur := { s.cur with state := .stopped, stoppedAt := now s, stamps := t.cur.stamps, scan := s.free }, pins := { s.pins with curfewOut := true }
      alm := { s.alm with fired := setBit s.alm.fired 1 true, cmps := Tab.put {} s.alm.cmps 1 { cmpOf s 1 with en := false } }
      gbl := { s.gbl with eventStatus := setBit s.gbl.eventStatus 16 true }, free := s.free + 1 } ∧
      t.cur.stamps.length = 40 ∧ ∀ x ∈ t.cur.stamps, x = now s ∨ (s.pwr.gated = true ∧ x = s.pwr.gatedAt))

/-- A stopped block writes its dump, which begins with MAGIC and holds the state as it was at the cut, and no byte outside the dump's region; JTAG shifts
BYPASS and IDCODE at any time and a word of the cut while the block is stopped, and changes nothing but its own registers (R433). RELEASE is
accepted once DONE is set. At the restart time work goes on: the length of the stop is added to every timeout, joined links retrain with
their sequence numbers, and under HALT a command in flight ends HALTED (R434).
Log entries 53, 54, 57: the model's choice where the rules leave one. -/
def Obligations.CurfewsDumpAndRelease : Prop :=
  (∀ s : State, curfewHears s = true → (s.cur.state = .stopped ∨ s.cur.state = .dumping) → s.cur.done = false →
    ∃ t, exec .curfewDumpDone s = .next t ∧ t.cur = { s.cur with state := .dumping, done := true } ∧ { kept t with mem := [] } = { kept s with mem := [] } ∧
      t.gbl.eventStatus.getLsbD 17 = true ∧ t.lnk = s.lnk ∧ t.eng = s.eng ∧ t.tx = s.tx ∧ t.brn = s.brn ∧
      (∀ a, (a < s.cur.dumpBase.toNat ∨ s.cur.dumpBase.toNat + 0x1000000 + 1024 * ((dumpSrams s.part).map Prod.fst).sum ≤ a) → Memory.read t.mem a = Memory.read s.mem a) ∧
      (bitAt s.cur.ctl 3 = false → bitAt s.cur.ctl 4 = false → t.mem = s.mem) ∧
      ((bitAt s.cur.ctl 3 = true ∨ bitAt s.cur.ctl 4 = true) →
        (List.range 4).map (fun i => Memory.read t.mem (s.cur.dumpBase.toNat + i)) = [0x43, 0x52, 0x55, 0x46]) ∧
      (bitAt s.cur.ctl 3 = true → ∀ i < 12 * 2 ^ 20, Memory.read t.mem (s.cur.dumpBase.toNat + 0x1000 + i) = cutByte s (0x1000 + i))) ∧
  (∀ s : State, s.pins.pwrOk = true →
    (∀ tdi a, ∃ t, exec (.jtagDumpShift (.bypass tdi) a) s = .next t ∧ t = { s with cur := { s.cur with jtagBit := tdi } }) ∧
    (∀ a, ∃ t, exec (.jtagDumpShift .idcode a) s = .next t ∧ t = { s with cur := { s.cur with jtagWord := s.part.idcode.zeroExtend 64 } }) ∧
    (∀ sel a, (stoppedByCurfew s = true ∨ s.flt.safe = true) →
      ∃ t, exec (.jtagDumpShift (.dump sel) a) s = .next t ∧ t = { s with cur := { s.cur with jtagSel := sel, jtagWord := cutWord s sel a } }) ∧
    (∀ sel a, stoppedByCurfew s = false → s.flt.safe = false → exec (.jtagDumpShift (.dump sel) a) s = .next s)) ∧
  (∀ (v : Word) (s : State), s.flt.safe = false → ctrlpOpen s = true → s.pwr.state ≠ .parked → s.cur.state = .dumping → s.cur.done = true →
    1000 ≤ bits v 48 16 → 64 ≤ bits v 32 16 →
    (bits v 5 2 = 1 → ∃ t, exec (.curfewReleaseContinue .operator v) s = .next t ∧
      t = { s with cur := { s.cur with ctl := merge s.cur.ctl v (maskAt 32 32 ||| maskAt 1 4), state := .releasing, halt := false } }) ∧
    (bits v 5 2 = 2 → ∃ t, exec (.curfewReleaseHalt .operator v) s = .next t ∧
      t = { s with cur := { s.cur with ctl := merge s.cur.ctl v (maskAt 32 32 ||| maskAt 1 4), state := .releasing, halt := true } })) ∧
  (∀ (s : State) (d : Nat), curfewHears s = true → s.cur.state = .releasing → reached s s.cur.restart = true → s.cur.heldAccesses = [] → s.lnk.forcedWait = [] →
    s.pwr.state ≠ .parked → d = elapsed s s.cur.stoppedAt →
    (s.cur.halt = false →
      ∃ t, exec .curfewRestart s = .next t ∧ toStill (kept t) = toStill (kept s) ∧ t.cur.state = .idle ∧ t.cur.done = false ∧ t.pins.curfewOut = false ∧
        t.tx.units = s.tx.units.map (fun u => { u with waitEnd := later u.waitEnd d, deadline := later u.deadline d }) ∧
        t.ter.recs = s.ter.recs.map (fun r => { r with time := later r.time d }) ∧
        ∀ p, (link s p).joined = true → ((link s p).state = .up ∨ (link s p).state = .lpi) →
          (link t p).state = .retraining ∧ (link t p).nextSeq = (link s p).nextSeq ∧ (link t p).expected = (link s p).expected ∧ (link t p).replay = (link s p).replay) ∧
    (∀ c, s.cur.halt = true → s.eng.cmds = [c] → c.phase ≠ .active → c.phase ≠ .done → c.admitted = false → c.targets = [] → ownWrites s c.id = false →
      ∃ t, exec .curfewRestart s = .next t ∧ t.cur.state = .idle ∧ over_ t c.id stHalted ∧
        ∀ x, chan? s c.ch = some x → x.state = .running → ∃ y, chan? t c.ch = some y ∧ (y.state = .parking ∨ y.state = .stopped)))

/-! ## Register writes -/

/-- A served write of an RW register within its ranges takes effect, whole, and nothing else changes; one out of its ranges, or of an RO register,
or where no register lies, is ignored with CONFIG. The plain registers of the global page, those that link pages hold for the Granary, and those of the
parish pages are listed with their fields and ranges; BASE, LOG2 and DUMP_BASE are locked while their unit is enabled. HEAD of a ring moves forward, and
not past TAIL. Parish software writes MASK and HOLDOFF of its own page (R138, R157, R228, R463, R470, R471, R475). An access that its requestor may not
make is dropped with ACCESS, and so is every write in the safe state; a parked block holds an access that would wake it (R380, R465, R466).
Log entries 44, 64, 73: the model's choice where the rules leave one. -/
def Obligations.WritesAreJudgedWhole : Prop :=
  (∀ (v : Word) (s : State), served s →
    (∀ (a : BitVec 29) (r : RegSpec), a.toNat % 8 = 0 → isBell a.toNat = false → ¬(0x100000 ≤ a.toNat ∧ a.toNat < 0x200000) → regAt s false a.toNat = some r →
      (r.rw = true → r.ok (merge r.old v r.mask) v = true → exec (.registerWrite .operator a 8 v) s = .next (replayHeld (r.act (merge r.old v r.mask) v s))) ∧
      ((r.rw = false ∨ r.ok (merge r.old v r.mask) v = false) →
        ∃ t, exec (.registerWrite .operator a 8 v) s = .next t ∧ t = { s with flt := { s.flt with msgs := t.flt.msgs } } ∧ flagged t srcCtrlp)) ∧
    (∀ a : BitVec 29, isBell a.toNat = false → ¬(0x100000 ≤ a.toNat ∧ a.toNat < 0x200000) → (a.toNat % 8 ≠ 0 ∨ regAt s false a.toNat = none) →
      ∃ t, exec (.registerWrite .operator a 8 v) s = .next t ∧ t = { s with flt := { s.flt with msgs := t.flt.msgs } } ∧ flagged t srcCtrlp) ∧
    (∀ x ∈ ([(0x30, place s.gbl.txnMs.toNat 0 10, maskAt 0 10, fun n => decide (1 ≤ bits n 0 10) && decide (bits n 0 10 ≤ 1000),
              fun n => { s with gbl := { s.gbl with txnMs := n.extractLsb' 0 10 } }),
             (0x1000, s.gbl.chnBase, maskAt 12 40, fun n => !(bitAt s.gbl.chnCtl 5) || n == s.gbl.chnBase, fun n => { s with gbl := { s.gbl with chnBase := n } }),
             (0x1008, s.gbl.chnCtl, maskAt 0 6, fun n => decide (10 ≤ bits n 0 5) && decide (bits n 0 5 ≤ 21) && (!(bitAt s.gbl.chnCtl 5) || bits s.gbl.chnCtl 0 5 == bits n 0 5)
                && (bitAt n 5 || !(bitAt s.gbl.chnCtl 5) || (s.chn.chans.isEmpty && s.chn.ovf.isEmpty && !(s.chn.waits.any fun w => w.table))),
              fun n => { s with gbl := { s.gbl with chnCtl := n } }),
             (0x1010, s.gbl.winBase, maskAt 12 40, fun n => !(bitAt s.gbl.winCtl 5) || n == s.gbl.winBase, fun n => { s with gbl := { s.gbl with winBase := n } }),
             (0x1018, s.gbl.winCtl, maskAt 0 6, fun n => decide (10 ≤ bits n 0 5) && decide (bits n 0 5 ≤ 20) && (!(bitAt s.gbl.winCtl 5) || bits s.gbl.winCtl 0 5 == bits n 0 5),
              fun n => if !(bitAt s.gbl.winCtl 5) && bitAt n 5 then { s with gbl := { s.gbl with winCtl := n }, wins := { s.wins with entries := [], cached := [] } }
                else { s with gbl := { s.gbl with winCtl := n } }),
             (0x1020, s.gbl.notify.base, maskAt 12 40, fun n => !(bitAt s.gbl.notify.ctl 5) || n == s.gbl.notify.base,
              fun n => { s with gbl := { s.gbl with notify := { s.gbl.notify with base := n } } }),
             (0x1028, s.gbl.notify.ctl, maskAt 16 10 ||| maskAt 8 1 ||| maskAt 0 6, fun n => decide (6 ≤ bits n 0 5) && decide (bits n 0 5 ≤ 16) && (!(bitAt s.gbl.notify.ctl 5) || bits s.gbl.notify.ctl 0 5 == bits n 0 5),
              fun n => { s with gbl := { s.gbl with notify := { s.gbl.notify with ctl := n } } }),
             (0x1040, s.gbl.terBase, maskAt 12 40, fun n => !(bitAt s.gbl.terCtl 5) || n == s.gbl.terBase, fun n => { s with gbl := { s.gbl with terBase := n } }),
             (0x2008, s.tal.ctl, maskAt 0 16, fun n => bits n 0 8 != 0 && bits n 8 8 != 0, fun n => { s with tal := { s.tal with ctl := n } }),
             (0x3008, s.gbl.eventMask, maskAt 20 1 ||| maskAt 16 3 ||| maskAt 8 5 ||| maskAt 0 4, fun _ => true, fun n => { s with gbl := { s.gbl with eventMask := n } }),
             (0x3020, s.stw.logBase, maskAt 12 40, fun n => !(bitAt s.stw.logCtl 5) || n == s.stw.logBase, fun n => { s with stw := { s.stw with logBase := n } }),
             (0x4010, s.alm.serdesLat, maskAt 0 32, fun n => n == s.alm.serdesLat || noLinkUp s, fun n => { s with alm := { s.alm with serdesLat := n } }),
             (0x5018, s.cur.restart, maskAt 0 64, fun _ => true, fun n => { s with cur := { s.cur with restart := n } }),
             (0x5020, s.cur.dumpBase, maskAt 21 31, fun n => n == s.cur.dumpBase || s.cur.state == .idle, fun n => { s with cur := { s.cur with dumpBase := n } }),
             (0x7020, s.flt.base, maskAt 12 40, fun n => !(bitAt s.flt.ctl 5) || n == s.flt.base, fun n => { s with flt := { s.flt with base := n } }),
             (0x8000, s.obs.ctl, maskAt 48 16 ||| maskAt 7 6 ||| maskAt 0 2, fun n => decide (1 ≤ bits n 48 16) && decide (bits n 48 16 ≤ 60000) && decide (1 ≤ bits n 8 5) && decide (bits n 8 5 ≤ 16) && decide (bits n 0 2 ≤ 2),
              fun n => { s with obs := { s.obs with ctl := n } }),
             (0x8008, s.obs.snapBase, maskAt 12 40, fun _ => true, fun n => { s with obs := { s.obs with snapBase := n } }),
             (0x8010, s.obs.watchCurfew, maskAt 0 64, fun _ => true, fun n => { s with obs := { s.obs with watchCurfew := n } })] :
             List (BitVec 29 × Word × Word × (Word → Bool) × (Word → State))),
      (x.2.2.2.1 (merge x.2.1 v x.2.2.1) = true → exec (.registerWrite .operator x.1 8 v) s = .next (x.2.2.2.2 (merge x.2.1 v x.2.2.1))) ∧
      (x.2.2.2.1 (merge x.2.1 v x.2.2.1) = false →
        ∃ t, exec (.registerWrite .operator x.1 8 v) s = .next t ∧ t = { s with flt := { s.flt with msgs := t.flt.msgs } } ∧ flagged t srcCtrlp)) ∧
    (∀ p : BitVec 7, hasLink s p.toNat = true → p.toNat < 96 → ∀ n, n = merge (link s p.toNat).granaryBase v (maskAt 16 36) →
      ((link s p.toNat).en = false ∨ n = (link s p.toNat).granaryBase) →
      exec (.registerWrite .operator (BitVec.ofNat 29 (lnkCtlAddr p.toNat + 0x10)) 8 v) s = .next (setLink p.toNat { link s p.toNat with granaryBase := n } s)) ∧
    (∀ q : BitVec 6,
      (bits v 0 2 ≤ 2 → exec (.registerWrite .operator (BitVec.ofNat 29 (0x400050 + 0x10000 * q.toNat)) 8 v) s =
        .next { s with par := Tab.put {} s.par q.toNat { parish s q.toNat with terMode := v.extractLsb' 0 2 } }) ∧
      exec (.registerWrite .operator (BitVec.ofNat 29 (0x400058 + 0x10000 * q.toNat)) 8 v) s =
        .next { s with par := Tab.put {} s.par q.toNat { parish s q.toNat with terRoot := merge (parish s q.toNat).terRoot v (maskAt 11 41) } } ∧
      (((parish s q.toNat).state = .active ∨ (parish s q.toNat).state = .retiring) → 6 ≤ bits (parish s q.toNat).notify.ctl 0 5 → bits (parish s q.toNat).notify.ctl 0 5 ≤ 16 →
        exec (.registerWrite (.parish q) (BitVec.ofNat 29 (0x400038 + 0x10000 * q.toNat)) 8 v) s = .next { s with par := Tab.put {} s.par q.toNat { parish s q.toNat with
          notify := { (parish s q.toNat).notify with ctl := merge (parish s q.toNat).notify.ctl v (maskAt 16 10 ||| maskAt 8 1) } } })) ∧
    (∀ x ∈ ([(0x1058, .terrier), (0x3030, .steward), (0x7028, .fault)] : List (BitVec 29 × RingId)), s.ter.unwritten = [] → s.stw.held = [] → s.flt.held = [] →
      (dist32 (v.extractLsb' 0 32) (ringGet x.2 s).head ≤ dist32 (ringGet x.2 s).tail (ringGet x.2 s).head →
        exec (.registerWrite .operator x.1 8 v) s = .next (ringSet x.2 { ringGet x.2 s with head := v.extractLsb' 0 32 } s)) ∧
      (dist32 (ringGet x.2 s).tail (ringGet x.2 s).head < dist32 (v.extractLsb' 0 32) (ringGet x.2 s).head →
        ∃ t, exec (.registerWrite .operator x.1 8 v) s = .next t ∧ t = { s with flt := { s.flt with msgs := t.flt.msgs } } ∧ flagged t srcCtrlp)) ∧
    (∀ (a : BitVec 29) (q : BitVec 6), a.toNat / 0x10000 ≠ 0x40 + q.toNat → isBell a.toNat = false → a.toNat % 8 = 0 →
      ∃ t, exec (.registerWrite (.parish q) a 8 v) s = .next t ∧ t = { s with flt := { s.flt with msgs := t.flt.msgs } } ∧ flagged t srcCtrlp)) ∧
  (∀ (who : Who) (a : BitVec 29) (size : BitVec 4) (v : Word) (s : State), s.pins.pwrOk = true → s.pins.aonReset = false → who ≠ .reeve → s.flt.safe = true →
    s.cur.heldAccesses = [] →
    ∃ t, exec (.registerWrite who a size v) s = .next t ∧ t = { s with flt := { s.flt with msgs := t.flt.msgs } } ∧ flagged t srcCtrlp) ∧
  (∀ (who : Who) (a : BitVec 29) (v : Word) (s : State), s.flt.safe = false → stoppedByCurfew s = false → ctrlpOpen s = true → s.pwr.state = .parked →
    s.cur.heldAccesses = [] → who ≠ .reeve → who ≠ .internal → parkedServes a.toNat = false →
    ∃ t, exec (.registerWrite who a 8 v) s = .next t ∧ t = { s with cur := { s.cur with heldAccesses := [(who, a, 8, some v)] } })

/-- The register writes with rows of their own: PAR_IRQ_FORCE sets SOFT; CRF_CTL and MAX_RATE start speed changes, or while one is in progress name the next; LNK_CTL trains a link, puts
it OFF, or asks for a width; MIL_POOL moves idle stones at once, others when their work has ended; a comparator is armed, and fires if it is due; GBL_TER_FAULT_CTL
with EN clear aborts the open records. A notification's holdoff ends (R91, R159, R212, R214, R228, R321, R330, R377, R384, R477).
Log entries 67, 68, 178: the model's choice where the rules leave one. -/
def Obligations.RegisterWritesAct : Prop :=
  ∀ (v : Word) (s : State), served s →
    (∀ q : BitVec 6, ∃ t, exec (.parIrqForce .operator q v) s = .next t ∧
      t = { s with par := Tab.put {} s.par q.toNat { parish s q.toNat with soft := (parish s q.toNat).soft || bitAt v 1 } }) ∧
    (∀ c : BitVec 5, hasCroft s c.toNat = true → maxRate s ≤ bits v 0 2 → bits v 0 2 ≤ 2 →
      (∀ r, (croft s c.toNat).rateTo = some r → ∃ t, exec (.crfCtlRate .operator c v) s = .next t ∧
        t = { s with lnk := { s.lnk with crofts :=
          (Tab.put {} s.lnk.crofts c.toNat { croft s c.toNat with rateNext := if r = v.extractLsb' 0 2 then none else some (v.extractLsb' 0 2) }) } }) ∧
      ((croft s c.toNat).rateTo = none → (croft s c.toNat).rate ≠ v.extractLsb' 0 2 →
      ∃ t, exec (.crfCtlRate .operator c v) s = .next t ∧ kept t = kept s ∧ croft t c.toNat = { croft s c.toNat with rateTo := some (v.extractLsb' 0 2) } ∧
        ∀ p ∈ linksOf c.toNat, (link s p).joined = true → linkFree (link s p) = true → (link s p).speedAck = false → (link s p).speedReq = false →
          (link t p).speedReq = true ∧ (link t p).ctrlq = (link s p).ctrlq ++ [(0x03, place (bits v 0 2) 0 2, 0, 0)])) ∧
    (∀ l : BitVec 7, hasLink s l.toNat = true → l.toNat < 96 → 10 ≤ bits v 32 14 → bits v 32 14 ≤ 10000 → bits v 16 15 ≤ 32511 → bits v 1 2 ≤ 2 →
      ((link s l.toNat).en = false → bitAt v 0 = true → croftRemoved s (l.toNat / 3) = false →
        ∃ t, exec (.lnkCtlEn .operator l v) s = .next t ∧ kept t = kept s ∧ (link t l.toNat).en = true ∧ (link t l.toNat).joined = false ∧
          (link t l.toNat).state = (if s.gbl.calibrated.getLsbD (l.toNat / 3) then .training else .calibrating)) ∧
      ((link s l.toNat).en = true → bitAt v 0 = false → bits v 16 15 = (link s l.toNat).granaryFlits.toNat → s.tx.units = [] →
        ∃ t, exec (.lnkCtlEn .operator l v) s = .next t ∧ kept t = kept s ∧ (link t l.toNat).en = false ∧ (link t l.toNat).state = .off ∧ (link t l.toNat).joined = false) ∧
      ((link s l.toNat).en = true → bitAt v 0 = true → bits v 16 15 = (link s l.toNat).granaryFlits.toNat → 1 ≤ bits v 1 2 → (link s l.toNat).joined = true →
        linkFree (link s l.toNat) = true → (link s l.toNat).lanes.toNat ≠ bits v 1 2 →
        ∃ t, exec (.lnkCtlWidth .operator l v) s = .next t ∧ kept t = kept s ∧ (link t l.toNat).width = v.extractLsb' 1 2 ∧ (link t l.toNat).narrow = .operator ∧
          (link t l.toNat).widthReq = some (v.extractLsb' 1 2) ∧ (link t l.toNat).ctrlq = (link s l.toNat).ctrlq ++ [(0x01, place (bits v 1 2) 0 2, 0, 0)])) ∧
    (bits v 4 2 ≤ 2 →
      ∃ t, exec (.pwrCtlMaxRate .operator v) s = .next t ∧ kept t = kept s ∧
        t.pwr = { s.pwr with ctl := merge s.pwr.ctl v (maskAt 8 8 ||| maskAt 4 2 ||| maskAt 0 2) } ∧
        ∀ c < 32, hasCroft s c = true →
          (croft t c).rateTo = (if (croft s c).rate.toNat < bits v 4 2 ∧ (croft s c).rateTo = none then some (v.extractLsb' 4 2) else (croft s c).rateTo) ∧
          ∀ r, (croft s c).rateTo = some r → (croft s c).rate.toNat < bits v 4 2 →
            (croft t c).rateNext = (if r = v.extractLsb' 4 2 then none else some (v.extractLsb' 4 2))) ∧
    (s.part.m = true →
      ((∀ n < 8, bits v (2 * n) 2 ≠ 3) → s.eng.cmds = [] →
        ∃ t, exec (.milPool .operator v) s = .next t ∧ kept t = kept s ∧ t.mil.pool = v.extractLsb' 0 16 ∧ t.mil.autoOos = 0 ∧
          ∀ n < 8, stone t n = (if (v.toNat / 4 ^ n) % 4 = poolSet s n then stone s n
            else if (stone s n).work.isSome then { stone s n with dropAfter := true, oldPool := some (poolOf s n) } else { stone s n with matrix := none })) ∧
      ((∃ n < 8, bits v (2 * n) 2 = 3) →
        ∃ t, exec (.milPool .operator v) s = .next t ∧ t = { s with flt := { s.flt with msgs := t.flt.msgs } } ∧ flagged t srcMill)) ∧
    (∀ n : BitVec 4, 8 ≤ n.toNat → bitAt v 0 = true →
      (reached s (cmpOf s n.toNat).compare = false →
        ∃ t, exec (.almCmpArm .operator n v) s = .next t ∧ t = { s with alm := { s.alm with cmps := (Tab.put {} s.alm.cmps n.toNat
          { cmpOf s n.toNat with period := v.extractLsb' 4 32, wake := bitAt v 1, en := true }) } }) ∧
      (reached s (cmpOf s n.toNat).compare = true →
        ∃ t, exec (.almCmpArm .operator n v) s = .next t ∧ kept t = kept s ∧ t.alm.fired = setBit s.alm.fired n.toNat true)) ∧
    (bitAt v 5 = false → 6 ≤ bits v 0 5 → bits v 0 5 ≤ 16 → 1 ≤ bits v 32 14 → bits v 32 14 ≤ 10000 → s.ter.noRec = [] → bitAt s.gbl.terCtl 5 = true →
      bits s.gbl.terCtl 0 5 = bits v 0 5 →
      (s.ter.recs = [] → ∃ t, exec (.terFaultEnClear .operator v) s = .next t ∧
        t = { s with gbl := { s.gbl with terCtl := merge s.gbl.terCtl v (maskAt 32 14 ||| maskAt 0 6) }, ter := { s.ter with unwritten := [] } }) ∧
      (∀ r id x, s.ter.recs = [r] → r.waiters = [.cmd id] → cmd? s id = some x → x.phase = .parked → x.admitted = false → x.targets = [] → ownWrites s id = false →
        (∀ a ∈ s.brn.arrivals, a.cmd ≠ some id) →
        ∃ t, exec (.terFaultEnClear .operator v) s = .next t ∧ kept t = kept s ∧ t.ter.recs = [] ∧ t.ter.unwritten = [] ∧ over_ t id stAborted ∧
          ∀ y, cmd? t id = some y → y.faultSeq = r.seq)) ∧
    (∀ (o : Owner) (at_ : Time), running s = true → (notifyOf o s).since = some at_ → reached s (later at_ (bits (notifyOf o s).ctl 16 10 * usUnits)) = true →
      ∃ t, exec (.notifyHoldoffExpiry o) s = .next t ∧ t = modNotify o (fun n => { n with holdDone := true }) s)

/-! ## Resets and start-up -/

/-- A reset of the block leaves what R439 names of the AON domain, REE_FLT_SAFE and GBL_FW_LOC, ends the writes already at the ports, and resets
the rest; AON_RESET_N resets all (R439). Released, Reeve starts and writes its policy from the one-time-programmable store; a copied image
whose header is right and whose SVN is not too low is accepted if its signature verifies; another leaves BOOT and FAILED, and both Steward memories
zeroed (R343, R344); once the SRAMs are clear the control port opens, the controller's comparators are armed and crofts calibrate; each then trains its
enabled links, and the last makes STAGE READY (R376, R440, R442).
Log entries 45, 46, 47, 71, 72, 135, 159, 183: the model's choice where the rules leave one. -/
def Obligations.TheBlockStarts : Prop :=
  (∀ s : State,
    (∀ i, (i = .blockReset ∨ i = .pwrOkLow) →
      ∃ t, exec i s = .next t ∧ t.alm.now = s.alm.now ∧ t.alm.state = s.alm.state ∧ (∀ n, 8 ≤ n → cmpOf t n = cmpOf s n) ∧ t.ree.fltSafe = s.ree.fltSafe ∧
        t.stw.fwPages = s.stw.fwPages ∧ t.part = s.part ∧ t.otp = s.otp ∧ t.pins = { aonReset := s.pins.aonReset, pwrOk := i == .blockReset && s.pins.pwrOk, blockReset := true } ∧
        t.flt = {} ∧ t.gbl = {} ∧ t.chn = {} ∧ t.eng = {} ∧ t.memp = {} ∧ t.ter = {} ∧ t.wins = {} ∧ t.dap = {} ∧ t.route = {} ∧ t.tal = {} ∧ t.tx = {} ∧ t.brn = {} ∧
        t.sig = {} ∧ t.groups = [] ∧ t.lnk = {} ∧ t.mil = {} ∧ t.par = [] ∧ t.obs = {} ∧ t.cur = {} ∧ t.pwr = {} ∧
        t.mem = (s.memp.writes.map fun w => w.cells).foldl Memory.writeAll s.mem) ∧
    (∃ t, exec .aonReset s = .next t ∧ t = { State.reset with
      part := s.part, otp := s.otp, pins := { aonReset := true, pwrOk := s.pins.pwrOk, blockReset := true }, free := s.free, pending := s.pending
      mem := (s.memp.writes.map fun w => w.cells).foldl Memory.writeAll s.mem }) ∧
    (∃ t, exec .aonResetRelease s = .next t ∧ t = { s with pins := { s.pins with aonReset := false } }) ∧
    (s.pins.aonReset = false → ∃ t, exec .pwrOkHigh s = .next t ∧ t = { s with pins := { s.pins with pwrOk := true } })) ∧
  (∀ s : State, s.pins.pwrOk = true → s.pins.aonReset = false →
    (s.pins.blockReset = true →
      ∃ t, exec .blockResetRelease s = .next t ∧ t.pins = { s.pins with blockReset := false } ∧ t.gbl = { s.gbl with stage := .reeveRom } ∧
        t.ree.pwrFloor = s.otp.pwrFloor ∧ t.ree.pwrBrake = s.otp.pwrBrake ∧ t.ree.orphan = s.otp.orphan ∧ t.ree.fltCount = s.otp.fltCount ∧
        t.ree.fltImm = s.otp.fltImm ∧ t.ree.fltFatal = s.otp.fltFatal ∧ t.ree.fltSafe = s.ree.fltSafe) ∧
    (s.pins.blockReset = false →
      (s.gbl.stage = .reeveRom →
        ∃ t, exec (.fwVerifyDone .romFails) s = .next t ∧ kept t = kept s ∧ t.gbl = { s.gbl with stage := .failed } ∧ t.otp = s.otp ∧ t.ree.boot = 4 ∧
          t.ree.fltSafe = s.ree.fltSafe ∧ t.stw = { s.stw with code := [], data := [] }) ∧
      (s.gbl.stage = .fwLoad → s.ree.fwCopied = true →
        (∀ res, res ≠ .romFails → headerOk s = true → s.otp.svn.toNat ≤ (fwHeader s).svn.toNat → (res = .checked ∨ commits s = false) →
          ∃ t, exec (.fwVerifyDone res) s = .next t ∧ kept t = kept s ∧
            (signatureOk s = true → t.gbl = { s.gbl with stage := .sramClear } ∧ t.ree.boot = 2 ∧ t.ree.fwSvn = (fwHeader s).svn ∧
              t.stw = { s.stw with entry := (fwHeader s).entry } ∧ t.otp = { s.otp with svn := if commits s then (fwHeader s).svn else s.otp.svn }) ∧
            (signatureOk s = false → t.gbl = { s.gbl with stage := .failed } ∧ t.ree.boot = 3 ∧ t.otp = s.otp ∧ t.stw = { s.stw with code := [], data := [] })) ∧
        (∀ res, res ≠ .romFails → (headerOk s = false ∨ (fwHeader s).svn.toNat < s.otp.svn.toNat ∨ (res = .otpFails ∧ commits s = true)) →
          ∃ t, exec (.fwVerifyDone res) s = .next t ∧ kept t = kept s ∧ t.gbl = { s.gbl with stage := .failed } ∧ t.ree.boot = 3 ∧ t.otp = s.otp ∧
            t.stw = { s.stw with code := [], data := [] })) ∧
      (s.gbl.stage = .sramClear →
        ∃ t, exec .sramClearDone s = .next t ∧ kept t = kept s ∧ t.gbl = { s.gbl with stage := .calibrating } ∧ t.stw = { s.stw with running := true } ∧
          t.lnk = s.lnk ∧ (s.part.grain.toNat ≤ 4 → t.flt = s.flt) ∧ cmpOf t 2 = { compare := later (now s) (bits s.ree.orphan 0 16 * msUnits), en := true } ∧
          cmpOf t 5 = { compare := later (now s) msUnits, en := true } ∧ cmpOf t 6 = { compare := later (now s) (10 * msUnits), en := true } ∧
          cmpOf t 7 = { compare := later (now s) patrolUnits, en := true }) ∧
      (∀ (c : BitVec 5) (bad : BitVec 6), s.gbl.stage = .calibrating → stoppedByCurfew s = false → hasCroft s c.toNat = true → s.gbl.calFinished.getLsbD c.toNat = false →
        (∃ t, exec (.startupCalibrationDone c true bad) s = .next t ∧ kept t = kept s ∧ t.gbl.calibrated.getLsbD c.toNat = true ∧
          t.gbl.calFinished = setBit s.gbl.calFinished c.toNat true ∧ croft t c.toNat = { croft s c.toNat with pllLock := true, calLast := now s } ∧
          (t.gbl.stage = .ready ↔ ∀ k < 32, hasCroft s k = true → k = c.toNat ∨ s.gbl.calFinished.getLsbD k = true) ∧
          ∀ p ∈ linksOf c.toNat, (link s p).en = true → (link s p).state = .calibrating → (link t p).state = .training) ∧
        (∃ t, exec (.startupCalibrationDone c false bad) s = .next t ∧ kept t = kept s ∧ t.gbl.calibrated = setBit s.gbl.calibrated c.toNat false ∧
          t.gbl.calFinished = setBit s.gbl.calFinished c.toNat true ∧ t.lnk.links = s.lnk.links ∧ flagged t (srcCroft c.toNat)))))

/-! ## The whole machine -/

/-- A step takes the command at the front of the queue and is its execution on the state with the queue's rest; with an empty queue one AON
cycle passes: Almanac moves on by its increment, a checked ROM goes on to the image, whose read is issued in class 3 with both Steward memories
zeroed, a stopped block to its dump, and nothing else changes (R28, R344, R365; log entries 2, 159: the model's choice). -/
def Obligations.AStepRunsTheFrontCommand : Prop :=
  (∀ (c : Instr) (rest : List Instr) (s : State), step { s with pending := c :: rest } = exec c { s with pending := rest }) ∧
  (∀ s : State, s.pending = [] →
    (s.pins.aonReset = true → step s = .next s) ∧
    (s.pins.aonReset = false → ∃ t, step s = .next t ∧
      t = { s with alm := { s.alm with now := t.alm.now, frac := t.alm.frac }, gbl := { s.gbl with stage := t.gbl.stage }, ree := { s.ree with boot := t.ree.boot }
                   stw := t.stw, memp := t.memp, cur := { s.cur with state := t.cur.state } } ∧
      t.alm.now.toNat * 2 ^ 32 + t.alm.frac.toNat = (((s.alm.now.toNat * 2 ^ 32 + s.alm.frac.toNat : Int) + 640 * 2 ^ 32 + s.alm.rate) % 2 ^ 96).toNat ∧
      ((s.pins.pwrOk = true ∧ s.pins.blockReset = false ∧ s.gbl.stage = .reeveRom) →
        t.gbl.stage = .fwLoad ∧ t.ree.boot = 1 ∧ t.stw = { s.stw with code := [], data := [] } ∧
        ∃ r : ReadReq, r.use = .image ∧ r.cls = 3 ∧ r.id = s.memp.nextId ∧ r.parts = [(4096 * bits s.stw.fwPages 12 40, 4096 * imagePages s)] ∧
          t.memp = { s.memp with reads := s.memp.reads ++ [r], nextId := s.memp.nextId + 1 }) ∧
      (¬(s.pins.pwrOk = true ∧ s.pins.blockReset = false ∧ s.gbl.stage = .reeveRom) → t.gbl = s.gbl ∧ t.ree = s.ree ∧ t.stw = s.stw ∧ t.memp = s.memp) ∧
      t.cur.state = (if s.cur.state = .stopped then .dumping else s.cur.state)))

/-- Every step keeps memory in its canonical form, so that equal memories are equal data, and gives each new command a number that no
command in flight has. -/
def Obligations.StepsKeepTheInvariant : Prop :=
  ∀ s t : State, Memory.wf s.mem = true → fresh s → step s = .next t → Memory.wf t.mem = true ∧ fresh t

/-- The state right after reset meets the invariant, and holds the values that the spec gives: the safe state, links, windows, tallies and
Curfew as R438 and the register tables say (R157, R179, R253, R330, R391, R413, R437, R439, R444, R445); no command waits.
Log entry 13: the model's choice where the rules leave one. -/
def Obligations.ResetIsAsTheTablesSay : Prop :=
  Memory.wf State.reset.mem = true ∧ fresh State.reset ∧ State.reset.pending = [] ∧ State.reset.alm.now = 0 ∧ State.reset.alm.state = .freeRun ∧
  State.reset.alm.ctl = 0x3E800000000#64 ∧ State.reset.alm.serdesLat = 0 ∧ State.reset.alm.steps = 0xFF ∧ State.reset.alm.parent = 0x7F ∧ State.reset.alm.fired = 0 ∧
  State.reset.pwr.ctl = 0x2001#64 ∧ State.reset.pwr.state = .active ∧ State.reset.pwr.throttle = 0x40 ∧ State.reset.pwr.ceiling = 8 ∧ State.reset.pwr.overshoot = 0 ∧
  effCap State.reset = 0xFFFF ∧ State.reset.ree.pwrFloor = 0x600000#64 ∧ State.reset.ree.pwrBrake = 0x8#64 ∧ State.reset.ree.orphan = 0x7D00032#64 ∧
  State.reset.route.ctl = 0xC80000#64 ∧ State.reset.route.linkUp = 0 ∧ State.reset.gbl.fabricValid = false ∧ State.reset.gbl.fabricMode = false ∧ State.reset.gbl.fabricId = 0 ∧
  State.reset.gbl.stage = .reset ∧ State.reset.gbl.calibrated = 0 ∧ State.reset.flt.safe = false ∧ State.reset.flt.first = false ∧ State.reset.flt.nextSeq = 1 ∧
  State.reset.mil.pool = 0x5500 ∧ State.reset.mil.autoOos = 0 ∧ State.reset.mil.unchecked = 0 ∧ State.reset.mil.mismatch = 0 ∧
  State.reset.obs.ctl = 0x3E8000000000400#64 ∧ diagMode State.reset = true ∧ State.reset.obs.cnt = [] ∧ State.reset.obs.watches = [] ∧
  State.reset.cur.ctl = 0xFA0010000000008#64 ∧ State.reset.cur.state = .idle ∧ State.reset.cur.done = false ∧ State.reset.pins.fault = false ∧ State.reset.pins.curfewOut = false

/-- No command stops the block (log entry 4: the model's choice) or alters its part or its queue. Only a reset, the dump and the memory ports
change memory; only a reset leaves the safe state, and a reset other than AON_RESET_N leaves REE_FLT_SAFE as it was; only TIME_FLIT, TIME_SET and
AON_RESET_N move Almanac other than by its own counting (R365, R366, R409, R431, R457). -/
def Obligations.WhatNoCommandDoes : Prop :=
  ∀ (c : Instr) (s : State), ∃ t, exec c s = .next t ∧ t.part = s.part ∧ t.pending = s.pending ∧
    ((∀ i w, c ≠ .mempReadResponse i w) → (∀ i, c ≠ .mempWriteAck i) → (∀ i w, c ≠ .mempErrorResponse i w) → c ≠ .curfewDumpDone →
      c ≠ .aonReset → c ≠ .blockReset → c ≠ .pwrOkLow → t.mem = s.mem) ∧
    (s.flt.safe = true → t.flt.safe = true ∨ c = .aonReset ∨ ((c = .blockReset ∨ c = .pwrOkLow) ∧ t.ree.fltSafe = s.ree.fltSafe)) ∧
    ((∀ l w0 w1 w2 w3, c ≠ .timeFlit l w0 w1 w2 w3) → (∀ ch pkt, c ≠ .timeSet ch pkt) → c ≠ .aonReset → t.alm.now = s.alm.now)
end

