-- ==== Sys2Proof/Laws/Kept.lean ====
section
/-! SUPPORT. What almost every operation leaves alone: local memory, the part, the queue, the safe state, the time, and which commands are
in flight (number, channel, parish, opcode, ring entry, record index, engine, start). Each operation has one lemma `<name>_kept`. -/

namespace Sys2Proof.Laws

open Sys2Proof.Machine Sys2Proof.Safety

theorem still_mem {s t : State} (h : toStill (kept t) = toStill (kept s)) : t.mem = s.mem := congrArg Still.mem h
theorem still_part {s t : State} (h : toStill (kept t) = toStill (kept s)) : t.part = s.part := congrArg Still.part h
theorem still_pending {s t : State} (h : toStill (kept t) = toStill (kept s)) : t.pending = s.pending := congrArg Still.pending h
theorem still_safe {s t : State} (h : toStill (kept t) = toStill (kept s)) : t.flt.safe = s.flt.safe := congrArg Still.safe h
theorem still_now {s t : State} (h : toStill (kept t) = toStill (kept s)) : t.alm.now = s.alm.now := congrArg Still.now h
theorem still_of_kept {s t : State} (h : kept t = kept s) : toStill (kept t) = toStill (kept s) := congrArg toStill h

/-! ## How the lemmas compose -/

@[simp] theorem kept_mk (part otp pins gbl alm pwr flt ree stw chn eng memp ter wins dap route tal tx brn sig groups lnk mil par obs cur mem free pending) :
    kept ⟨part, otp, pins, gbl, alm, pwr, flt, ree, stw, chn, eng, memp, ter, wins, dap, route, tal, tx, brn, sig, groups, lnk, mil, par, obs, cur,
      mem, free, pending⟩ = ⟨mem, part, pending, flt.safe, alm.now, eng.nextId, eng.cmds.map keyOf⟩ := rfl

@[simp] theorem kept_fold (s : State) :
    Kept.mk s.mem s.part s.pending s.flt.safe s.alm.now s.eng.nextId (s.eng.cmds.map keyOf) = kept s := rfl

@[simp] theorem toStill_mk (a b c d e f g) : toStill ⟨a, b, c, d, e, f, g⟩ = ⟨a, b, c, d, e⟩ := rfl

@[simp] theorem still_fold (s : State) : Still.mk s.mem s.part s.pending s.flt.safe s.alm.now = toStill (kept s) := rfl

@[simp] theorem kept_ite (c : Prop) [Decidable c] (a b : State) : kept (if c then a else b) = if c then kept a else kept b := by split <;> rfl

@[simp] theorem toStill_ite (c : Prop) [Decidable c] (a b : Kept) : toStill (if c then a else b) = if c then toStill a else toStill b := by split <;> rfl

/-- What each step of a fold leaves alone, the fold leaves alone. -/
theorem keeps_foldl {α β : Type} (view : State → β) (f : State → α → State) (s : State) (h : ∀ s x, view (f s x) = view s) (l : List α) :
    view (l.foldl f s) = view s :=
  List.foldlRecOn (motive := fun t => view t = view s) l f rfl fun t ht x _ => (h t x).trans ht

@[simp] theorem kept_foldl {α : Type} (f : State → α → State) (l : List α) (s : State) (h : ∀ s x, kept (f s x) = kept s) :
    kept (l.foldl f s) = kept s :=
  keeps_foldl kept f s h l

@[simp] theorem still_foldl {α : Type} (f : State → α → State) (l : List α) (s : State) (h : ∀ s x, toStill (kept (f s x)) = toStill (kept s)) :
    toStill (kept (l.foldl f s)) = toStill (kept s) :=
  keeps_foldl (fun s => toStill (kept s)) f s h l

@[simp] theorem kept_elim {α : Type} (o : Option α) (s : State) (f : α → State) (h : ∀ x, kept (f x) = kept s) : kept (o.elim s f) = kept s := by
  cases o
  · rfl
  · exact h _

@[simp] theorem keyOf_mk (id ch parish op pkt ringIx recIx engine rejected start hangAt phase spans ranges bads recs noRecord profile tables index
    needTags targets next srcOff admitted staged reading writing moved halt fails lost late status result plane device
    faultSeq doneAt redo was kept outw) :
    keyOf ⟨id, ch, parish, op, pkt, ringIx, recIx, engine, rejected, start, hangAt, phase, spans, ranges, bads, recs, noRecord, profile,
      tables, index, needTags, targets, next, srcOff, admitted, staged, reading, writing, moved, halt, fails, lost, late,
      status, result, plane, device, faultSeq, doneAt, redo, was, kept, outw⟩
      = ⟨id, ch, parish, op, ringIx, recIx, engine, start⟩ := rfl

@[simp] theorem key_fold (c : Cmd) : CmdKey.mk c.id c.ch c.parish c.op c.ringIx c.recIx c.engine c.start = keyOf c := rfl

@[simp] theorem keyOf_ite (c : Prop) [Decidable c] (a b : Cmd) : keyOf (if c then a else b) = if c then keyOf a else keyOf b := by split <;> rfl

@[simp] theorem map_modFirst (p f) (l : List Cmd) (h : ∀ c, keyOf (f c) = keyOf c) : (modFirst p f l).map keyOf = l.map keyOf := by
  induction l with
  | nil => rfl
  | cons a l ih => simp only [modFirst]; split <;> simp [h, ih]

end Sys2Proof.Laws
end

