-- ==== Sys2Proof/Laws/KeptOps.lean ====
section
/-! SUPPORT. What each operation leaves alone (Laws/Kept.lean): the operations on memory, channels, routes and tables. -/

namespace Sys2Proof.Laws

open Sys2Proof Sys2Proof.Machine Sys2Proof.Safety

/-! ## Ops -/

@[simp] theorem State.drawn_kept (s : State) : kept (State.drawn s) = kept s := by
  simp [State.drawn]

@[simp] theorem setLink_kept (p : Nat) (l : Link) (s : State) : kept (setLink p l s) = kept s := by
  simp [setLink]

@[simp] theorem modLink_kept (p : Nat) (f : Link → Link) (s : State) : kept (modLink p f s) = kept s := by
  simp [modLink]

@[simp] theorem modCroft_kept (c : Nat) (f : Croft → Croft) (s : State) : kept (modCroft c f s) = kept s := by
  simp [modCroft]

@[simp] theorem modParish_kept (q : Nat) (f : Parish → Parish) (s : State) : kept (modParish q f s) = kept s := by
  simp [modParish]

@[simp] theorem modStone_kept (n : Nat) (f : Stone → Stone) (s : State) : kept (modStone n f s) = kept s := by
  simp [modStone]

@[simp] theorem modWin_kept (h : Nat) (f : Win → Win) (s : State) : kept (modWin h f s) = kept s := by
  simp [modWin]

@[simp] theorem modSrcTally_kept (d : Nat) (f : SrcTally → SrcTally) (s : State) : kept (modSrcTally d f s) = kept s := by
  simp [modSrcTally]

@[simp] theorem modTgtTally_kept (d : Nat) (f : TgtTally → TgtTally) (s : State) : kept (modTgtTally d f s) = kept s := by
  simp [modTgtTally]

@[simp] theorem modFence_kept (d : Nat) (f : Fence → Fence) (s : State) : kept (modFence d f s) = kept s := by
  simp [modFence]

@[simp] theorem modSlot_kept (n : Nat) (f : PairSlot → PairSlot) (s : State) : kept (modSlot n f s) = kept s := by
  simp [modSlot]

@[simp] theorem modCmd_kept (id : Nat) (f : Cmd → Cmd) (s : State) (h : ∀ c, keyOf (f c) = keyOf c) : kept (modCmd id f s) = kept s := by
  unfold modCmd; simp [h]

@[simp] theorem modArrival_kept (id : Nat) (f : Arrival → Arrival) (s : State) : kept (modArrival id f s) = kept s := by
  simp [modArrival]

@[simp] theorem modUnit_kept (id : Nat) (f : Xu → Xu) (s : State) : kept (modUnit id f s) = kept s := by
  simp [modUnit]

@[simp] theorem issueRead_kept (use : ReadFor) (parts : List (Nat × Nat)) (cls : BitVec 3) (agent : Option (BitVec 6)) (span : Option (BitVec 6 × Nat × Nat)) (s : State) : kept (issueRead use parts cls agent span s) = kept s := by
  simp [issueRead]

@[simp] theorem issueWrite_kept (use : WriteFor) (cells : List (Nat × Byte)) (cls : BitVec 3) (wake : Bool) (agent : Option (BitVec 6)) (span : Option (BitVec 6 × Nat × Nat)) (s : State) : kept (issueWrite use cells cls wake agent span s) = kept s := by
  simp [issueWrite]

@[simp] theorem raiseMsg_kept (e : FaultMsg) (s : State) : kept (raiseMsg e s) = kept s := by
  simp [raiseMsg]

@[simp] theorem raise_kept (src k addr : Nat) (cmds : List Nat) (q : Option (BitVec 6)) (s : State) : kept (raise src k addr cmds q s) = kept s := by
  simp [raise]

@[simp] theorem raiseMemport_kept (port pa : Nat) (cmds : List Nat) (q : Option (BitVec 6)) (s : State) : kept (raiseMemport port pa cmds q s) = kept s := by
  simp [raiseMemport]

@[simp] theorem ringSet_kept (r : RingId) (x : Ring) (s : State) : kept (ringSet r x s) = kept s := by
  unfold ringSet; (repeat' split) <;> simp

@[simp] theorem ringPut_kept (r : RingId) (ws : List Word) (s : State) : kept (ringPut r ws s) = kept s := by
  simp [ringPut]

@[simp] theorem ringAck_kept (r : RingId) (ix : BitVec 32) (s : State) : kept (ringAck r ix s) = kept s := by
  simp [ringAck]

@[simp] theorem modNotify_kept (o : Owner) (f : Notify → Notify) (s : State) : kept (modNotify o f s) = kept s := by
  unfold modNotify; (repeat' split) <;> simp

@[simp] theorem notifyOverflow_kept (o : Owner) (s : State) : kept (notifyOverflow o s) = kept s := by
  unfold notifyOverflow; (repeat' split) <;> simp

@[simp] theorem notify_kept (o : Owner) (e : Word) (s : State) : kept (notify o e s) = kept s := by
  simp [notify]

@[simp] theorem notifyPending_kept (o : Owner) (s : State) : kept (notifyPending o s) = kept s := by
  simp [notifyPending]

@[simp] theorem event_kept (i : Nat) (s : State) : kept (event i s) = kept s := by
  simp [event]

@[simp] theorem markFired_kept (n : Nat) (s : State) : kept (markFired n s) = kept s := by
  simp [markFired]

@[simp] theorem modCmp_kept (n : Nat) (f : Cmp → Cmp) (s : State) : kept (modCmp n f s) = kept s := by
  simp [modCmp]

@[simp] theorem cmpAt_kept (n : Nat) (t : Time) (s : State) : kept (cmpAt n t s) = kept s := by
  unfold cmpAt; (repeat' split) <;> simp

@[simp] theorem cmpNext_kept (n d : Nat) (s : State) : kept (cmpNext n d s) = kept s := by
  simp [cmpNext]

@[simp] theorem cmpOff_kept (n : Nat) (s : State) : kept (cmpOff n s) = kept s := by
  unfold cmpOff; (repeat' split) <;> simp

@[simp] theorem linkEvent_kept (i p : Nat) (s : State) : kept (linkEvent i p s) = kept s := by
  simp [linkEvent]

@[simp] theorem logPut_kept (e : LogEntry) (s : State) : kept (logPut e s) = kept s := by
  simp [logPut]

@[simp] theorem logFlush_kept (n : Nat) (s : State) : kept (logFlush n s) = kept s := by
  induction n generalizing  s with
  | zero => rfl
  | succ n ih => unfold logFlush; (repeat' split); all_goals simp [ih]

@[simp] theorem logEntry_kept (code : Nat) (a0 a1 : Word) (s : State) : kept (logEntry code a0 a1 s) = kept s := by
  simp [logEntry]

@[simp] theorem note_kept (kind cause gen : Nat) (q : BitVec 6) (peer : BitVec 9) (tag : BitVec 16) (detail detail2 : Nat) (s : State) : kept (note kind cause gen q peer tag detail detail2 s) = kept s := by
  simp [note]

/-! ## Terrier -/

@[simp] theorem touchCache_kept (q : BitVec 6) (va : Nat) (s : State) : kept (touchCache q va s) = kept s := by
  unfold touchCache; (repeat' split) <;> simp

@[simp] theorem install_kept (e : CacheEnt) (s : State) : kept (install e s) = kept s := by
  simp [install]

@[simp] theorem beginWalk_kept (w : WalkReq) (s : State) : kept (beginWalk w s) = kept s := by
  unfold beginWalk; (repeat' split) <;> simp

@[simp] theorem offerWalk_kept (s : State) (w : WalkReq) : kept (offerWalk s w) = kept s := by
  unfold offerWalk; (repeat' split) <;> simp

@[simp] theorem pumpWalks_kept (s : State) : kept (pumpWalks s) = kept s := by
  unfold pumpWalks; (repeat' split) <;> simp

@[simp] theorem startWalk_kept (q : BitVec 6) (va : Nat) (ingress : Bool) (s : State) : kept (startWalk q va ingress s) = kept s := by
  simp [startWalk]

@[simp] theorem terFlush_kept (n : Nat) (s : State) : kept (terFlush n s) = kept s := by
  induction n generalizing  s with
  | zero => rfl
  | succ n ih => unfold terFlush; (repeat' split); all_goals simp [ih]

@[simp] theorem terWrite_kept (r : TerRec) (s : State) : kept (terWrite r s) = kept s := by
  simp [terWrite]

@[simp] theorem terSeq_kept (s : State) : kept (terSeq s) = kept s := by
  simp [terSeq]

@[simp] theorem countTable_kept (f : TerFault) (s : State) : kept (countTable f s) = kept s := by
  unfold countTable; (repeat' split) <;> simp

@[simp] theorem takeRecord_kept (w : Requester) (s : State) (f : TerFault) : kept (takeRecord w s f) = kept s := by
  unfold takeRecord; (repeat' split) <;> simp

@[simp] theorem openRecords_kept (fs : List TerFault) (w : Requester) (s : State) : kept (openRecords fs w s) = kept s := by
  unfold openRecords; (repeat' split) <;> simp

@[simp] theorem seatOne_kept (s : State) (x : Requester × TerFault) : kept (seatOne s x) = kept s := by
  unfold seatOne; (repeat' split) <;> simp

@[simp] theorem seatWaiting_kept (s : State) : toStill (kept (seatWaiting s)) = toStill (kept s) := by
  unfold seatWaiting; (repeat' split) <;> simp

@[simp] theorem leaveRecords_kept (w : Requester) (s : State) : kept (leaveRecords w s) = kept s := by
  simp [leaveRecords]

@[simp] theorem withRoute_kept (r : Route) (s : State) : kept (withRoute r s) = kept s := by
  simp [withRoute]

/-! ## Egress -/

@[simp] theorem issueGrant_kept (d : Nat) (s : State) : kept (issueGrant d s) = kept s := by
  simp [issueGrant]

@[simp] theorem issueAll_kept (s : State) : kept (issueAll s) = kept s := by
  simp [issueAll]

@[simp] theorem grantSent_kept (d : Nat) (s : State) : kept (grantSent d s) = kept s := by
  simp [grantSent]

@[simp] theorem advanceCursor_kept (s : State) (multi : Bool) (ds : List (BitVec 9)) (mask : BitVec 96) : kept (advanceCursor s multi ds mask) = kept s := by
  simp [advanceCursor]

@[simp] theorem queueTxn_kept (p : Nat) (t : Txn) (slots : List (BitVec 256)) (unit : Option Nat) (s : State) : kept (queueTxn p t slots unit s) = kept s := by
  simp [queueTxn]

@[simp] theorem takeRelease_kept (d : BitVec 9) (s : State) : kept (takeRelease d s).2 = kept s := by
  unfold takeRelease; (repeat' split); all_goals simp

@[simp] theorem withdrawGrants_kept (d : BitVec 9) (s : State) : kept (withdrawGrants d s) = kept s := by
  simp [withdrawGrants]

@[simp] theorem stampSlots_kept (xs : List (BitVec 256 × Bool × Option (BitVec 9))) (s : State) : kept (stampSlots xs s).2 = kept s := by
  induction xs generalizing s with
  | nil => rfl
  | cons x xs ih =>
    obtain ⟨w, b, d⟩ := x
    cases d
    · exact ih s
    · refine (ih _).trans ?_; rw [withdrawGrants_kept, grantSent_kept]; exact takeRelease_kept _ _

@[simp] theorem advanceCtr_kept (n : Nat) (ans : Bool) (s : State) : kept (advanceCtr n ans s) = kept s := by
  simp [advanceCtr]

@[simp] theorem authAnswer_kept (q gen answered) (t : Txn) (s : State) : kept (authAnswer q gen answered t s).2 = kept s := by
  unfold authAnswer; (repeat' split); all_goals simp

@[simp] theorem sendUncharged_kept (via : Via) (t : Txn) (s : State) : kept (sendUncharged via t s) = kept s := by
  unfold sendUncharged; simp; (repeat' split) <;> simp

@[simp] theorem answer_kept (via : Via) (q : BitVec 6) (t : Txn) (k : Nat) (st : BitVec 8) (s : State) : kept (answer via q t k st s) = kept s := by
  unfold answer; (repeat' split) <;> simp

@[simp] theorem addUnit_kept (use : UnitFor) (dests : List (BitVec 9)) (q : Option (BitVec 6)) (pinned : Option Nat) (t : Txn) (s : State) : kept (addUnit use dests q pinned t s) = kept s := by
  simp [addUnit]

@[simp] theorem sealFreed_kept (old s : State) : kept (sealFreed old s) = kept s := by
  unfold sealFreed; (repeat' split) <;> simp

@[simp] theorem dropUnits_kept (hit : Xu → Bool) (s : State) : kept (dropUnits hit s) = kept s := by
  unfold dropUnits; (repeat' split) <;> simp

@[simp] theorem ghostEnds_kept (g : Xu) (d : BitVec 9) (s : State) : kept (ghostEnds g d s) = kept s := by
  unfold ghostEnds; (repeat' split) <;> simp

@[simp] theorem changeSlots_kept (d : Nat) (f : SigSlots → SigSlots) (s : State) : kept (changeSlots d f s) = kept s := by
  simp [changeSlots]

@[simp] theorem takeSigSlot_kept (u : Xu) (d : Nat) (s : State) : kept (takeSigSlot u d s) = kept s := by
  unfold takeSigSlot; (repeat' split) <;> simp

@[simp] theorem launch_kept (u : Xu) (p : Nat) (s : State) : kept (launch u p s) = kept s := by
  unfold launch; simp; (repeat' split) <;> simp

@[simp] theorem launchSelf_kept (u : Xu) (s : State) : kept (launchSelf u s) = kept s := by
  simp [launchSelf]

/-! ## Channels -/

@[simp] theorem putChan_kept (ch : BitVec 21) (c : Chan) (s : State) : kept (putChan ch c s) = kept s := by
  simp [putChan]

@[simp] theorem dropChan_kept (ch : BitVec 21) (s : State) : kept (dropChan ch s) = kept s := by
  simp [dropChan]

@[simp] theorem modChan_kept (ch : BitVec 21) (f : Chan → Chan) (s : State) : kept (modChan ch f s) = kept s := by
  unfold modChan; (repeat' split) <;> simp

@[simp] theorem fetch_kept (ch : BitVec 21) (s : State) : kept (fetch ch s) = kept s := by
  unfold fetch; (repeat' split) <;> simp

@[simp] theorem writeBack_kept (use : WriteFor) (ch : BitVec 21) (c : Chan) (s : State) : kept (writeBack use ch c s) = kept s := by
  simp [writeBack]

@[simp] theorem orphanRing_kept (ch : BitVec 21) (s : State) : kept (orphanRing ch s) = kept s := by
  unfold orphanRing; (repeat' split) <;> simp

@[simp] theorem orphanWait_kept (ch : BitVec 21) (s : State) : kept (orphanWait ch s) = kept s := by
  unfold orphanWait; (repeat' split) <;> simp

@[simp] theorem evict_kept (n : Nat) (c : Chan) (s : State) : kept (evict n c s) = kept s := by
  unfold evict; (repeat' split) <;> simp

@[simp] theorem queueOverflow_kept (ch : BitVec 21) (s : State) : kept (queueOverflow ch s) = kept s := by
  unfold queueOverflow; (repeat' split) <;> simp

@[simp] theorem rotateOut_kept (ch : BitVec 21) (c : Chan) (s : State) : kept (rotateOut ch c s) = kept s := by
  unfold rotateOut; (repeat' split) <;> simp

theorem cacheRoom_kept (s t : State) (h : cacheRoom s = some t) : kept t = kept s := by
  unfold cacheRoom at h
  (repeat' split at h) <;> cases h <;> simp

@[simp] theorem enterCache_kept (ch : BitVec 21) (s : State) : kept (enterCache ch s) = kept s := by
  unfold enterCache
  (repeat' split) <;> first | simp; done | (rename_i h; simp [cacheRoom_kept _ _ h])

@[simp] theorem readDesc_kept (ch : BitVec 21) (s : State) : kept (readDesc ch s) = kept s := by
  simp [readDesc]

@[simp] theorem loadDesc_kept (ch : BitVec 21) (s : State) : kept (loadDesc ch s) = kept s := by
  unfold loadDesc; (repeat' split) <;> simp

@[simp] theorem takeTurn_kept (ch : BitVec 21) (q : BitVec 6) (lvl : Nat) (s : State) : kept (takeTurn ch q lvl s) = kept s := by
  unfold takeTurn; (repeat' split) <;> simp

@[simp] theorem chargeDeficit_kept (q : BitVec 6) (lvl : Nat) (pkt : List Word) (s : State) : kept (chargeDeficit q lvl pkt s) = kept s := by
  simp [chargeDeficit]

@[simp] theorem tidyDeficits_kept (s : State) : kept (tidyDeficits s) = kept s := by
  unfold tidyDeficits; (repeat' split) <;> simp

/-! ## Watch -/

@[simp] theorem count_kept (i n : Nat) (s : State) : kept (count i n s) = kept s := by
  simp [count]

@[simp] theorem countPar_kept (q : BitVec 6) (i n : Nat) (s : State) : kept (countPar q i n s) = kept s := by
  simp [countPar]

@[simp] theorem holdDiag_kept (s : State) : kept (holdDiag s) = kept s := by
  simp [holdDiag]

@[simp] theorem filterCounts_kept (base bytes ns : Nat) (add : Nat → Nat → State → State) (top : Nat → Nat → State → State) (s : State) (h_add : ∀ x0 x1 s, kept (add x0 x1 s) = kept s) (h_top : ∀ x0 x1 s, kept (top x0 x1 s) = kept s) : kept (filterCounts base bytes ns add top s) = kept s := by
  unfold filterCounts; simp [*]

@[simp] theorem countMax_kept (i n : Nat) (s : State) : kept (countMax i n s) = kept s := by
  simp [countMax]

@[simp] theorem countParMax_kept (q : BitVec 6) (i n : Nat) (s : State) : kept (countParMax q i n s) = kept s := by
  simp [countParMax]

@[simp] theorem countCommand_kept (c : Cmd) (s : State) : kept (countCommand c s) = kept s := by
  unfold countCommand; (repeat' split) <;> simp

@[simp] theorem bytesOut_kept (q : BitVec 6) (n : Nat) (s : State) : kept (bytesOut q n s) = kept s := by
  simp [bytesOut]

@[simp] theorem bytesIn_kept (q : BitVec 6) (n : Nat) (s : State) : kept (bytesIn q n s) = kept s := by
  simp [bytesIn]

@[simp] theorem tracePut_kept (q : BitVec 6) (ws : List Word) (s : State) : kept (tracePut q ws s) = kept s := by
  simp [tracePut]

@[simp] theorem traceMark_kept (q : BitVec 6) (ch : BitVec 21) (ix : BitVec 32) (pkt : List Word) (s : State) : kept (traceMark q ch ix pkt s) = kept s := by
  simp [traceMark]

@[simp] theorem curfewFlits_kept (stop : Time) (origin : BitVec 9) (cid : BitVec 32) (s : State) : kept (curfewFlits stop origin cid s) = kept s := by
  simp [curfewFlits]

@[simp] theorem armCurfew_kept (stop : Time) (fabric : Bool) (kind : Nat) (flit : Option (BitVec 9 × BitVec 32)) (s : State) : kept (armCurfew stop fabric kind flit s) = kept s := by
  simp [armCurfew]

@[simp] theorem watchHit_kept (n : Nat) (w : Watch) (q : BitVec 6) (first src cls : Nat) (s : State) : kept (watchHit n w q first src cls s) = kept s := by
  simp [watchHit]

@[simp] theorem watchTest_kept (hit : Watch → Bool) (cls src : Nat) (runs : List (Nat × Nat)) (s : State) : kept (watchTest hit cls src runs s) = kept s := by
  unfold watchTest; (repeat' split) <;> (first | (simp; done) | (refine (kept_foldl _ _ _ ?_).trans (by simp); intros; (try dsimp only); (repeat' split); all_goals simp; done))

@[simp] theorem watchLocal_kept (q : BitVec 6) (cls : Nat) (runs : List (Nat × Nat)) (s : State) : kept (watchLocal q cls runs s) = kept s := by
  simp [watchLocal]

@[simp] theorem watchWindow_kept (h : BitVec 20) (cls src : Nat) (runs : List (Nat × Nat)) (s : State) : kept (watchWindow h cls src runs s) = kept s := by
  simp [watchWindow]

end Sys2Proof.Laws
end

