-- ==== Sys2Proof/Laws/KeptCmds.lean ====
section
/-! SUPPORT. What each operation leaves alone (Laws/Kept.lean): commands in flight, the front end, the tallies, the reduce units. -/

namespace Sys2Proof.Laws

open Sys2Proof Sys2Proof.Machine Sys2Proof.Safety

/-! ## Cmds -/

@[simp] theorem endTags_kept (c : Cmd) (s : State) : kept (endTags c s) = kept s := by
  simp [endTags]

@[simp] theorem endSlots_kept (id : Nat) (s : State) : kept (endSlots id s) = kept s := by
  simp [endSlots]

@[simp] theorem freeStones_kept (mine : MillWork → Bool) (s : State) : kept (freeStones mine s) = kept s := by
  simp [freeStones]

@[simp] theorem dropMatrices_kept (hit : Matrix → Bool) (s : State) : kept (dropMatrices hit s) = kept s := by
  simp [dropMatrices]

@[simp] theorem endMill_kept (id : Nat) (s : State) : kept (endMill id s) = kept s := by
  simp [endMill]

@[simp] theorem leaveMill_kept (id : Nat) (s : State) : kept (leaveMill id s) = kept s := by
  simp [leaveMill]

@[simp] theorem endSync_kept (ch : BitVec 21) (s : State) : kept (endSync ch s) = kept s := by
  unfold endSync; (repeat' split) <;> simp

@[simp] theorem countStopped_kept (st : BitVec 8) (q : Option (BitVec 6)) (s : State) : kept (countStopped st q s) = kept s := by
  unfold countStopped; (repeat' split) <;> simp

@[simp] theorem finish_kept (id : Nat) (st : BitVec 8) (dev : BitVec 9) (result : Word) (s : State) : kept (finish id st dev result s) = kept s := by
  unfold finish; (repeat (first | (simp; done) | (refine (modCmd_kept _ _ _ (by intro c; rfl)).trans ?_) | (refine (modCmd_kept _ _ _ (by intro c; (repeat' split) <;> rfl)).trans ?_) | (refine (congrArg toStill (modCmd_kept _ _ _ (by intro c; rfl))).trans ?_) | (intro _) | simp | split))

@[simp] theorem unqueue_kept (id : Nat) (s : State) : kept (unqueue id s) = kept s := by
  unfold unqueue; (repeat' split) <;> simp

@[simp] theorem endStopped_kept (id : Nat) (st : BitVec 8) (s : State) : kept (endStopped id st s) = kept s := by
  unfold endStopped; (repeat (first | (simp; done) | (refine (modCmd_kept _ _ _ (by intro c; rfl)).trans ?_) | (refine (modCmd_kept _ _ _ (by intro c; (repeat' split) <;> rfl)).trans ?_) | (refine (congrArg toStill (modCmd_kept _ _ _ (by intro c; rfl))).trans ?_) | (intro _) | simp | split))

@[simp] theorem takeQuerySlot_kept (id d : Nat) (s : State) : kept (takeQuerySlot id d s) = kept s := by
  unfold takeQuerySlot; (repeat' split) <;> simp

@[simp] theorem authQuery_kept (id : Nat) (d : BitVec 9) (q : Txn) (s : State) : kept (authQuery id d q s).2 = kept s := by
  unfold authQuery
  simp only []
  (repeat' split) <;> simp

@[simp] theorem setFate_kept (id : Nat) (d : BitVec 9) (f : SigFate) (s : State) : kept (setFate id d f s) = kept s :=
  modCmd_kept _ _ _ fun _ => rfl

@[simp] theorem postQuery_kept (id : Nat) (t : Target) (q : Txn) (s : State) : kept (postQuery id t q s) = kept s := by
  simp [postQuery]

@[simp] theorem sendQuery_kept (id : Nat) (t : Target) (s : State) : kept (sendQuery id t s) = kept s := by
  unfold sendQuery
  simp only []
  (repeat' split) <;> simp

@[simp] theorem checkDone_kept (id : Nat) (s : State) : kept (checkDone id s) = kept s := by
  unfold checkDone; simp; (repeat' split) <;> simp

@[simp] theorem retryQueries_kept (s : State) : kept (retryQueries s) = kept s := by
  unfold retryQueries; (repeat' split) <;> simp

@[simp] theorem failItem_kept (id key : Nat) (st : BitVec 8) (dev : BitVec 9) (s : State) : kept (failItem id key st dev s) = kept s := by
  unfold failItem; (repeat (first | (simp; done) | (refine (modCmd_kept _ _ _ (by intro c; rfl)).trans ?_) | (refine (modCmd_kept _ _ _ (by intro c; (repeat' split) <;> rfl)).trans ?_) | (refine (congrArg toStill (modCmd_kept _ _ _ (by intro c; rfl))).trans ?_) | (intro _) | simp | split))

@[simp] theorem failSelf_kept (id key : Nat) (st : BitVec 8) (s : State) : kept (failSelf id key st s) = kept s := by
  unfold failSelf; (repeat (first | (simp; done) | (refine (modCmd_kept _ _ _ (by intro c; rfl)).trans ?_) | (refine (modCmd_kept _ _ _ (by intro c; (repeat' split) <;> rfl)).trans ?_) | (refine (congrArg toStill (modCmd_kept _ _ _ (by intro c; rfl))).trans ?_) | (intro _) | simp | split))

@[simp] theorem loseItem_kept (id : Nat) (st : BitVec 8) (dev : BitVec 9) (plane : Nat) (s : State) : kept (loseItem id st dev plane s) = kept s := by
  unfold loseItem; (repeat (first | (simp; done) | (refine (modCmd_kept _ _ _ (by intro c; rfl)).trans ?_) | (refine (modCmd_kept _ _ _ (by intro c; (repeat' split) <;> rfl)).trans ?_) | (refine (congrArg toStill (modCmd_kept _ _ _ (by intro c; rfl))).trans ?_) | (intro _) | simp | split))

@[simp] theorem failWhole_kept (id key : Nat) (st : BitVec 8) (s : State) : kept (failWhole id key st s) = kept s := by
  unfold failWhole; (repeat (first | (simp; done) | (refine (modCmd_kept _ _ _ (by intro c; rfl)).trans ?_) | (refine (modCmd_kept _ _ _ (by intro c; (repeat' split) <;> rfl)).trans ?_) | (refine (congrArg toStill (modCmd_kept _ _ _ (by intro c; rfl))).trans ?_) | (intro _) | simp | split))

@[simp] theorem unitEnds_kept (uid : Nat) (d : BitVec 9) (s : State) : kept (unitEnds uid d s) = kept s := by
  unfold unitEnds; (repeat' split) <;> simp

@[simp] theorem unitsLeave_kept (id : Nat) (d : BitVec 9) (s : State) : kept (unitsLeave id d s) = kept s := by
  simp [unitsLeave]

@[simp] theorem signalResolved_kept (id : Nat) (s : State) : kept (signalResolved id s) = kept s := by
  simp [signalResolved]

@[simp] theorem presentTxn_kept (id : Nat) (c : Cmd) (d : BitVec 9) (t : Txn) (s : State) : kept (presentTxn id c d t s) = kept s := by
  simp [presentTxn]

@[simp] theorem emitStripe_kept (id : Nat) (raw : List Byte) (coded : Option (List Byte)) (weights : List Byte) (s : State) : kept (emitStripe id raw coded weights s) = kept s := by
  unfold emitStripe; (repeat (first | (simp; done) | (refine (modCmd_kept _ _ _ (by intro c; rfl)).trans ?_) | (refine (modCmd_kept _ _ _ (by intro c; (repeat' split) <;> rfl)).trans ?_) | (refine (congrArg toStill (modCmd_kept _ _ _ (by intro c; rfl))).trans ?_) | (intro _) | simp | split))

@[simp] theorem emitGet_kept (id : Nat) (c : Cmd) (n : Nat) (s : State) : kept (emitGet id c n s) = kept s := by
  unfold emitGet; (repeat (first | (simp; done) | (refine (modCmd_kept _ _ _ (by intro c; rfl)).trans ?_) | (refine (modCmd_kept _ _ _ (by intro c; (repeat' split) <;> rfl)).trans ?_) | (refine (congrArg toStill (modCmd_kept _ _ _ (by intro c; rfl))).trans ?_) | (intro _) | simp | split))

@[simp] theorem emitAmo_kept (id : Nat) (c : Cmd) (s : State) : kept (emitAmo id c s) = kept s := by
  unfold emitAmo; (repeat (first | (simp; done) | (refine (modCmd_kept _ _ _ (by intro c; rfl)).trans ?_) | (refine (modCmd_kept _ _ _ (by intro c; (repeat' split) <;> rfl)).trans ?_) | (refine (congrArg toStill (modCmd_kept _ _ _ (by intro c; rfl))).trans ?_) | (intro _) | simp | split))

@[simp] theorem emitSignal_kept (id : Nat) (c : Cmd) (x : Target) (s : State) : kept (emitSignal id c x s) = kept s := by
  unfold emitSignal; (repeat (first | (simp; done) | (refine (modCmd_kept _ _ _ (by intro c; rfl)).trans ?_) | (refine (modCmd_kept _ _ _ (by intro c; (repeat' split) <;> rfl)).trans ?_) | (refine (congrArg toStill (modCmd_kept _ _ _ (by intro c; rfl))).trans ?_) | (intro _) | simp | split))

@[simp] theorem emitSignals_kept (id : Nat) (s : State) : kept (emitSignals id s) = kept s := by
  unfold emitSignals; (repeat' split) <;> simp

@[simp] theorem millWait_kept (w : MillWork) (gang shape : Nat) (s : State) : kept (millWait w gang shape s) = kept s := by
  simp [millWait]

@[simp] theorem readFor_kept (use : ReadFor) (c : Cmd) (pieces : List (Nat × Nat)) (s : State) : kept (readFor use c pieces s) = kept s := by
  simp [readFor]

@[simp] theorem writeFor_kept (use : WriteFor) (c : Cmd) (pieces : List (Nat × Nat)) (cells : List (Nat × Byte)) (cls : BitVec 3) (s : State) : kept (writeFor use c pieces cells cls s) = kept s := by
  simp [writeFor]

@[simp] theorem freedCells_kept (src dst : List (Nat × Nat)) (cells) (s : State) : kept (freedCells src dst cells s).2 = kept s := by
  unfold freedCells; simp

@[simp] theorem copyOut_kept (id : Nat) (bs : List Byte) (s : State) : kept (copyOut id bs s) = kept s := by
  unfold copyOut; (repeat (first | (simp; done) | (refine (modCmd_kept _ _ _ (by intro c; rfl)).trans ?_) | (refine (modCmd_kept _ _ _ (by intro c; (repeat' split) <;> rfl)).trans ?_) | (refine (congrArg toStill (modCmd_kept _ _ _ (by intro c; rfl))).trans ?_) | (intro _) | simp | split))

@[simp] theorem rowsOut_kept (id : Nat) (bs : List Byte) (s : State) : kept (rowsOut id bs s) = kept s := by
  unfold rowsOut
  split
  · rfl
  · dsimp only
    split
    · exact modCmd_kept _ _ _ (by intro c; rfl)
    · exact (modCmd_kept _ _ _ (by intro c; rfl)).trans (by simp)

@[simp] theorem copyStripe_kept (id : Nat) (bs : List Byte) (s : State) : kept (copyStripe id bs s) = kept s := by
  unfold copyStripe
  split
  · rfl
  · dsimp only
    (repeat' split)
    all_goals first
      | (rw [failSelf_kept]; done)
      | (rw [copyOut_kept, modCmd_kept _ _ _ (by intro c; rfl)]; done)
      | (rw [copyOut_kept]; done)
      | (rw [millWait_kept, modCmd_kept _ _ _ (by intro c; rfl)]; done)

@[simp] theorem noMoreXlate_kept (id : Nat) (s : State) : kept (noMoreXlate id s) = kept s := by
  unfold noMoreXlate; (repeat (first | (simp; done) | (refine (modCmd_kept _ _ _ (by intro c; rfl)).trans ?_) | (refine (modCmd_kept _ _ _ (by intro c; (repeat' split) <;> rfl)).trans ?_) | (refine (congrArg toStill (modCmd_kept _ _ _ (by intro c; rfl))).trans ?_) | (intro _) | simp | split))

@[simp] theorem feed_kept (id : Nat) (s : State) : kept (feed id s) = kept s := by
  unfold feed; (repeat (first | (simp; done) | (refine (modCmd_kept _ _ _ (by intro c; rfl)).trans ?_) | (refine (modCmd_kept _ _ _ (by intro c; (repeat' split) <;> rfl)).trans ?_) | (intro _) | simp | split))

@[simp] theorem activate_kept (id : Nat) (s : State) : kept (activate id s) = kept s := by
  unfold activate; (repeat (first | (simp; done) | (refine (modCmd_kept _ _ _ (by intro c; rfl)).trans ?_) | (refine (modCmd_kept _ _ _ (by intro c; (repeat' split) <;> rfl)).trans ?_) | (refine (congrArg toStill (modCmd_kept _ _ _ (by intro c; rfl))).trans ?_) | (intro _) | simp | split))

@[simp] theorem hasTags_kept (id : Nat) (s : State) : kept (hasTags id s) = kept s := by
  unfold hasTags; (repeat' split) <;> simp

theorem grantOne_kept (s t : State) (h : grantOne s = some t) : kept t = kept s := by
  unfold grantOne at h
  (repeat' split at h) <;> first | (cases h; done) | (cases h; (repeat (first | (simp; done) | (refine (modCmd_kept _ _ _ (by intro c; rfl)).trans ?_) | simp)))

@[simp] theorem giveTags_kept (n : Nat) (s : State) : kept (giveTags n s) = kept s := by
  induction n generalizing s with
  | zero => rfl
  | succ n ih =>
    unfold giveTags
    split
    · rfl
    · rename_i h; rw [ih, grantOne_kept _ _ h]

@[simp] theorem seekTags_kept (id : Nat) (s : State) : kept (seekTags id s) = kept s := by
  simp [seekTags]

@[simp] theorem checkIndexed_kept (id : Nat) (s : State) : kept (checkIndexed id s) = kept s := by
  unfold checkIndexed; (repeat' split) <;> (first | (simp; done) | (refine (kept_foldl _ _ _ ?_).trans (by simp); intros; (try dsimp only); (repeat' split); all_goals simp; done))

@[simp] theorem takeTargets_kept (id : Nat) (s : State) : kept (takeTargets id s) = kept s := by
  unfold takeTargets; (repeat (first | (simp; done) | (refine (modCmd_kept _ _ _ (by intro c; rfl)).trans ?_) | (refine (modCmd_kept _ _ _ (by intro c; (repeat' split) <;> rfl)).trans ?_) | (refine (congrArg toStill (modCmd_kept _ _ _ (by intro c; rfl))).trans ?_) | (intro _) | simp | split))

@[simp] theorem abortedSeq_kept (s : State) : kept (abortedSeq s).2 = kept s := by
  unfold abortedSeq; simp

@[simp] theorem openFaults_kept (c : Cmd) (faults : List (Nat × Nat)) (s : State) : kept (openFaults c faults s) = kept s := by
  unfold openFaults; (repeat (first | (simp; done) | (refine (modCmd_kept _ _ _ (by intro c; rfl)).trans ?_) | (refine (modCmd_kept _ _ _ (by intro c; (repeat' split) <;> rfl)).trans ?_) | (refine (congrArg toStill (modCmd_kept _ _ _ (by intro c; rfl))).trans ?_) | (intro _) | simp | split))

@[simp] theorem abortGet_kept (c : Cmd) (faults : List (Nat × Nat)) (s : State) : kept (abortGet c faults s) = kept s := by
  unfold abortGet; (repeat (first | (simp; done) | (refine (modCmd_kept _ _ _ (by intro c; rfl)).trans ?_) | (refine (modCmd_kept _ _ _ (by intro c; (repeat' split) <;> rfl)).trans ?_) | (refine (congrArg toStill (modCmd_kept _ _ _ (by intro c; rfl))).trans ?_) | (intro _) | simp | split))

@[simp] theorem readIndex_kept (id : Nat) (s : State) : kept (readIndex id s) = kept s := by
  unfold readIndex; (repeat (first | (simp; done) | (refine (modCmd_kept _ _ _ (by intro c; rfl)).trans ?_) | (refine (modCmd_kept _ _ _ (by intro c; (repeat' split) <;> rfl)).trans ?_) | (refine (congrArg toStill (modCmd_kept _ _ _ (by intro c; rfl))).trans ?_) | (intro _) | simp | split))

@[simp] theorem translated_kept (id : Nat) (s : State) : kept (translated id s) = kept s := by
  unfold translated; (repeat (first | (simp; done) | (refine (modCmd_kept _ _ _ (by intro c; rfl)).trans ?_) | (refine (modCmd_kept _ _ _ (by intro c; (repeat' split) <;> rfl)).trans ?_) | (refine (congrArg toStill (modCmd_kept _ _ _ (by intro c; rfl))).trans ?_) | (intro _) | simp | split))

@[simp] theorem xlate_kept (id : Nat) (s : State) : kept (xlate id s) = kept s := by
  unfold xlate
  split
  · rfl
  · split
    · rfl
    · dsimp only
      generalize hs : modCmd id _ _ = s1
      have h1 : kept s1 = kept s := by rw [← hs, modCmd_kept _ _ _ (by intro c; rfl)]; simp
      rw [← h1]
      (repeat' split)
      all_goals first
        | (simp; done)
        | (refine Eq.trans ?_ (modCmd_kept id (fun c => { c with bads := [] }) s1 (by intro c; rfl)); simp)

@[simp] theorem retranslate_kept (id : Nat) (s : State) : kept (retranslate id s) = kept s := by
  rw [retranslate, xlate_kept, modCmd_kept _ _ _ (by intro c; rfl)]

@[simp] theorem invalidated_kept (id : Nat) (s : State) : kept (invalidated id s) = kept s := by
  unfold invalidated; (repeat' split) <;> first | rfl | rw [modCmd_kept _ _ _ (by intro c; rfl)] | rw [retranslate_kept]

@[simp] theorem resumeXlate_kept (id : Nat) (s : State) : kept (resumeXlate id s) = kept s := by
  unfold resumeXlate; (repeat (first | (simp; done) | (refine (modCmd_kept _ _ _ (by intro c; rfl)).trans ?_) | (refine (modCmd_kept _ _ _ (by intro c; (repeat' split) <;> rfl)).trans ?_) | (refine (congrArg toStill (modCmd_kept _ _ _ (by intro c; rfl))).trans ?_) | (intro _) | simp | split))

@[simp] theorem sourceBack_kept (id : Nat) (bs : List Byte) (s : State) : kept (sourceBack id bs s) = kept s := by
  unfold sourceBack; (repeat (first | (simp; done) | (refine (modCmd_kept _ _ _ (by intro c; rfl)).trans ?_) | (refine (modCmd_kept _ _ _ (by intro c; (repeat' split) <;> rfl)).trans ?_) | (refine (congrArg toStill (modCmd_kept _ _ _ (by intro c; rfl))).trans ?_) | (intro _) | simp | split))

@[simp] theorem indexRead_kept (id : Nat) (bs : List Byte) (s : State) : kept (indexRead id bs s) = kept s := by
  unfold indexRead
  split
  · rfl
  · dsimp only
    (repeat' split) <;>
      simp only [retranslate_kept, takeTargets_kept] <;>
      repeat rw [modCmd_kept _ _ _ (by intro c; rfl)]

@[simp] theorem indexBack_kept (id : Nat) (bs : List Byte) (s : State) : kept (indexBack id bs s) = kept s := by
  unfold indexBack; (repeat (first | (simp; done) | (refine (modCmd_kept _ _ _ (by intro c; rfl)).trans ?_) | (refine (modCmd_kept _ _ _ (by intro c; (repeat' split) <;> rfl)).trans ?_) | (refine (congrArg toStill (modCmd_kept _ _ _ (by intro c; rfl))).trans ?_) | (intro _) | simp | split))

@[simp] theorem begin__kept (ch : BitVec 21) (pkt : List Word) (engine : Option Nat) (rejected : Bool) (s : State) : toStill (kept (begin_ ch pkt engine rejected s)) = toStill (kept s) := by
  unfold begin_; (repeat' split) <;> simp

@[simp] theorem reject_kept (ch : BitVec 21) (pkt : List Word) (st : BitVec 8) (s : State) : toStill (kept (reject ch pkt st s)) = toStill (kept s) := by
  simp [reject]

@[simp] theorem takeProfile_kept (id : Nat) (s : State) : kept (takeProfile id s) = kept s := by
  unfold takeProfile; (repeat (first | (simp; done) | (refine (modCmd_kept _ _ _ (by intro c; rfl)).trans ?_) | (refine (modCmd_kept _ _ _ (by intro c; (repeat' split) <;> rfl)).trans ?_) | (refine (congrArg toStill (modCmd_kept _ _ _ (by intro c; rfl))).trans ?_) | (intro _) | simp | split))

@[simp] theorem admission_kept (id : Nat) (s : State) : kept (admission id s) = kept s := by
  unfold admission; (repeat' split) <;> simp

@[simp] theorem asOp_kept (op : Nat) (pkt : List Word) (f : State → State) (s : State) (h : kept (f s) = kept s) : kept (asOp op pkt f s) = kept s := by
  unfold asOp; simp [h]

@[simp] theorem asOp_still (op : Nat) (pkt : List Word) (f : State → State) (s : State) (h : toStill (kept (f s)) = toStill (kept s)) :
    toStill (kept (asOp op pkt f s)) = toStill (kept s) := by
  unfold asOp; split
  · exact h
  · rfl

@[simp] theorem startEngine_kept (ch : BitVec 21) (pkt : List Word) (s : State) : toStill (kept (startEngine ch pkt s)) = toStill (kept s) := by
  unfold startEngine; (repeat' split) <;> simp

@[simp] theorem startWhere_kept (may : Bool) (ch : BitVec 21) (pkt : List Word) (run : Nat → State → State) (s : State) (h_run : ∀ x0 s, toStill (kept (run x0 s)) = toStill (kept s)) : toStill (kept (startWhere may ch pkt run s)) = toStill (kept s) := by
  unfold startWhere; (repeat' split) <;> simp [*]

@[simp] theorem startOther_kept (ch : BitVec 21) (pkt : List Word) (run : Nat → State → State) (s : State) (h_run : ∀ x0 s, toStill (kept (run x0 s)) = toStill (kept s)) : toStill (kept (startOther ch pkt run s)) = toStill (kept s) := by
  unfold startOther; simp [*]

@[simp] theorem done_kept (id : Nat) (st : BitVec 8) (result : Word) (s : State) : kept (done id st result s) = kept s := by
  simp [done]

@[simp] theorem postRecord_kept (ch : BitVec 21) (s : State) : toStill (kept (postRecord ch s)) = toStill (kept s) := by
  unfold postRecord; (repeat' split) <;> simp

@[simp] theorem dropWait_kept (ch : BitVec 21) (s : State) : kept (dropWait ch s) = kept s := by
  simp [dropWait]

@[simp] theorem parkFor_kept (ch : BitVec 21) (why : BitVec 8) (s : State) : kept (parkFor ch why s) = kept s := by
  simp [parkFor]

@[simp] theorem holdAccess_kept (who : Who) (addr : Nat) (size : Nat) (val : Option Word) (s : State) : kept (holdAccess who addr size val s) = kept s := by
  unfold holdAccess; (repeat' split) <;> simp

/-! ## FrontEnd -/

@[simp] theorem bellConfig_kept (q : Option (BitVec 6)) (ch : BitVec 21) (s : State) : kept (bellConfig q ch s) = kept s := by
  simp [bellConfig]

@[simp] theorem bellError_kept (ch : BitVec 21) (o : Owner) (action : BitVec 2) (val : BitVec 32) (s : State) : kept (bellError ch o action val s) = kept s := by
  simp [bellError]

@[simp] theorem rouse_kept (ch : BitVec 21) (s : State) : kept (rouse ch s) = kept s := by
  simp [rouse]

@[simp] theorem bellTail_kept (ch : BitVec 21) (c : Chan) (val : BitVec 32) (s : State) : kept (bellTail ch c val s) = kept s := by
  simp [bellTail]

@[simp] theorem bellCpl_kept (ch : BitVec 21) (c : Chan) (val : BitVec 32) (s : State) : kept (bellCpl ch c val s) = kept s := by
  simp [bellCpl]

@[simp] theorem bellPark_kept (ch : BitVec 21) (c : Chan) (s : State) : kept (bellPark ch c s) = kept s := by
  unfold bellPark; (repeat' split) <;> simp

@[simp] theorem bellResume_kept (ch : BitVec 21) (c : Chan) (s : State) : kept (bellResume ch c s) = kept s := by
  unfold bellResume; (repeat' split) <;> simp

@[simp] theorem bellHeld_kept (b : Bell) (c : Chan) (s : State) : kept (bellHeld b c s) = kept s := by
  simp [bellHeld]

@[simp] theorem badDescriptor_kept (ch : BitVec 21) (o : Owner) (head : BitVec 32) (s : State) : kept (badDescriptor ch o head s) = kept s := by
  simp [badDescriptor]

@[simp] theorem resumeWith_kept (ch : BitVec 21) (ws : List Word) (s : State) : kept (resumeWith ch ws s) = kept s := by
  simp [resumeWith]

@[simp] theorem bellStored_kept (b : Bell) (ws : List Word) (s : State) : kept (bellStored b ws s) = kept s := by
  unfold bellStored; split <;> simp

@[simp] theorem ring_kept (b : Bell) (s : State) : kept (ring b s) = kept s := by
  unfold ring; (repeat' split) <;> simp

@[simp] theorem doorbell_kept (who : Who) (ch : BitVec 21) (action : BitVec 2) (val : BitVec 32) (s : State) : kept (doorbell who ch action val s) = kept s := by
  simp [doorbell]

@[simp] theorem ringAll_kept (n : Nat) (ch : BitVec 21) (ws : List Word) (s : State) : kept (ringAll n ch ws s) = kept s := by
  induction n generalizing ws s with
  | zero => rfl
  | succ n ih =>
    unfold ringAll
    split
    · rfl
    · dsimp only; split <;> rw [ih] <;> simp

@[simp] theorem reread_kept (ch : BitVec 21) (ws : List Word) (s : State) : kept (reread ch ws s) = kept s := by
  unfold reread; (repeat' split) <;> simp

@[simp] theorem descBack_kept (ch : BitVec 21) (bs : List Byte) (s : State) : kept (descBack ch bs s) = kept s := by
  simp [descBack]

@[simp] theorem descFailed_kept (ch : BitVec 21) (s : State) : kept (descFailed ch s) = kept s := by
  simp [descFailed]

@[simp] theorem parkNow_kept (ch : BitVec 21) (s : State) : kept (parkNow ch s) = kept s := by
  unfold parkNow; (repeat' split) <;> simp

@[simp] theorem clearQueued_kept (ch : BitVec 21) (s : State) : kept (clearQueued ch s) = kept s := by
  unfold clearQueued; (repeat' split) <;> simp

@[simp] theorem popOverflow_kept (s : State) : kept (popOverflow s) = kept s := by
  unfold popOverflow; (repeat' split) <;> simp

@[simp] theorem dequeueOverflow_kept (s : State) : kept (dequeueOverflow s) = kept s := by
  unfold dequeueOverflow
  (repeat' split) <;> first | (simp; done) | (rename_i h; simp [cacheRoom_kept _ _ h])

@[simp] theorem rotate_kept (ch : BitVec 21) (s : State) : kept (rotate ch s) = kept s := by
  unfold rotate; (repeat' split) <;> simp

@[simp] theorem runNop_kept (id : Nat) (s : State) : kept (runNop id s) = kept s := by
  simp [runNop]

@[simp] theorem runSync_kept (ch : BitVec 21) (id : Nat) (s : State) : kept (runSync ch id s) = kept s := by
  simp [runSync]

@[simp] theorem startSync_kept (ch : BitVec 21) (pkt : List Word) (s : State) : toStill (kept (startSync ch pkt s)) = toStill (kept s) := by
  unfold startSync; (repeat' split) <;> simp

@[simp] theorem runMark_kept (ch : BitVec 21) (pkt : List Word) (id : Nat) (s : State) : kept (runMark ch pkt id s) = kept s := by
  unfold runMark; (repeat' split) <;> simp

@[simp] theorem modWaiter_kept (ch : BitVec 21) (f : Waiter → Waiter) (s : State) : kept (modWaiter ch f s) = kept s := by
  simp [modWaiter]

@[simp] theorem nameWait_kept (ch : BitVec 21) (id : Nat) (s : State) : kept (nameWait ch id s) = kept s := by
  unfold nameWait; (repeat' split) <;> simp

@[simp] theorem waitStarts_kept (ch : BitVec 21) (s : State) : toStill (kept (waitStarts ch s)) = toStill (kept s) := by
  unfold waitStarts
  split
  · rfl
  · split
    · rfl
    · split
      · simp only [tidyDeficits_kept, dropWait_kept]
        refine startWhere_kept _ _ _ _ _ (fun id s => ?_)
        rw [finish_kept, nameWait_kept]
        exact congrArg toStill (modCmd_kept _ _ _ (by intro c; rfl))
      · rfl

@[simp] theorem waitEnds_kept (ch : BitVec 21) (st : BitVec 8) (result : Word) (seq : BitVec 32) (s : State) : toStill (kept (waitEnds ch st result seq s)) = toStill (kept s) := by
  unfold waitEnds
  simp only [waitStarts_kept]
  split <;> simp

@[simp] theorem waitRead_kept (w : Waiter) (pa : BitVec 52) (s : State) : kept (waitRead w pa s) = kept s := by
  simp [waitRead]

@[simp] theorem waitEval_kept (w : Waiter) (s : State) : toStill (kept (waitEval w s)) = toStill (kept s) := by
  unfold waitEval; simp; (repeat' split) <;> simp

@[simp] theorem waitBack_kept (ch : BitVec 21) (x : Word) (s : State) : toStill (kept (waitBack ch x s)) = toStill (kept s) := by
  unfold waitBack; (repeat' split) <;> simp

@[simp] theorem startWait_kept (ch : BitVec 21) (pkt : List Word) (s : State) : toStill (kept (startWait ch pkt s)) = toStill (kept s) := by
  unfold startWait; (repeat' split) <;> simp

@[simp] theorem givePlane_kept (ap : BitVec 12) (d : BitVec 9) (p : Nat) (s : State) : kept (givePlane ap d p s) = kept s := by
  unfold givePlane; (repeat' split) <;> simp

/-! ## Data -/

@[simp] theorem repin_kept (ap : BitVec 12) (d : BitVec 9) (s : State) : kept (repin ap d s) = kept s := by
  unfold repin; (repeat' split) <;> simp

@[simp] theorem dapRefuse_kept (pa : BitVec 52) (s : State) : kept (dapRefuse pa s) = kept s := by
  simp [dapRefuse]

@[simp] theorem dapSend_kept (pa : BitVec 52) (store : Bool) (size : Nat) (data : List Byte) (n : Nat) (a : Aperture) (tag : Nat) (s : State) : kept (dapSend pa store size data n a tag s) = kept s := by
  simp [dapSend]

@[simp] theorem dapTake_kept (x : DapHold) (s : State) : kept (dapTake x s) = kept s := by
  unfold dapTake; (repeat' split) <;> simp

@[simp] theorem dapServe_kept (n : Nat) (s : State) : kept (dapServe n s) = kept s := by
  induction n generalizing s with
  | zero => rfl
  | succ n ih => unfold dapServe; (repeat' split) <;> simp [ih]

@[simp] theorem servePort_kept (s : State) : kept (servePort s) = kept s := by
  simp [servePort]

@[simp] theorem dapEnd_kept (n : Nat) (answered error : Bool) (data : List Byte) (s : State) : kept (dapEnd n answered error data s) = kept s := by
  unfold dapEnd; simp; (repeat' split) <;> simp

@[simp] theorem feedUnit_kept (u : UnitFor) (s : State) : kept (feedUnit u s) = kept s := by
  unfold feedUnit; (repeat' split) <;> simp

@[simp] theorem cancelSlot_kept (id : Nat) (d : BitVec 9) (s : State) : kept (cancelSlot id d s) = kept s := by
  unfold cancelSlot; (repeat' split) <;> simp

@[simp] theorem slotCancelled_kept (id : Nat) (d : BitVec 9) (s : State) : kept (slotCancelled id d s) = kept s := by
  simp [slotCancelled]

@[simp] theorem dropMember_kept (id : Nat) (s : State) (d : BitVec 9) : kept (dropMember id s d) = kept s := by
  unfold dropMember; (repeat (first | (simp; done) | (refine (modCmd_kept _ _ _ (by intro c; rfl)).trans ?_) | (refine (modCmd_kept _ _ _ (by intro c; (repeat' split) <;> rfl)).trans ?_) | (refine (congrArg toStill (modCmd_kept _ _ _ (by intro c; rfl))).trans ?_) | (intro _) | simp | split))

@[simp] theorem leaveEmpty_kept (u : Xu) (s : State) : kept (leaveEmpty u s) = kept s := by
  unfold leaveEmpty; (repeat' split) <;> simp

@[simp] theorem issueFirst_kept (d : BitVec 9) (s : State) : kept (issueFirst d s) = kept s := by
  unfold issueFirst; (repeat' split) <;> simp

@[simp] theorem issue_kept (d : BitVec 9) (s : State) : kept (issue d s) = kept s := by
  unfold issue; (repeat' split) <;> simp

@[simp] theorem lateItems_kept (id : Nat) (st : BitVec 8) (ds : List (BitVec 9)) (sig : Bool) (s : State) : kept (lateItems id st ds sig s) = kept s := by
  unfold lateItems; (repeat (first | (simp; done) | (refine (modCmd_kept _ _ _ (by intro c; rfl)).trans ?_) | (refine (modCmd_kept _ _ _ (by intro c; (repeat' split) <;> rfl)).trans ?_) | (refine (congrArg toStill (modCmd_kept _ _ _ (by intro c; rfl))).trans ?_) | (intro _) | simp | split))

@[simp] theorem creditTimeout_kept (uid : Nat) (s : State) : kept (creditTimeout uid s) = kept s := by
  unfold creditTimeout; (repeat' split) <;> simp <;> (repeat' split) <;> simp

@[simp] theorem txnTimeout_kept (n : Nat) (s : State) : kept (txnTimeout n s) = kept s := by
  unfold txnTimeout; (repeat (first | (simp; done) | (refine (modCmd_kept _ _ _ (by intro c; rfl)).trans ?_) | (refine (modCmd_kept _ _ _ (by intro c; (repeat' split) <;> rfl)).trans ?_) | (refine (congrArg toStill (modCmd_kept _ _ _ (by intro c; rfl))).trans ?_) | (intro _) | simp | split))

/-! ## Tallies -/

@[simp] theorem acceptGrant_kept (d : Nat) (g : BitVec 32) (s : State) : kept (acceptGrant d g s) = kept s := by
  simp [acceptGrant]

@[simp] theorem tallyLoss_kept (d : Nat) (s : State) : kept (tallyLoss d s) = kept s := by
  simp [tallyLoss]

@[simp] theorem queueEntry_kept (p : Nat) (e : Word) (s : State) : kept (queueEntry p e s) = kept s := by
  simp [queueEntry]

@[simp] theorem queueRefresh_kept (p : Nat) (e : Word) (s : State) : kept (queueRefresh p e s) = kept s := by
  unfold queueRefresh; (repeat' split) <;> simp

@[simp] theorem sendEntry_kept (d kind : Nat) (val : BitVec 32) (s : State) : kept (sendEntry d kind val s) = kept s := by
  unfold sendEntry; (repeat' split) <;> simp

@[simp] theorem advanceFreed_kept (d n : Nat) (s : State) : kept (advanceFreed d n s) = kept s := by
  simp [advanceFreed]

@[simp] theorem releaseLines_kept (d n : Nat) (s : State) : kept (releaseLines d n s) = kept s := by
  simp [releaseLines]

@[simp] theorem releaseEntry_kept (src : BitVec 9) (tag : BitVec 16) (s : State) : kept (releaseEntry src tag s) = kept s := by
  simp [releaseEntry]

@[simp] theorem takeHeader_kept (t : Txn) (s : State) : kept (takeHeader t s) = kept s := by
  simp [takeHeader]

@[simp] theorem takeEntry_kept (kind : Nat) (p : BitVec 7) (e : Word) (f : State → State) (s : State) (h_f : ∀ s, kept (f s) = kept s) : kept (takeEntry kind p e f s) = kept s := by
  unfold takeEntry; simp [*]

@[simp] theorem reconcile_kept (d : Nat) (v : BitVec 32) (s : State) : kept (reconcile d v s) = kept s := by
  simp [reconcile]

@[simp] theorem reconAck_kept (d : Nat) (v : BitVec 32) (s : State) : kept (reconAck d v s) = kept s := by
  simp [reconAck]

@[simp] theorem releaseSent_kept (r : BitVec 9 × BitVec 16 × Nat × Bool) (s : State) : kept (releaseSent r s) = kept s := by
  simp [releaseSent]

@[simp] theorem refreshOne_kept (d : Nat) (s : State) : kept (refreshOne d s) = kept s := by
  unfold refreshOne; simp; (repeat' split) <;> simp

@[simp] theorem tallyRefresh_kept (s : State) : kept (tallyRefresh s) = kept s := by
  simp [tallyRefresh]

@[simp] theorem settleExpiry_kept (d : Nat) (s : State) : kept (settleExpiry d s) = kept s := by
  unfold settleExpiry; (repeat' split) <;> simp

@[simp] theorem reconcileSend_kept (d : BitVec 9) (s : State) : kept (reconcileSend d s) = kept s := by
  simp [reconcileSend]

@[simp] theorem reconcileResend_kept (d : Nat) (s : State) : kept (reconcileResend d s) = kept s := by
  unfold reconcileResend; simp; (repeat' split) <;> simp

/-! ## Reduce -/

@[simp] theorem openTxn_kept (q : BitVec 6) (t : Txn) (s : State) : kept (openTxn q t s).2 = kept s := by
  unfold openTxn
  (repeat' split) <;> simp

end Sys2Proof.Laws
end

