-- ==== Sys2Proof/Laws/KeptData.lean ====
section
/-! SUPPORT. What each operation leaves alone (Laws/Kept.lean): stripes and answers at a target, windows, Terrier, the debug port, the Mill. -/

namespace Sys2Proof.Laws

open Sys2Proof Sys2Proof.Machine Sys2Proof.Safety

/-! ## Target -/

@[simp] theorem highWater_kept (s : State) : kept (highWater s) = kept s := by
  simp [highWater]

@[simp] theorem endArrival_kept (a : Arrival) (s : State) : kept (endArrival a s) = kept s := by
  simp [endArrival]

@[simp] theorem answerArrival_kept (a : Arrival) (k : Nat) (st : BitVec 8) (s : State) : kept (answerArrival a k st s) = kept s := by
  simp [answerArrival]

@[simp] theorem respond_kept (a : Arrival) (t : Txn) (s : State) : kept (respond a t s) = kept s := by
  simp [respond]

@[simp] theorem modEnt_kept (src : BitVec 9) (tag : BitVec 16) (f : SigEnt → SigEnt) (s : State) : kept (modEnt src tag f s) = kept s := by
  simp [modEnt]

@[simp] theorem makeEnt_kept (t : Txn) (s : State) : kept (makeEnt t s) = kept s := by
  simp [makeEnt]

@[simp] theorem cancelEnt_kept (t : Txn) (s : State) : kept (cancelEnt t s) = kept s := by
  simp [cancelEnt]

@[simp] theorem refuseArrival_kept (a : Arrival) (st : BitVec 8) (s : State) : kept (refuseArrival a st s) = kept s := by
  simp [refuseArrival]

@[simp] theorem refuseFault_kept (a : Arrival) (st : BitVec 8) (kind addr : Nat) (s : State) : kept (refuseFault a st kind addr s) = kept s := by
  simp [refuseFault]

@[simp] theorem watchArrival_kept (a : Arrival) (s : State) : kept (watchArrival a s) = kept s := by
  simp [watchArrival]

@[simp] theorem readArrival_kept (a : Arrival) (s : State) : kept (readArrival a s) = kept s := by
  simp [readArrival]

@[simp] theorem writeArrival_kept (a : Arrival) (bs : List Byte) (s : State) : kept (writeArrival a bs s) = kept s := by
  simp [writeArrival]

@[simp] theorem commitArrival_kept (a : Arrival) (bs : List Byte) (s : State) : kept (commitArrival a bs s) = kept s := by
  simp [commitArrival]

@[simp] theorem startCombine_kept (a : Arrival) (data : List Byte) (s : State) : kept (startCombine a data s) = kept s := by
  simp [startCombine]

@[simp] theorem wakeCombines_kept (s : State) : kept (wakeCombines s) = kept s := by
  simp [wakeCombines]

@[simp] theorem modOp_kept (id : Nat) (f : AtomOp → AtomOp) (s : State) : kept (modOp id f s) = kept s := by
  simp [modOp]

@[simp] theorem opCompute_kept (o : AtomOp) (w : Word) (s : State) : kept (opCompute o w s) = kept s := by
  unfold opCompute; simp; (repeat' split) <;> simp

@[simp] theorem opStart_kept (o : AtomOp) (s : State) : kept (opStart o s) = kept s := by
  unfold opStart; (repeat' split) <;> simp

@[simp] theorem pumpOps_kept (s : State) : kept (pumpOps s) = kept s := by
  simp [pumpOps]

@[simp] theorem addOp_kept (use : AtomFor) (pa width : Nat) (subop : BitVec 8) (operand compare : Word) (s : State) : kept (addOp use pa width subop operand compare s) = kept s := by
  simp [addOp]

@[simp] theorem answerQuery_kept (via : Via) (q : BitVec 6) (t : Txn) (applied : Bool) (s : State) : kept (answerQuery via q t applied s) = kept s := by
  simp [answerQuery]

@[simp] theorem signalEnds_kept (e : SigEnt) (applied : Bool) (st : BitVec 8) (s : State) : kept (signalEnds e applied st s) = kept s := by
  simp [signalEnds]

@[simp] theorem signalStart_kept (e : SigEnt) (s : State) : kept (signalStart e s) = kept s := by
  unfold signalStart; simp; (repeat' split) <;> simp

@[simp] theorem handOver_kept (src : BitVec 9) (tag : BitVec 16) (s : State) : kept (handOver src tag s) = kept s := by
  unfold handOver; (repeat' split) <;> simp

@[simp] theorem retrySignals_kept (s : State) : kept (retrySignals s) = kept s := by
  simp [retrySignals]

@[simp] theorem opEnds_kept (o : AtomOp) (ok : Bool) (s : State) : kept (opEnds o ok s) = kept s := by
  unfold opEnds; simp; (repeat' split) <;> simp

@[simp] theorem endSilent_kept (s : State) : kept (endSilent s) = kept s := by
  simp [endSilent]

@[simp] theorem arrReady_kept (a : Arrival) (s : State) : kept (arrReady a s) = kept s := by
  unfold arrReady; (repeat' split) <;> simp

@[simp] theorem withArrival_kept (id : Nat) (f : Arrival → State → State) (s : State) (h_f : ∀ x0 s, kept (f x0 s) = kept s) : kept (withArrival id f s) = kept s := by
  unfold withArrival; (repeat' split) <;> simp [*]

@[simp] theorem xlateArrival_kept (id : Nat) (s : State) : kept (xlateArrival id s) = kept s := by
  unfold xlateArrival; simp; (repeat' split) <;> simp

@[simp] theorem retryArrivals_kept (s : State) : kept (retryArrivals s) = kept s := by
  simp [retryArrivals]

@[simp] theorem modGroup_kept (t : Txn) (f : Group → Group) (s : State) : kept (modGroup t f s) = kept s := by
  simp [modGroup]

@[simp] theorem orderArrival_kept (a : Arrival) (s : State) : kept (orderArrival a s) = kept s := by
  unfold orderArrival; simp; (repeat' split) <;> simp

@[simp] theorem wakeGroups_kept (s : State) : kept (wakeGroups s) = kept s := by
  unfold wakeGroups; (repeat' split) <;> simp

@[simp] theorem groupAdvance_kept (t : Txn) (s : State) : kept (groupAdvance t s) = kept s := by
  unfold groupAdvance; simp; (repeat' split) <;> simp

@[simp] theorem passedArrival_kept (a : Arrival) (s : State) : kept (passedArrival a s) = kept s := by
  unfold passedArrival
  have h := openTxn_kept a.parish a.txn s
  split <;> rename_i he <;> rw [he] at h <;> dsimp only at h <;> rw [← h]
  · simp
  · dsimp only; (repeat' split) <;> simp

@[simp] theorem checkArrival_kept (a : Arrival) (s : State) : kept (checkArrival a s) = kept s := by
  simp [checkArrival]

@[simp] theorem touchWindow_kept (h : Nat) (s : State) : kept (touchWindow h s) = kept s := by
  simp [touchWindow]

@[simp] theorem windowStage_kept (a : Arrival) (s : State) : kept (windowStage a s) = kept s := by
  simp [windowStage]

@[simp] theorem windowBack_kept (id : Nat) (s : State) : kept (windowBack id s) = kept s := by
  unfold windowBack; (repeat' split) <;> simp

@[simp] theorem windowFailed_kept (id : Nat) (s : State) : kept (windowFailed id s) = kept s := by
  unfold windowFailed; (repeat' split) <;> simp

@[simp] theorem enterBarn_kept (via : Via) (t : Txn) (lines : Nat) (f : Arrival → State → State) (s : State) (h_f : ∀ x0 s, kept (f x0 s) = kept s) : kept (enterBarn via t lines f s) = kept s := by
  unfold enterBarn; simp [*]

@[simp] theorem countOverrun_kept (t : Txn) (s : State) : kept (countOverrun t s) = kept s := by
  unfold countOverrun; (repeat' split) <;> simp

@[simp] theorem answerOverrun_kept (via : Via) (t : Txn) (s : State) : kept (answerOverrun via t s) = kept s := by
  unfold answerOverrun; (repeat' split) <;> simp

@[simp] theorem discardOverrun_kept (via : Via) (t : Txn) (s : State) : kept (discardOverrun via t s) = kept s := by
  simp [discardOverrun]

@[simp] theorem landCharged_kept (via : Via) (t : Txn) (over_ : State → State) (f : Arrival → State → State) (s : State)
    (h_over : ∀ s, kept (over_ s) = kept s) (h_f : ∀ x0 s, kept (f x0 s) = kept s) : kept (landCharged via t over_ f s) = kept s := by
  unfold landCharged; simp; (repeat' split) <;> simp [*]

@[simp] theorem landRequest_kept (kind : Nat) (via : Via) (t : Txn) (s : State) : kept (landRequest kind via t s) = kept s := by
  simp [landRequest]

@[simp] theorem landAnswer_kept (kind : Nat) (via : Via) (t : Txn) (f : State → State) (s : State) (h_f : ∀ s, kept (f s) = kept s) : kept (landAnswer kind via t f s) = kept s := by
  unfold landAnswer; (repeat' split) <;> simp [*]

@[simp] theorem getResponse_kept (a : Arrival) (raw : List Byte) (coded : Option (List Byte)) (s : State) : kept (getResponse a raw coded s) = kept s := by
  simp [getResponse]

@[simp] theorem targetBack_kept (id : Nat) (bs : List Byte) (s : State) : kept (targetBack id bs s) = kept s := by
  unfold targetBack; (repeat' split) <;> simp

@[simp] theorem targetFailed_kept (id : Nat) (s : State) : kept (targetFailed id s) = kept s := by
  unfold targetFailed; (repeat' split) <;> simp

@[simp] theorem committed_kept (id : Nat) (s : State) : kept (committed id s) = kept s := by
  unfold committed; (repeat' split) <;> simp

/-! ## Answers -/

@[simp] theorem stopLost_kept (id : Nat) (s : State) : kept (stopLost id s) = kept s := by
  unfold stopLost; (repeat (first | (simp; done) | (refine (modCmd_kept _ _ _ (by intro c; rfl)).trans ?_) | (refine (modCmd_kept _ _ _ (by intro c; (repeat' split) <;> rfl)).trans ?_) | (refine (congrArg toStill (modCmd_kept _ _ _ (by intro c; rfl))).trans ?_) | (intro _) | simp | split))

@[simp] theorem loseSignal_kept (id : Nat) (u : Xu) (d : BitVec 9) (s : State) : kept (loseSignal id u d s) = kept s := by
  unfold loseSignal; (repeat (first | (simp; done) | (refine (modCmd_kept _ _ _ (by intro c; rfl)).trans ?_) | (refine (modCmd_kept _ _ _ (by intro c; (repeat' split) <;> rfl)).trans ?_) | (refine (congrArg toStill (modCmd_kept _ _ _ (by intro c; rfl))).trans ?_) | (intro _) | simp | split))

@[simp] theorem loseUnit_kept (u : Xu) (d : BitVec 9) (s : State) : kept (loseUnit u d s) = kept s := by
  unfold loseUnit; (repeat' split) <;> simp

@[simp] theorem loseGhosts_kept (p : Nat) (hit : BitVec 9 → Bool) (s : State) : kept (loseGhosts p hit s) = kept s := by
  unfold loseGhosts; (repeat' split) <;> simp

@[simp] theorem losePlane_kept (p : Nat) (hit : BitVec 9 → Bool) (s : State) : kept (losePlane p hit s) = kept s := by
  simp [losePlane]

@[simp] theorem ghostAnswered_kept (t : Txn) (s : State) : kept (ghostAnswered t s) = kept s := by
  unfold ghostAnswered; (repeat' split) <;> simp

@[simp] theorem countStale_kept (s : State) : kept (countStale s) = kept s := by
  unfold countStale; (repeat' split) <;> simp

@[simp] theorem sealAnswer_kept (q : Option (BitVec 6)) (t : Txn) (s : State) : kept (sealAnswer q t s) = kept s := by
  unfold sealAnswer; (repeat' split) <;> simp

@[simp] theorem staleAnswer_kept (t : Txn) (s : State) : kept (staleAnswer t s) = kept s := by
  simp [staleAnswer]

@[simp] theorem badAnswer_kept (q : BitVec 6) (t : Txn) (s : State) : kept (badAnswer q t s) = kept s := by
  simp [badAnswer]

@[simp] theorem withItem_kept (t : Txn) (f : Xu → State → State) (none_ : State → State) (s : State) (h_f : ∀ x0 s, kept (f x0 s) = kept s) (h_none_ : ∀ s, kept (none_ s) = kept s) : kept (withItem t f none_ s) = kept s := by
  unfold withItem; (repeat' split) <;> simp [*]

@[simp] theorem afterAnswer_kept (u : UnitFor) (s : State) : kept (afterAnswer u s) = kept s := by
  unfold afterAnswer; (repeat' split) <;> simp

@[simp] theorem slotFreed_kept (id : Nat) (d : BitVec 9) (s : State) : kept (slotFreed id d s) = kept s := by
  simp [slotFreed]

@[simp] theorem queueRelease_kept (d : BitVec 9) (tag : BitVec 16) (s : State) : kept (queueRelease d tag s) = kept s := by
  simp [queueRelease]

@[simp] theorem signalDone_kept (t : Txn) (s : State) : kept (signalDone t s) = kept s := by
  unfold signalDone; (repeat' split) <;> simp

@[simp] theorem queryReply_kept (t : Txn) (s : State) : kept (queryReply t s) = kept s := by
  unfold queryReply; (repeat' split) <;> simp

@[simp] theorem refusedItem_kept (id key : Nat) (st : BitVec 8) (d : BitVec 9) (s : State) : kept (refusedItem id key st d s) = kept s := by
  simp [refusedItem]

@[simp] theorem refused_kept (t : Txn) (s : State) : kept (refused t s) = kept s := by
  unfold refused
  refine withItem_kept _ _ _ _ ?_ ?_
  · intro u s; split <;> simp
  · intro s; (repeat' split) <;> simp

@[simp] theorem discardResponse_kept (a : Arrival) (s : State) : kept (discardResponse a s) = kept s := by
  simp [discardResponse]

@[simp] theorem failResponse_kept (a : Arrival) (id : Nat) (st : BitVec 8) (s : State) : kept (failResponse a id st s) = kept s := by
  simp [failResponse]

@[simp] theorem writeResponse_kept (a : Arrival) (c : Cmd) (pieces : List (Nat × Nat)) (bs : List Byte) (s : State) : kept (writeResponse a c pieces bs s) = kept s := by
  simp [writeResponse]

@[simp] theorem responseGo_kept (a : Arrival) (s : State) : kept (responseGo a s) = kept s := by
  unfold responseGo; (repeat' split) <;> (repeat (first | (simp; done) | (refine (modCmd_kept _ _ _ (by intro c; rfl)).trans ?_) | (refine (modCmd_kept _ _ _ (by intro c; (repeat' split) <;> rfl)).trans ?_) | (refine (congrArg toStill (modCmd_kept _ _ _ (by intro c; rfl))).trans ?_) | (intro _) | simp | split))

@[simp] theorem retryResponses_kept (s : State) : kept (retryResponses s) = kept s := by
  unfold retryResponses; simp

@[simp] theorem responseStage_kept (a : Arrival) (s : State) : kept (responseStage a s) = kept s := by
  unfold responseStage
  split
  · simp
  · dsimp only
    split
    · simp
    · generalize hs : modArrival a.id _ s = s1
      have h1 : kept s1 = kept s := by rw [← hs]; simp
      rw [← h1]
      generalize (Option.getD _ _ : BitVec 6) = q
      have h := openTxn_kept q a.txn s1
      split <;> rename_i he <;> rw [he] at h <;> dsimp only at h <;> rw [← h] <;> (repeat' split) <;> simp

@[simp] theorem overrunItem_kept (t : Txn) (s : State) : kept (overrunItem t s) = kept s := by
  unfold overrunItem; (repeat' split) <;> simp

@[simp] theorem landResponse_kept (kind : Nat) (via : Via) (t : Txn) (s : State) : kept (landResponse kind via t s) = kept s := by
  simp [landResponse]

@[simp] theorem responseWritten_kept (a : Arrival) (id : Nat) (s : State) : kept (responseWritten a id s) = kept s := by
  unfold responseWritten; (repeat (first | (simp; done) | (refine (modCmd_kept _ _ _ (by intro c; rfl)).trans ?_) | (refine (modCmd_kept _ _ _ (by intro c; (repeat' split) <;> rfl)).trans ?_) | (refine (congrArg toStill (modCmd_kept _ _ _ (by intro c; rfl))).trans ?_) | (intro _) | simp | split))

@[simp] theorem responseFailed_kept (a : Arrival) (id : Nat) (s : State) : kept (responseFailed a id s) = kept s := by
  simp [responseFailed]

@[simp] theorem query_kept (via : Via) (t : Txn) (s : State) : kept (query via t s) = kept s := by
  unfold query; (repeat' split) <;> simp

/-! ## Windows -/

@[simp] theorem mgmtWait_kept (id : Nat) (s : State) : kept (mgmtWait id s) = kept s := by
  unfold mgmtWait; (repeat (first | (simp; done) | (refine (modCmd_kept _ _ _ (by intro c; rfl)).trans ?_) | (refine (modCmd_kept _ _ _ (by intro c; (repeat' split) <;> rfl)).trans ?_) | (refine (congrArg toStill (modCmd_kept _ _ _ (by intro c; rfl))).trans ?_) | (intro _) | simp | split))

@[simp] theorem doneAfter_kept (id : Nat) (st : BitVec 8) (result : Word) (cells : List (Nat × Byte)) (s : State) : kept (doneAfter id st result cells s) = kept s := by
  unfold doneAfter; (repeat (first | (simp; done) | (refine (modCmd_kept _ _ _ (by intro c; rfl)).trans ?_) | (refine (modCmd_kept _ _ _ (by intro c; (repeat' split) <;> rfl)).trans ?_) | (refine (congrArg toStill (modCmd_kept _ _ _ (by intro c; rfl))).trans ?_) | (intro _) | simp | split))

@[simp] theorem mgmtWritten_kept (id : Nat) (s : State) : kept (mgmtWritten id s) = kept s := by
  unfold mgmtWritten; (repeat (first | (simp; done) | (refine (modCmd_kept _ _ _ (by intro c; rfl)).trans ?_) | (refine (modCmd_kept _ _ _ (by intro c; (repeat' split) <;> rfl)).trans ?_) | (refine (congrArg toStill (modCmd_kept _ _ _ (by intro c; rfl))).trans ?_) | (intro _) | simp | split))

@[simp] theorem runWinOpen_kept (pkt : List Word) (id : Nat) (s : State) : kept (runWinOpen pkt id s) = kept s := by
  unfold runWinOpen; (repeat' split) <;> simp

@[simp] theorem cancelSignals_kept (hit : SigEnt → Bool) (st : BitVec 8) (s : State) : kept (cancelSignals hit st s) = kept s := by
  simp [cancelSignals]

@[simp] theorem closeWindow_kept (h : Nat) (cmd : Option Nat) (s : State) : kept (closeWindow h cmd s) = kept s := by
  simp [closeWindow]

@[simp] theorem runWinClose_kept (pkt : List Word) (id : Nat) (s : State) : kept (runWinClose pkt id s) = kept s := by
  unfold runWinClose; (repeat' split) <;> simp

@[simp] theorem closeDrained_kept (h : Nat) (s : State) : kept (closeDrained h s) = kept s := by
  unfold closeDrained; (repeat' split) <;> simp

@[simp] theorem quarantineEnd_kept (h : Nat) (s : State) : kept (quarantineEnd h s) = kept s := by
  unfold quarantineEnd; (repeat' split) <;> simp

@[simp] theorem signalExpiry_kept (src : BitVec 9) (tag : BitVec 16) (s : State) : kept (signalExpiry src tag s) = kept s := by
  unfold signalExpiry; (repeat' split) <;> simp

@[simp] theorem stageTimeout_kept (id : Nat) (s : State) : kept (stageTimeout id s) = kept s := by
  unfold stageTimeout; (repeat' split) <;> simp

@[simp] theorem brokenFree_kept (window : BitVec 20) (offset : BitVec 48) (stripe : BitVec 40) (s : State) : kept (brokenFree window offset stripe s) = kept s := by
  unfold brokenFree; simp; (repeat' split) <;> simp

/-! ## TerCmds -/

@[simp] theorem retryAll_kept (s : State) : toStill (kept (retryAll s)) = toStill (kept s) := by
  unfold retryAll
  simp only [retryResponses_kept, retryArrivals_kept]
  refine (still_foldl _ _ _ (fun s x => ?_)).trans (congrArg toStill (kept_foldl _ _ _ (fun s x => xlate_kept _ s)))
  split <;> simp

@[simp] theorem deliverBad_kept (q : BitVec 6) (va kind : Nat) (s : State) : toStill (kept (deliverBad q va kind s)) = toStill (kept s) := by
  simp [deliverBad]

@[simp] theorem restartWalk_kept (q : BitVec 6) (va : Nat) (ingress : Bool) (s : State) : toStill (kept (restartWalk q va ingress s)) = toStill (kept s) := by
  unfold restartWalk; simp

@[simp] theorem walkBack_kept (q : BitVec 6) (va depth : Nat) (ingress stale pages : Bool) (bs : List Byte) (s : State) : toStill (kept (walkBack q va depth ingress stale pages bs s)) = toStill (kept s) := by
  unfold walkBack; dsimp only; (repeat' split) <;> simp

@[simp] theorem walkFailed_kept (q : BitVec 6) (va : Nat) (ingress stale : Bool) (s : State) : toStill (kept (walkFailed q va ingress stale s)) = toStill (kept s) := by
  simp [walkFailed]

@[simp] theorem abortCmd_kept (st : BitVec 8) (id : Nat) (seq : BitVec 32) (s : State) : kept (abortCmd st id seq s) = kept s := by
  unfold abortCmd; (repeat (first | (simp; done) | (refine (modCmd_kept _ _ _ (by intro c; rfl)).trans ?_) | (refine (modCmd_kept _ _ _ (by intro c; (repeat' split) <;> rfl)).trans ?_) | (refine (congrArg toStill (modCmd_kept _ _ _ (by intro c; rfl))).trans ?_) | (intro _) | simp | split))

@[simp] theorem abortRequester_kept (st : BitVec 8) (seq : BitVec 32) (w : Requester) (s : State) : toStill (kept (abortRequester st seq w s)) = toStill (kept s) := by
  unfold abortRequester; (repeat' split) <;> simp

@[simp] theorem wakeRequester_kept (w : Requester) (s : State) : toStill (kept (wakeRequester w s)) = toStill (kept s) := by
  unfold wakeRequester; (repeat' split) <;> simp

@[simp] theorem closeRec_kept (r : TerRec) (s : State) : kept (closeRec r s) = kept s := by
  simp [closeRec]

@[simp] theorem abortRec_kept (r : TerRec) (s : State) : toStill (kept (abortRec r s)) = toStill (kept s) := by
  simp [abortRec]

@[simp] theorem stopRec_kept (r : TerRec) (s : State) : toStill (kept (stopRec r s)) = toStill (kept s) := by
  simp [stopRec]

@[simp] theorem purgeCache_kept (q : BitVec 6) (lo hi : Nat) (s : State) : kept (purgeCache q lo hi s) = kept s := by
  simp [purgeCache]

@[simp] theorem runResolve_kept (abort : Bool) (pkt : List Word) (id : Nat) (s : State) : toStill (kept (runResolve abort pkt id s)) = toStill (kept s) := by
  unfold runResolve; (repeat' split) <;> simp

@[simp] theorem terTimeout_kept (seq : BitVec 32) (s : State) : toStill (kept (terTimeout seq s)) = toStill (kept s) := by
  unfold terTimeout; (repeat' split) <;> simp

@[simp] theorem terEnCleared_kept (s : State) : toStill (kept (terEnCleared s)) = toStill (kept s) := by
  simp [terEnCleared]

@[simp] theorem dropRanges_kept (q : BitVec 6) (lo hi : Nat) (s : State) : kept (dropRanges q lo hi s) = kept s := by
  simp [dropRanges]

@[simp] theorem runInvalidate_kept (pkt : List Word) (id : Nat) (s : State) : kept (runInvalidate pkt id s) = kept s := by
  simp [runInvalidate]

@[simp] theorem invalidateAck_kept (agent : BitVec 6) (s : State) : kept (invalidateAck agent s) = kept s := by
  unfold invalidateAck; (repeat' split) <;> simp

@[simp] theorem invalidateLate_kept (s : State) : kept (invalidateLate s) = kept s := by
  unfold invalidateLate; (repeat' split) <;> simp

/-! ## Dap -/

@[simp] theorem runApertureSet_kept (pkt : List Word) (id : Nat) (s : State) : kept (runApertureSet pkt id s) = kept s := by
  simp [runApertureSet]

@[simp] theorem dapAccess_kept (pa : BitVec 52) (store : Bool) (size : Nat) (data : List Byte) (s : State) : kept (dapAccess pa store size data s) = kept s := by
  unfold dapAccess; (repeat' split) <;> simp

@[simp] theorem stageRow_kept (g : List Nat) (gang : Nat) (inverse : Bool) (q : BitVec 6) (r : Nat) (codes : List Nat) (s : State) : kept (stageRow g gang inverse q r codes s) = kept s := by
  unfold stageRow; (repeat' split) <;> simp

@[simp] theorem stageRows_kept (g : List Nat) (gang : Nat) (inverse : Bool) (q : BitVec 6) (r : Nat) (xs : List (List Nat)) (s : State) : kept (stageRows g gang inverse q r xs s) = kept s := by
  induction xs generalizing r s with
  | nil => rfl
  | cons x xs ih => unfold stageRows; simp [ih]

@[simp] theorem stageTiles_kept (g : List Nat) (gang : Nat) (q : BitVec 6) (rows : List (List Nat)) (s : State) : kept (stageTiles g gang q rows s) = kept s := by
  unfold stageTiles; (repeat' split) <;> simp

/-! ## Mill -/

@[simp] theorem runProfileSet_kept (pkt : List Word) (id : Nat) (s : State) : kept (runProfileSet pkt id s) = kept s := by
  unfold runProfileSet; (repeat' split) <;> simp

@[simp] theorem runTableSet_kept (pkt : List Word) (id : Nat) (s : State) : kept (runTableSet pkt id s) = kept s := by
  unfold runTableSet; (repeat' split) <;> simp

@[simp] theorem runMatrixSet_kept (pkt : List Word) (id : Nat) (s : State) : kept (runMatrixSet pkt id s) = kept s := by
  unfold runMatrixSet; (repeat' split) <;> simp

@[simp] theorem millClears_kept (s : State) : kept (millClears s) = kept s := by
  simp [millClears]

@[simp] theorem runMatrixClear_kept (pkt : List Word) (id : Nat) (s : State) : kept (runMatrixClear pkt id s) = kept s := by
  unfold runMatrixClear; (repeat' split) <;> simp

@[simp] theorem runMilRelease_kept (pkt : List Word) (id : Nat) (s : State) : kept (runMilRelease pkt id s) = kept s := by
  unfold runMilRelease; (repeat' split) <;> simp

@[simp] theorem countUnchecked_kept (cs : List (List RowCheck)) (s : State) : kept (countUnchecked cs s) = kept s := by
  simp [countUnchecked]

@[simp] theorem millFail_kept (w : MillWork) (t : MillTask) (gang : Nat) (cs : List RowCheck) (cmds : List Nat) (s : State) : kept (millFail w t gang cs cmds s) = kept s := by
  simp [millFail]

@[simp] theorem millStage_kept (w : MillWork) (t : MillTask) (r : Nat) (codes : List (List Nat)) (s : State) : kept (millStage w t r codes s) = kept s := by
  simp [millStage]

@[simp] theorem rotate__kept (w : MillWork) (t : MillTask) (f : FpFmt) (xs : Rows) (cmds : List Nat) (s : State) : kept (rotate_ w t f xs cmds s).2 = kept s := by
  unfold rotate_
  dsimp only
  split <;> simp

@[simp] theorem giveBack_kept (w : MillWork) (s : State) : kept (giveBack w s) = kept s := by
  simp [giveBack]

@[simp] theorem egressStream_kept (id : Nat) (c : Cmd) (t : MillTask) (s : State) : kept (egressStream id c t s) = kept s := by
  unfold egressStream
  dsimp only
  split
  · split
    · split
      · rw [feed_kept, failSelf_kept, modCmd_kept _ _ _ (by intro c; rfl)]; simp
      · rw [feed_kept, copyOut_kept, modCmd_kept _ _ _ (by intro c; rfl), modCmd_kept _ _ _ (by intro c; rfl)]; simp
    · rw [feed_kept, failSelf_kept, modCmd_kept _ _ _ (by intro c; rfl)]; simp
  · split
    · rw [feed_kept, failSelf_kept, modCmd_kept _ _ _ (by intro c; rfl)]; simp
    · split
      · rw [feed_kept, copyOut_kept, modCmd_kept _ _ _ (by intro c; rfl)]; simp
      · rw [feed_kept, emitStripe_kept, modCmd_kept _ _ _ (by intro c; rfl)]; simp

@[simp] theorem ingressStream_kept (a : Arrival) (t : MillTask) (s : State) : kept (ingressStream a t s) = kept s := by
  unfold ingressStream; simp; (repeat' split) <;> simp

@[simp] theorem jobStream_kept (id : Nat) (c : Cmd) (t : MillTask) (s : State) : kept (jobStream id c t s) = kept s := by
  unfold jobStream
  dsimp only
  generalize hs : modCmd id _ _ = s1
  have h1 : kept s1 = kept s := by rw [← hs, modCmd_kept _ _ _ (by intro c; rfl)]; simp
  rw [← h1]
  split
  · rw [feed_kept]; split <;> simp
  · rw [rowsOut_kept]; split <;> simp

@[simp] theorem gangGo_kept (w : MillWork) (s : State) : kept (gangGo w s) = kept s := by
  unfold gangGo; (repeat (first | (simp; done) | (refine (modCmd_kept _ _ _ (by intro c; rfl)).trans ?_) | (refine (modCmd_kept _ _ _ (by intro c; (repeat' split) <;> rfl)).trans ?_) | (refine (congrArg toStill (modCmd_kept _ _ _ (by intro c; rfl))).trans ?_) | (intro _) | simp | split))

@[simp] theorem jobBack_kept (id : Nat) (bs : List Byte) (s : State) : kept (jobBack id bs s) = kept s := by
  unfold jobBack
  split
  · rfl
  · dsimp only
    generalize hs : modCmd id _ _ = s1
    have h1 : kept s1 = kept s := by rw [← hs, modCmd_kept _ _ _ (by intro c; rfl)]
    rw [← h1]
    (repeat' split) <;> try simp only [gangGo_kept, resumeXlate_kept, millStage_kept, checkDone_kept]
    all_goals rw [modCmd_kept _ _ _ (by intro c; rfl)]

@[simp] theorem millPump_kept (s : State) : kept (millPump s) = kept s := by
  unfold millPump
  refine kept_foldl _ _ _ (fun s x => ?_)
  split <;> simp

@[simp] theorem poolShrunk_kept (s : State) : kept (poolShrunk s) = kept s := by
  simp [poolShrunk]

@[simp] theorem millUnmapped_kept (w : MillWork) (t : MillTask) (va k : Nat) (s : State) : kept (millUnmapped w t va k s) = kept s := by
  unfold millUnmapped; (repeat' split) <;> simp

@[simp] theorem takeGang_kept (w : MillWait) (t : MillTask) (g : List Nat) (s : State) : kept (takeGang w t g s) = kept s := by
  unfold takeGang; simp; (repeat' split) <;> simp

@[simp] theorem matrixBack_kept (w : MillWork) (bs : List Byte) (s : State) : kept (matrixBack w bs s) = kept s := by
  unfold matrixBack; split <;> simp

@[simp] theorem matrixFailed_kept (w : MillWork) (s : State) : kept (matrixFailed w s) = kept s := by
  unfold matrixFailed
  split
  · rfl
  · split
    · rw [feed_kept, failSelf_kept, modCmd_kept _ _ _ (by intro c; rfl)]
    · rw [feed_kept, failSelf_kept, modCmd_kept _ _ _ (by intro c; rfl)]; simp
    · (repeat' split) <;> simp

@[simp] theorem loadDone_kept (n : Nat) (s : State) : kept (loadDone n s) = kept s := by
  unfold loadDone; simp; (repeat' split) <;> simp

@[simp] theorem gangTimeout_kept (id : Nat) (s : State) : kept (gangTimeout id s) = kept s := by
  unfold gangTimeout
  split
  · rfl
  · dsimp only
    generalize hs : giveBack _ _ = s1
    have h1 : kept s1 = kept s := by rw [← hs, giveBack_kept]; rfl
    (repeat' split) <;> try simp only [failResponse_kept, retryArrivals_kept, refuseArrival_kept, h1]
    rw [resumeXlate_kept, feed_kept, modCmd_kept _ _ _ (by intro c; rfl), h1]

@[simp] theorem toggle_kept (n : Nat) (on : Bool) (s : State) : kept (toggle n on s) = kept s := by
  simp [toggle]

@[simp] theorem freeze_kept (w : MillWork) (s : State) : kept (freeze w s) = kept s := by
  unfold freeze; (repeat' split) <;> simp

@[simp] theorem stoneQuiet_kept (n : Nat) (s : State) : kept (stoneQuiet n s) = kept s := by
  unfold stoneQuiet; dsimp only; (repeat' split) <;> simp

@[simp] theorem stoneWake_kept (n : Nat) (s : State) : kept (stoneWake n s) = kept s := by
  unfold stoneWake; simp; (repeat' split) <;> simp

@[simp] theorem stoneLeaves_kept (old n : Nat) (s : State) : kept (stoneLeaves old n s) = kept s := by
  simp [stoneLeaves]

@[simp] theorem milPool_kept (val mask : Word) (s : State) : kept (milPool val mask s) = kept s := by
  simp [milPool]

@[simp] theorem millScrub_kept (q : BitVec 6) (s : State) : kept (millScrub q s) = kept s := by
  simp [millScrub]

end Sys2Proof.Laws
end

