-- ==== Sys2Proof/Laws/KeptBlock.lean ====
section
/-! SUPPORT. What each operation leaves alone (Laws/Kept.lean): planes, observation, parishes. -/

namespace Sys2Proof.Laws

open Sys2Proof Sys2Proof.Machine Sys2Proof.Safety

/-! ## Observe -/

/-! ## Planes -/

@[simp] theorem planesChanged_kept (old s : State) : kept (planesChanged old s) = kept s := by
  unfold planesChanged
  dsimp only
  rw [kept_foldl _ _ _ (fun s x => repin_kept _ _ s)]
  exact kept_foldl _ _ _ (fun s x => by split <;> simp)

@[simp] theorem resetTally_kept (d : Nat) (s : State) : kept (resetTally d s) = kept s := by
  simp [resetTally]

@[simp] theorem routesChanged_kept (old s : State) : kept (routesChanged old s) = kept s := by
  unfold routesChanged
  simp

@[simp] theorem runRouteLoad_kept (pkt : List Word) (id : Nat) (s : State) : kept (runRouteLoad pkt id s) = kept s := by
  simp [runRouteLoad]

@[simp] theorem loadEntry_kept (bank : Bool) (d : Nat) (e : BitVec 128) (s : State) : kept (loadEntry bank d e s) = kept s := by
  simp [loadEntry]

@[simp] theorem routeLoadBack_kept (id : Nat) (c : Cmd) (bs : List Byte) (s : State) : kept (routeLoadBack id c bs s) = kept s := by
  simp [routeLoadBack]

@[simp] theorem unpin_kept (changed : BitVec 9 → Bool) (s : State) : kept (unpin changed s) = kept s := by
  simp [unpin]

@[simp] theorem runRouteCommit_kept (id : Nat) (s : State) : kept (runRouteCommit id s) = kept s := by
  simp [runRouteCommit]

@[simp] theorem settleExpired_kept (s : State) : kept (settleExpired s) = kept s := by
  unfold settleExpired; (repeat' split) <;> simp

@[simp] theorem runStripeMap_kept (pkt : List Word) (id : Nat) (s : State) : kept (runStripeMap pkt id s) = kept s := by
  simp [runStripeMap]

@[simp] theorem stripeMapBack_kept (id : Nat) (c : Cmd) (bs : List Byte) (s : State) : kept (stripeMapBack id c bs s) = kept s := by
  simp [stripeMapBack]

@[simp] theorem drainsEnd_kept (s : State) : kept (drainsEnd s) = kept s := by
  simp [drainsEnd]

@[simp] theorem runPlaneDrain_kept (on : Bool) (pkt : List Word) (id : Nat) (s : State) : kept (runPlaneDrain on pkt id s) = kept s := by
  simp [runPlaneDrain]

@[simp] theorem dropQueued_kept (p : Nat) (hit : BitVec 9 → Bool) (s : State) : kept (dropQueued p hit s) = kept s := by
  unfold dropQueued; (repeat' split) <;> simp

@[simp] theorem planeNotice_kept (l p : Nat) (racks : BitVec 8) (slots : BitVec 64) (s : State) : kept (planeNotice l p racks slots s) = kept s := by
  simp [planeNotice]

@[simp] theorem runTallyPlan_kept (pkt : List Word) (id : Nat) (s : State) : kept (runTallyPlan pkt id s) = kept s := by
  simp [runTallyPlan]

@[simp] theorem tallyPlanBack_kept (id : Nat) (bs : List Byte) (s : State) : kept (tallyPlanBack id bs s) = kept s := by
  simp [tallyPlanBack]

@[simp] theorem runPlanClear_kept (pkt : List Word) (id : Nat) (s : State) : kept (runPlanClear pkt id s) = kept s := by
  simp [runPlanClear]

@[simp] theorem unitLapses_kept (u : Xu) (d : BitVec 9) (s : State) : kept (unitLapses u d s) = kept s := by
  unfold unitLapses; (repeat' split) <;> simp

@[simp] theorem fenceCmd_kept (id : Nat) (d : BitVec 9) (s : State) : kept (fenceCmd id d s) = kept s := by
  unfold fenceCmd; (repeat' split) <;> simp

@[simp] theorem leaveUnits_kept (id : Nat) (s : State) : kept (leaveUnits id s) = kept s := by
  unfold leaveUnits; (repeat' split) <;> simp

@[simp] theorem fenceTakes_kept (d : BitVec 9) (s : State) : kept (fenceTakes d s) = kept s := by
  unfold fenceTakes
  dsimp only
  refine (kept_mk ..).trans ?_
  rw [kept_fold, cancelSignals_kept, retryArrivals_kept, wakeCombines_kept, kept_foldl _ _ _ ?_, kept_foldl _ _ _ ?_, kept_foldl _ _ _ ?_]
  · intro s x; simp
  rotate_left
  · intro s x; simp
  · intro s u; (repeat' split) <;> simp

@[simp] theorem setFence_kept (d : BitVec 9) (device : Bool) (mask : BitVec 64) (byReeve : Bool) (s : State) : kept (setFence d device mask byReeve s) = kept s := by
  simp [setFence]

@[simp] theorem clearFence_kept (d : BitVec 9) (device : Bool) (mask : BitVec 64) (byReeve : Bool) (s : State) : kept (clearFence d device mask byReeve s) = kept s := by
  simp [clearFence]

@[simp] theorem runFence_kept (set : Bool) (pkt : List Word) (id : Nat) (s : State) : kept (runFence set pkt id s) = kept s := by
  simp [runFence]

@[simp] theorem byReeve_kept (f : State → State) (s : State) (h_f : ∀ s, kept (f s) = kept s) : kept (byReeve f s) = kept s := by
  unfold byReeve; simp [*]

@[simp] theorem reeveFence_kept (set : Bool) (d : BitVec 9) (device : Bool) (mask : BitVec 64) (s : State) : kept (reeveFence set d device mask s) = kept s := by
  simp [reeveFence]

@[simp] theorem runWatchSet_kept (clear : Bool) (pkt : List Word) (id : Nat) (s : State) : kept (runWatchSet clear pkt id s) = kept s := by
  unfold runWatchSet; (repeat' split) <;> simp

@[simp] theorem asWatch_kept (pkt : List Word) (clear : Bool) (f : State → State) (s : State) (h_f : ∀ s, kept (f s) = kept s) : kept (asWatch pkt clear f s) = kept s := by
  unfold asWatch; simp [*]

@[simp] theorem runTraceCtl_kept (pkt : List Word) (id : Nat) (s : State) : kept (runTraceCtl pkt id s) = kept s := by
  simp [runTraceCtl]

@[simp] theorem traceCtlBack_kept (id : Nat) (c : Cmd) (bs : List Byte) (s : State) : kept (traceCtlBack id c bs s) = kept s := by
  simp [traceCtlBack]

@[simp] theorem sampleOne_kept (q : BitVec 6) (ch : BitVec 21) (s : State) : kept (sampleOne q ch s) = kept s := by
  simp [sampleOne]

@[simp] theorem telemetry_kept (s : State) : kept (telemetry s) = kept s := by
  unfold telemetry
  split
  · rfl
  · dsimp only
    split
    · rw [kept_mk, kept_fold]; simp
    · simp

@[simp] theorem hangCheck_kept (s : State) : kept (hangCheck s) = kept s := by
  unfold hangCheck; simp; (repeat' split) <;> simp

@[simp] theorem runHangReport_kept (snapshot : Bool) (pkt : List Word) (id : Nat) (s : State) : kept (runHangReport snapshot pkt id s) = kept s := by
  unfold runHangReport; (repeat (first | (simp; done) | (refine (modCmd_kept _ _ _ (by intro c; rfl)).trans ?_) | (refine (modCmd_kept _ _ _ (by intro c; (repeat' split) <;> rfl)).trans ?_) | (refine (congrArg toStill (modCmd_kept _ _ _ (by intro c; rfl))).trans ?_) | (intro _) | simp | split))

@[simp] theorem hangReport_kept (snapshot : Bool) (ch : BitVec 21) (pkt : List Word) (s : State) : toStill (kept (hangReport snapshot ch pkt s)) = toStill (kept s) := by
  simp [hangReport]

/-! ## Parishes -/

@[simp] theorem sealRecord_kept (q : BitVec 6) (s : State) : kept (sealRecord q s) = kept s := by
  simp [sealRecord]

@[simp] theorem createParish_kept (q : BitVec 6) (tag : BitVec 16) (sealed_ : Bool) (s : State) : kept (createParish q tag sealed_ s) = kept s := by
  simp [createParish]

@[simp] theorem runParishCreate_kept (pkt : List Word) (id : Nat) (s : State) : kept (runParishCreate pkt id s) = kept s := by
  simp [runParishCreate]

@[simp] theorem runParishSet_kept (pkt : List Word) (id : Nat) (s : State) : kept (runParishSet pkt id s) = kept s := by
  simp [runParishSet]

@[simp] theorem freeSlot_kept (reason n : Nat) (s : State) : kept (freeSlot reason n s) = kept s := by
  simp [freeSlot]

@[simp] theorem freeSlots_kept (reason : Nat) (hit : PairSlot → Bool) (s : State) : kept (freeSlots reason hit s) = kept s := by
  simp [freeSlots]

@[simp] theorem dropJob_kept (q : BitVec 6) (d : BitVec 9) (s : State) : kept (dropJob q d s) = kept s := by
  unfold dropJob; (repeat' split) <;> simp

@[simp] theorem jobFails_kept (j : KeyJob) (cause detail : Nat) (s : State) : kept (jobFails j cause detail s) = kept s := by
  simp [jobFails]

theorem installKey_kept (q : BitVec 6) (d : BitVec 9) (gen : BitVec 8) (peerPar : BitVec 6) (created : BitVec 32) (key : BitVec 256) (s t : State)
    (h : installKey q d gen peerPar created key s = some t) : kept t = kept s := by
  unfold installKey at h
  dsimp only at h
  generalize hs : (if gen = 0 ∧ ((slotsOf s q d).any fun e => e.2.state == .active && e.2.gen == 255) = false then _ else _ : State) = s1 at h
  have h1 : kept s1 = kept s := by rw [← hs]; (repeat' split) <;> simp
  split at h
  · cases h
  · cases h; simp [h1]

@[simp] theorem activateKey_kept (q : BitVec 6) (d : BitVec 9) (s : State) : kept (activateKey q d s) = kept s := by
  simp [activateKey]

@[simp] theorem keyDone_kept (q : BitVec 6) (d : BitVec 9) (responder rekey : Bool) (s : State) : kept (keyDone q d responder rekey s) = kept s := by
  simp [keyDone]

@[simp] theorem addJob_kept (q : BitVec 6) (d : BitVec 9) (rekey : Bool) (s : State) : kept (addJob q d rekey s) = kept s := by
  simp [addJob]

@[simp] theorem runKeyPair_kept (rekey : Bool) (pkt : List Word) (id : Nat) (s : State) : kept (runKeyPair rekey pkt id s) = kept s := by
  simp [runKeyPair]

@[simp] theorem keyTimeout_kept (q : BitVec 6) (d : BitVec 9) (s : State) : kept (keyTimeout q d s) = kept s := by
  unfold keyTimeout; (repeat' split) <;> simp

@[simp] theorem openSession_kept (peer : Option (BitVec 9)) (job : Option (BitVec 6)) (s : State) : kept (openSession peer job s) = kept s := by
  unfold openSession; (repeat' split) <;> simp

@[simp] theorem sealOffered_kept (x : SpdmSession) (d : BitVec 9) (tag : BitVec 16) (gen : BitVec 8) (par : BitVec 6) (created : BitVec 32) (s : State) :
    kept (sealOffered x d tag gen par created s).1 = kept s := by
  unfold sealOffered
  split
  · rfl
  · split
    · rfl
    · exact installKey_kept _ _ _ _ _ _ _ _ ‹_›

@[simp] theorem sealFinished_kept (d : BitVec 9) (tag : BitVec 16) (s : State) : kept (sealFinished d tag s).1 = kept s := by
  unfold sealFinished
  split
  · rfl
  · split <;> simp

@[simp] theorem answerMsg_kept (ses : Option SpdmSession) (v : BitVec 8) (m : SpdmMsg) (s : State) : kept (answerMsg ses v m s).1 = kept s := by
  unfold answerMsg
  split <;> first | rfl | (split <;> first | rfl | simp | (split <;> first | rfl | simp))

@[simp] theorem asResponder_kept (bs : List Byte) (s : State) : kept (asResponder bs s).1 = kept s := by
  unfold asResponder
  dsimp only
  (repeat' split) <;> first | rfl | simp

@[simp] theorem reeveWrites_kept (pkt : List Word) (id : Nat) (first asked : List Byte) (r : SpdmReply) (s : State) : kept (reeveWrites pkt id first asked r s) = kept s := by
  simp [reeveWrites]

@[simp] theorem runReeveRead_kept (pkt : List Word) (id : Nat) (s : State) : kept (runReeveRead pkt id s) = kept s := by
  simp [runReeveRead]

@[simp] theorem modJob_kept (j : KeyJob) (f : KeyJob → KeyJob) (s : State) : kept (modJob j f s) = kept s := by
  unfold modJob; (repeat' split) <;> simp

@[simp] theorem jobPulled_kept (j : KeyJob) (s : State) : kept (jobPulled j s) = kept s := by
  unfold jobPulled; (repeat' split) <;> simp

@[simp] theorem runReevePull_kept (pkt : List Word) (id : Nat) (s : State) : kept (runReevePull pkt id s) = kept s := by
  unfold runReevePull; (repeat' split) <;> simp

@[simp] theorem sealAccepted_kept (j : KeyJob) (secret : BitVec 384) (par : BitVec 6) (created : BitVec 32) (s : State) : kept (sealAccepted j secret par created s) = kept s := by
  unfold sealAccepted
  dsimp only
  split
  · simp
  · rw [modJob_kept]; exact installKey_kept _ _ _ _ _ _ _ _ ‹_›

@[simp] theorem jobHears_kept (j : KeyJob) (bs : List Byte) (s : State) : kept (jobHears j bs s) = kept s := by
  unfold jobHears
  dsimp only
  split <;> (repeat' split) <;> simp

@[simp] theorem asRequester_kept (bs : List Byte) (s : State) : kept (asRequester bs s) = kept s := by
  unfold asRequester; split <;> simp

@[simp] theorem reeveMsgBack_kept (id : Nat) (c : Cmd) (bs : List Byte) (s : State) : kept (reeveMsgBack id c bs s) = kept s := by
  unfold reeveMsgBack; split <;> simp

@[simp] theorem runReeveNotes_kept (pkt : List Word) (id : Nat) (s : State) : kept (runReeveNotes pkt id s) = kept s := by
  simp [runReeveNotes]

@[simp] theorem retire_kept (q : BitVec 6) (s : State) : toStill (kept (retire q s)) = toStill (kept s) := by
  unfold retire; (repeat (first | (simp; done) | (refine (modCmd_kept _ _ _ (by intro c; rfl)).trans ?_) | (refine (modCmd_kept _ _ _ (by intro c; (repeat' split) <;> rfl)).trans ?_) | (refine (congrArg toStill (modCmd_kept _ _ _ (by intro c; rfl))).trans ?_) | (intro _) | simp | split))

@[simp] theorem runParishRetire_kept (pkt : List Word) (id : Nat) (s : State) : toStill (kept (runParishRetire pkt id s)) = toStill (kept s) := by
  simp [runParishRetire]

@[simp] theorem reeveRetire_kept (q : BitVec 6) (s : State) : toStill (kept (reeveRetire q s)) = toStill (kept s) := by
  simp [reeveRetire]

@[simp] theorem stopCmd_kept (id : Nat) (s : State) : kept (stopCmd id s) = kept s := by
  unfold stopCmd; (repeat (first | (simp; done) | (refine (modCmd_kept _ _ _ (by intro c; rfl)).trans ?_) | (refine (modCmd_kept _ _ _ (by intro c; (repeat' split) <;> rfl)).trans ?_) | (refine (congrArg toStill (modCmd_kept _ _ _ (by intro c; rfl))).trans ?_) | (intro _) | simp | split))

@[simp] theorem endUnits_kept (q : BitVec 6) (s : State) : kept (endUnits q s) = kept s := by
  unfold endUnits
  rw [dropUnits_kept]
  refine kept_foldl _ _ _ (fun s u => ?_)
  split <;> simp

@[simp] theorem stopParish_kept (q : BitVec 6) (s : State) : kept (stopParish q s) = kept s := by
  simp [stopParish]

@[simp] theorem quarantine_kept (q : BitVec 6) (s : State) : kept (quarantine q s) = kept s := by
  simp [quarantine]

@[simp] theorem clearParish_kept (q : BitVec 6) (s : State) : kept (clearParish q s) = kept s := by
  simp [clearParish]

@[simp] theorem parishCleared_kept (q : BitVec 6) (s : State) : kept (parishCleared q s) = kept s := by
  simp [parishCleared]

@[simp] theorem scrub_kept (own : Bool) (s : State) : toStill (kept (scrub own s)) = toStill (kept s) := by
  simp [scrub]

@[simp] theorem scrubClears_kept (s : State) : kept (scrubClears s) = kept s := by
  simp [scrubClears]

@[simp] theorem refuseJob_kept (q : BitVec 6) (d : BitVec 9) (s : State) : kept (refuseJob q d s) = kept s := by
  simp [refuseJob]

@[simp] theorem mailbox_kept (req : MailboxReq) (s : State) : kept (mailbox req s) = kept s := by
  unfold mailbox; (repeat' split) <;> simp

end Sys2Proof.Laws
end

