-- ==== Sys2Proof/Laws/KeptLinks.lean ====
section
/-! SUPPORT. What each operation leaves alone (Laws/Kept.lean): flits, Almanac, links, power, faults, Curfew, calibration. -/

namespace Sys2Proof.Laws

open Sys2Proof Sys2Proof.Machine Sys2Proof.Safety

/-! ## Clock -/

@[simp] theorem modTime_kept (p : Nat) (f : TimeLink → TimeLink) (s : State) : kept (modTime p f s) = kept s := by
  simp [modTime]

@[simp] theorem servo_kept (s : State) : kept (servo s) = kept s := by
  simp [servo]

@[simp] theorem followTime_kept (s : State) : kept (followTime s) = kept s := by
  unfold followTime; (repeat' split) <;> simp

@[simp] theorem timeLost_kept (p : Nat) (s : State) : kept (timeLost p s) = kept s := by
  simp [timeLost]

@[simp] theorem queueCtrl_kept (p : Nat) (sub : BitVec 8) (w1 : Word) (s : State) : kept (queueCtrl p sub w1 s) = kept s := by
  simp [queueCtrl]

@[simp] theorem sendLinkId_kept (p : Nat) (s : State) : kept (sendLinkId p s) = kept s := by
  simp [sendLinkId]

@[simp] theorem dropPartials_kept (p : Nat) (s : State) : kept (dropPartials p s) = kept s := by
  simp [dropPartials]

@[simp] theorem leaveMask_kept (p : Nat) (s : State) : kept (leaveMask p s) = kept s := by
  simp [leaveMask]

@[simp] theorem linkDown_kept (p : Nat) (s : State) : kept (linkDown p s) = kept s := by
  simp [linkDown]

@[simp] theorem miswired_kept (p plane : Nat) (s : State) : kept (miswired p plane s) = kept s := by
  simp [miswired]

@[simp] theorem takeFabricId_kept (s : State) : kept (takeFabricId s) = kept s := by
  unfold takeFabricId; (repeat' split) <;> simp

@[simp] theorem join_kept (p : Nat) (s : State) : kept (join p s) = kept s := by
  simp [join]

@[simp] theorem countLink_kept (p d k n : Nat) (s : State) : kept (countLink p d k n s) = kept s := by
  simp [countLink]

@[simp] theorem countFlit_kept (p d type used : Nat) (s : State) : kept (countFlit p d type used s) = kept s := by
  unfold countFlit; split <;> simp

@[simp] theorem countSent_kept (p : Nat) (f : Flit) (s : State) : kept (countSent p f s) = kept s := by
  simp [countSent]

/-! ## Links -/

@[simp] theorem dropGranaryReads_kept (p n : Nat) (s : State) : kept (dropGranaryReads p n s) = kept s := by
  simp [dropGranaryReads]

@[simp] theorem takeAck_kept (p : Nat) (a : BitVec 16) (s : State) : kept (takeAck p a s) = kept s := by
  simp [takeAck]

@[simp] theorem rewind_kept (p : Nat) (s : State) : kept (rewind p s) = kept s := by
  simp only [rewind]; split <;> simp

@[simp] theorem retrain_kept (p : Nat) (s : State) : kept (retrain p s) = kept s := by
  simp [retrain]

@[simp] theorem nackFor_kept (p : Nat) (cause : BitVec 3) (s : State) : kept (nackFor p cause s) = kept s := by
  simp [nackFor]

@[simp] theorem takeNack_kept (p : Nat) (e : BitVec 16) (s : State) : kept (takeNack p e s) = kept s := by
  simp [takeNack]

@[simp] theorem toStandby_kept (p : Nat) (lanes : BitVec 2) (s : State) : kept (toStandby p lanes s) = kept s := by
  unfold toStandby; (repeat' split) <;> simp

@[simp] theorem askWidth_kept (p : Nat) (s : State) : kept (askWidth p s) = kept s := by
  unfold askWidth; simp; (repeat' split) <;> simp

@[simp] theorem startWidth_kept (p : Nat) (lanes : BitVec 2) (why : Narrow) (s : State) : kept (startWidth p lanes why s) = kept s := by
  simp [startWidth]

@[simp] theorem narrowLane_kept (p l : Nat) (s : State) : kept (narrowLane p l s) = kept s := by
  simp [narrowLane]

@[simp] theorem askSpeed_kept (p : Nat) (s : State) : kept (askSpeed p s) = kept s := by
  unfold askSpeed; (repeat' split) <;> simp

@[simp] theorem askChanges_kept (p : Nat) (s : State) : kept (askChanges p s) = kept s := by
  unfold askChanges; (repeat' split) <;> simp

@[simp] theorem autoWiden_kept (p : Nat) (s : State) : kept (autoWiden p s) = kept s := by
  unfold autoWiden; (repeat' split) <;> simp

@[simp] theorem startSpeed_kept (c : Nat) (rate : BitVec 2) (s : State) : kept (startSpeed c rate s) = kept s := by
  unfold startSpeed; (repeat' split) <;> simp

@[simp] theorem nextSpeed_kept (c : Nat) (s : State) : kept (nextSpeed c s) = kept s := by
  unfold nextSpeed; (repeat' split) <;> simp

@[simp] theorem startPark_kept (p : Nat) (s : State) : kept (startPark p s) = kept s := by
  simp [startPark]

@[simp] theorem parkLink_kept (p : Nat) (s : State) : kept (parkLink p s) = kept s := by
  simp [parkLink]

@[simp] theorem unparkLink_kept (p : Nat) (s : State) : kept (unparkLink p s) = kept s := by
  simp [unparkLink]

@[simp] theorem emitOn_kept (lanes : BitVec 2) (p : Nat) (f : Flit) (s : State) : kept (emitOn lanes p f s) = kept s := by
  unfold emitOn; (repeat' split) <;> simp

@[simp] theorem emit_kept (p : Nat) (f : Flit) (s : State) : kept (emit p f s) = kept s := by
  simp [emit]

@[simp] theorem spill_kept (p : Nat) (s : State) : kept (spill p s) = kept s := by
  unfold spill; simp; (repeat' split) <;> simp

@[simp] theorem sendNew_kept (p : Nat) (f : Flit) (s : State) : kept (sendNew p f s) = kept s := by
  simp [sendNew]

@[simp] theorem sendData_kept (p : Nat) (s : State) : kept (sendData p s) = kept s := by
  unfold sendData
  dsimp only
  split
  · rfl
  · rw [kept_foldl _ _ _ (fun s u => modUnit_kept _ _ s)]; simp

@[simp] theorem pauseLink_kept (p : Nat) (k : Pause) (s : State) : kept (pauseLink p k s) = kept s := by
  simp [pauseLink]

@[simp] theorem ackSent_kept (p : Nat) (sub : BitVec 8) (w1 : Word) (s : State) : kept (ackSent p sub w1 s) = kept s := by
  unfold ackSent; (repeat' split) <;> simp

@[simp] theorem sendCtrl_kept (p : Nat) (s : State) : kept (sendCtrl p s) = kept s := by
  unfold sendCtrl; simp; (repeat' split) <;> simp

@[simp] theorem sendSequenced_kept (p : Nat) (s : State) : kept (sendSequenced p s) = kept s := by
  unfold sendSequenced; simp; (repeat' split) <;> simp

@[simp] theorem readAhead_kept (p i : Nat) (s : State) : kept (readAhead p i s) = kept s := by
  unfold readAhead; exact kept_foldl _ _ _ (fun s k => by dsimp only; split <;> simp)

@[simp] theorem sendCopy_kept (p i : Nat) (s : State) : kept (sendCopy p i s) = kept s := by
  unfold sendCopy; simp; (repeat' split) <;> simp

@[simp] theorem sendTally_kept (p : Nat) (s : State) : kept (sendTally p s) = kept s := by
  simp [sendTally]

@[simp] theorem sendTime_kept (p : Nat) (s : State) : kept (sendTime p s) = kept s := by
  simp [sendTime]

@[simp] theorem trainWith_kept (p code : Nat) (s : State) : kept (trainWith p code s) = kept s := by
  unfold trainWith; (repeat' split) <;> simp

@[simp] theorem sendTrain_kept (p : Nat) (s : State) : kept (sendTrain p s) = kept s := by
  simp [sendTrain]

@[simp] theorem sendConfirm_kept (p : Nat) (s : State) : kept (sendConfirm p s) = kept s := by
  unfold sendConfirm; (repeat' split) <;> simp

@[simp] theorem sendTraining_kept (p : Nat) (s : State) : kept (sendTraining p s) = kept s := by
  unfold sendTraining; (repeat' split) <;> simp

@[simp] theorem calibrateLink_kept (p : Nat) (s : State) : kept (calibrateLink p s) = kept s := by
  unfold calibrateLink; (repeat' split) <;> simp

@[simp] theorem sendPaused_kept (p : Nat) (k : Pause) (s : State) : kept (sendPaused p k s) = kept s := by
  unfold sendPaused; (repeat' split) <;> simp

@[simp] theorem askPark_kept (p : Nat) (s : State) : kept (askPark p s) = kept s := by
  simp [askPark]

@[simp] theorem grantPark_kept (p : Nat) (s : State) : kept (grantPark p s) = kept s := by
  unfold grantPark; (repeat' split) <;> simp

@[simp] theorem sendIdle_kept (p : Nat) (s : State) : kept (sendIdle p s) = kept s := by
  simp [sendIdle]

@[simp] theorem sendUp_kept (p : Nat) (s : State) : kept (sendUp p s) = kept s := by
  unfold sendUp; simp; (repeat' split) <;> simp

@[simp] theorem wakeLpi_kept (p : Nat) (s : State) : kept (wakeLpi p s) = kept s := by
  simp [wakeLpi]

@[simp] theorem flitSend_kept (p : Nat) (s : State) : kept (flitSend p s) = kept s := by
  unfold flitSend; simp; (repeat' split) <;> simp

@[simp] theorem countCsym_kept (p lane n : Nat) (s : State) : kept (countCsym p lane n s) = kept s := by
  simp [countCsym]

@[simp] theorem protocolError_kept (p : Nat) (w : Word) (s : State) : kept (protocolError p w s) = kept s := by
  simp [protocolError]

@[simp] theorem clearPartial_kept (p : Nat) (s : State) : kept (clearPartial p s) = kept s := by
  unfold clearPartial; (repeat' split) <;> simp

@[simp] theorem startPartial_kept (p : Nat) (x : Txn) (s : State) : kept (startPartial p x s) = kept s := by
  unfold startPartial; (repeat' split) <;> simp

@[simp] theorem abortOver_kept (p : Nat) (x : Txn) (s : State) : kept (abortOver p x s) = kept s := by
  unfold abortOver; (repeat' split) <;> simp

@[simp] theorem abortStripe_kept (p : Nat) (s : State) : kept (abortStripe p s) = kept s := by
  unfold abortStripe
  dsimp only
  split <;> simp

@[simp] theorem takeData_kept (p : Nat) (bs : List Byte) (s : State) : kept (takeData p bs s) = kept s := by
  unfold takeData; dsimp only; (repeat' split) <;> simp

@[simp] theorem deliver_kept (p : Nat) (bs : List Byte) (s : State) : kept (deliver p bs s) = kept s := by
  simp [deliver]

@[simp] theorem trainFlit_kept (p : Nat) (s : State) : kept (trainFlit p s) = kept s := by
  simp [trainFlit]

@[simp] theorem takeFlit_kept (p : Nat) (bs : List Byte) (s : State) : kept (takeFlit p bs s) = kept s := by
  simp [takeFlit]

@[simp] theorem leaveLpi_kept (p : Nat) (s : State) : kept (leaveLpi p s) = kept s := by
  unfold leaveLpi; (repeat' split) <;> simp

@[simp] theorem flitReceive_kept (p : Nat) (raw : List Byte) (s : State) : kept (flitReceive p raw s) = kept s := by
  unfold flitReceive; (repeat' split) <;> simp

@[simp] theorem granaryBack_kept (p : Nat) (q : BitVec 16) (bs : List Byte) (s : State) : kept (granaryBack p q bs s) = kept s := by
  simp [granaryBack]

@[simp] theorem trainDone_kept (p : Nat) (s : State) : kept (trainDone p s) = kept s := by
  unfold trainDone; (repeat' split) <;> simp

@[simp] theorem unlocked_kept (p lane : Nat) (s : State) : kept (unlocked p lane s) = kept s := by
  unfold unlocked; (repeat' split) <;> simp

@[simp] theorem resumeLink_kept (p : Nat) (s : State) : kept (resumeLink p s) = kept s := by
  simp [resumeLink]

@[simp] theorem confirmDone_kept (p : Nat) (s : State) : kept (confirmDone p s) = kept s := by
  unfold confirmDone; (repeat' split) <;> simp

@[simp] theorem stopTraining_kept (p : Nat) (s : State) : kept (stopTraining p s) = kept s := by
  unfold stopTraining; (repeat' split) <;> simp

@[simp] theorem linkTrained_kept (p : Nat) (lanes retimers : BitVec 2) (d0 d1 : BitVec 32) (s : State) : kept (linkTrained p lanes retimers d0 d1 s) = kept s := by
  simp [linkTrained]

@[simp] theorem speedResume_kept (c : Nat) (s : State) : kept (speedResume c s) = kept s := by
  unfold speedResume; (repeat' split) <;> simp

@[simp] theorem identified_kept (p : Nat) (s : State) : kept (identified p s) = kept s := by
  unfold identified; (repeat' split) <;> simp

@[simp] theorem linkId_kept (p : Nat) (w1 : Word) (s : State) : kept (linkId p w1 s) = kept s := by
  simp [linkId]

@[simp] theorem widthReq_kept (p : Nat) (lanes : BitVec 2) (s : State) : kept (widthReq p lanes s) = kept s := by
  simp [widthReq]

@[simp] theorem widthAck_kept (p : Nat) (lanes : BitVec 2) (refuse : Bool) (s : State) : kept (widthAck p lanes refuse s) = kept s := by
  simp [widthAck]

@[simp] theorem widthDone_kept (p : Nat) (s : State) : kept (widthDone p s) = kept s := by
  simp [widthDone]

@[simp] theorem speedReq_kept (p : Nat) (rate : BitVec 2) (s : State) : kept (speedReq p rate s) = kept s := by
  simp [speedReq]

@[simp] theorem speedRefused_kept (c : Nat) (s : State) : kept (speedRefused c s) = kept s := by
  simp [speedRefused]

@[simp] theorem speedAck_kept (p : Nat) (refuse : Bool) (s : State) : kept (speedAck p refuse s) = kept s := by
  simp [speedAck]

@[simp] theorem speedDone_kept (c : Nat) (r : BitVec 2) (s : State) : kept (speedDone c r s) = kept s := by
  simp [speedDone]

@[simp] theorem parkReq_kept (p : Nat) (s : State) : kept (parkReq p s) = kept s := by
  simp [parkReq]

@[simp] theorem gateCheck_kept (s : State) : kept (gateCheck s) = kept s := by
  simp [gateCheck]

@[simp] theorem parkAck_kept (p : Nat) (refuse : Bool) (s : State) : kept (parkAck p refuse s) = kept s := by
  simp [parkAck]

@[simp] theorem laneLockChange_kept (p lane : Nat) (lock : Bool) (s : State) : kept (laneLockChange p lane lock s) = kept s := by
  simp [laneLockChange]

@[simp] theorem stopPark_kept (p : Nat) (s : State) : kept (stopPark p s) = kept s := by
  simp [stopPark]

@[simp] theorem wakeBlock_kept (s : State) : kept (wakeBlock s) = kept s := by
  simp [wakeBlock]

@[simp] theorem wakeLinks_kept (s : State) : kept (wakeLinks s) = kept s := by
  unfold wakeLinks; (repeat' split) <;> simp

/-! ## Power -/

@[simp] theorem runPowerSet_kept (pkt : List Word) (id : Nat) (s : State) : kept (runPowerSet pkt id s) = kept s := by
  simp [runPowerSet]

@[simp] theorem rejoined_kept (s : State) : kept (rejoined s) = kept s := by
  simp [rejoined]

@[simp] theorem rejoinDeadline_kept (s : State) : kept (rejoinDeadline s) = kept s := by
  unfold rejoinDeadline; dsimp only; (repeat' split) <;> simp

@[simp] theorem unreachable_kept (cause : Nat) (s : State) : kept (unreachable cause s) = kept s := by
  simp [unreachable]

@[simp] theorem narrowAll_kept (ps : List Nat) (s : State) : kept (narrowAll ps s) = kept s := by
  simp [narrowAll]

@[simp] theorem parkAll_kept (ps : List Nat) (s : State) : kept (parkAll ps s) = kept s := by
  simp [parkAll]

@[simp] theorem reach_kept (s : State) : kept (reach s) = kept s := by
  unfold reach; (repeat' split) <;> simp

@[simp] theorem overshootEnds_kept (peak : BitVec 16) (dur energy : Nat) (s : State) : kept (overshootEnds peak dur energy s) = kept s := by
  unfold overshootEnds; (repeat' split) <;> simp

@[simp] theorem overshoot_kept (s : State) : kept (overshoot s) = kept s := by
  unfold overshoot; (repeat' split) <;> simp

@[simp] theorem brakeNarrow_kept (s : State) : kept (brakeNarrow s) = kept s := by
  unfold brakeNarrow; (repeat' split) <;> simp

@[simp] theorem retarget_kept (s : State) : kept (retarget s) = kept s := by
  simp [retarget]

@[simp] theorem raiseThrottle_kept (s : State) : kept (raiseThrottle s) = kept s := by
  simp [raiseThrottle]

@[simp] theorem armHeartbeat_kept (s : State) : kept (armHeartbeat s) = kept s := by
  simp [armHeartbeat]

@[simp] theorem capMessage_kept (m : Word) (bad : Bool) (s : State) : kept (capMessage m bad s) = kept s := by
  simp [capMessage]

@[simp] theorem capHeartbeat_kept (s : State) : kept (capHeartbeat s) = kept s := by
  simp [capHeartbeat]

@[simp] theorem heartbeatDue_kept (s : State) : kept (heartbeatDue s) = kept s := by
  unfold heartbeatDue; (repeat' split) <;> simp

@[simp] theorem watchRelease_kept (s : State) : kept (watchRelease s) = kept s := by
  simp [watchRelease]

@[simp] theorem powerEstimate_kept (e : BitVec 16) (s : State) : kept (powerEstimate e s) = kept s := by
  simp [powerEstimate]

@[simp] theorem release_kept (r : Release) (s : State) : kept (release r s) = kept s := by
  unfold release; (repeat' split) <;> simp

@[simp] theorem brakeAssert_kept (therm : Bool) (s : State) : kept (brakeAssert therm s) = kept s := by
  simp [brakeAssert]

@[simp] theorem brakeDeassert_kept (therm : Bool) (s : State) : kept (brakeDeassert therm s) = kept s := by
  unfold brakeDeassert; (repeat' split) <;> simp

@[simp] theorem brakeRelease_kept (s : State) : kept (brakeRelease s) = kept s := by
  unfold brakeRelease; (repeat' split) <;> simp

@[simp] theorem capChanged_kept (s : State) : kept (capChanged s) = kept s := by
  unfold capChanged; (repeat' split) <;> simp

/-! ## Faults -/

@[simp] theorem modSource_kept (n : Nat) (f : Source → Source) (s : State) : kept (modSource n f s) = kept s := by
  simp [modSource]

@[simp] theorem faultFlush_kept (n : Nat) (s : State) : kept (faultFlush n s) = kept s := by
  induction n generalizing s with
  | zero => rfl
  | succ n ih => unfold faultFlush; (repeat' split) <;> simp [ih]

@[simp] theorem latchFirst_kept (fatal forced : Bool) (src kind parish seq : Nat) (s : State) : kept (latchFirst fatal forced src kind parish seq s) = kept s := by
  simp [latchFirst]

@[simp] theorem enterSafe_kept (src kind seq : Nat) (s : State) : kept (enterSafe src kind seq s) = { kept s with safe := true } := by
  unfold enterSafe
  dsimp only
  rw [kept_foldl _ _ _ (fun s a => by simp)]
  rw [show ∀ t : State, kept { t with dap := { t.dap with held := [] } } = kept t from fun _ => rfl, kept_foldl _ _ _ (fun s a => by simp)]
  rfl

@[simp] theorem selfFault_kept (s : State) : kept (selfFault s) = { kept s with safe := true } := by
  unfold selfFault
  split
  · rename_i h; simp [kept, h]
  · simp

@[simp] theorem severeAction_kept (n : Nat) (s : State) : kept (severeAction n s) = kept s := by
  simp [severeAction]

@[simp] theorem promoteSource_kept (n : Nat) (s : State) : kept (promoteSource n s) = kept s := by
  simp [promoteSource]

@[simp] theorem takeSeq_kept (s : State) : kept (takeSeq s) = kept s := by
  simp [takeSeq]

@[simp] theorem holdRecord_safe (r : HeldRec) (f : Flt) : (holdRecord r f).safe = f.safe := by
  unfold holdRecord; split <;> rfl

@[simp] theorem recordMessage_kept (m : FaultMsg) (x : Source) (rank : Nat) (promoted : Bool) (seq : BitVec 32) (s : State) :
    kept (recordMessage m x rank promoted seq s) = kept s := by
  unfold recordMessage
  dsimp only
  generalize (if rank = 3 then 2 else if x.severe then 1 else 0 : Nat) = cls
  split
  · rw [faultFlush_kept]
    refine (kept_mk ..).trans ?_
    rw [holdRecord_safe]; exact modSource_kept _ _ _
  · simp

@[simp] theorem tellCmds_kept (m : FaultMsg) (seq : BitVec 32) (s : State) : kept (tellCmds m seq s) = kept s := by
  simp [tellCmds]

/-- Handling a message leaves all but the safe state alone, and never ends the safe state. -/
theorem processMsg_kept (m : FaultMsg) (s : State) : kept (processMsg m s) = kept s ∨ kept (processMsg m s) = { kept s with safe := true } := by
  unfold processMsg
  split
  · right; simp
  · dsimp only
    split
    · left; simp
    · split
      · right; simp
      · left; (repeat' split) <;> simp

/-- Taking a message leaves all but the safe state alone, and never ends the safe state. -/
theorem faultMessage_kept (src : BitVec 10) (own : Bool) (s : State) :
    kept (faultMessage src own s) = kept s ∨ kept (faultMessage src own s) = { kept s with safe := true } := by
  unfold faultMessage
  split
  · left; rfl
  · split
    · left; rfl
    · exact processMsg_kept _ _

@[simp] theorem forceEvent_kept (a : Nat) (v : Word) (s : State) : kept (forceEvent a v s) = kept s := by
  simp [forceEvent]

@[simp] theorem clearSource_kept (v : Word) (s : State) : kept (clearSource v s) = kept s := by
  simp [clearSource]

@[simp] theorem clearFirst_kept (s : State) : kept (clearFirst s) = kept s := by
  simp [clearFirst]

@[simp] theorem loseDestination_kept (d : BitVec 9) (s : State) : kept (loseDestination d s).1 = kept s := by
  unfold loseDestination
  dsimp only
  rw [tallyLoss_kept, kept_foldl _ _ _ (fun s c => by split <;> simp), kept_foldl _ _ _ (fun s p => by simp)]

@[simp] theorem failCmd_kept (st : BitVec 8) (id : Nat) (s : State) : kept (failCmd st id s) = kept s := by
  unfold failCmd; (repeat' split) <;> simp

@[simp] theorem loseAperture_kept (n : Nat) (s : State) : kept (loseAperture n s) = kept s := by
  unfold loseAperture; (repeat' split) <;> simp

@[simp] theorem failTowards_kept (d : BitVec 9) (mine : Cmd → Bool) (s : State) : kept (failTowards d mine s).1 = kept s := by
  unfold failTowards
  exact kept_foldl _ _ _ (fun s c => by split <;> simp)

/-- Losing a list of destinations one after another leaves all but the safe state alone. -/
@[simp] theorem loseMap_kept (k : Nat) (s : State) : kept (loseMap k s).1 = kept s := by
  unfold loseMap
  have h (l : List (Nat × BitVec 128)) (r : State × List Nat) : kept (l.foldl (fun r e =>
      ((failTowards (BitVec.ofNat 9 e.1) (fun _ => true) r.1).1, r.2 ++ (failTowards (BitVec.ofNat 9 e.1) (fun _ => true) r.1).2)) r).1 = kept r.1 := by
    induction l generalizing r with
    | nil => rfl
    | cons e l ih => rw [List.foldl_cons, ih, failTowards_kept]
  exact (h _ _).trans (by simp)

@[simp] theorem losePair_kept (n : Nat) (s : State) : kept (losePair n s).1 = kept s := by
  unfold losePair; dsimp only; split
  · rfl
  · rw [failTowards_kept]; simp

@[simp] theorem loseSigEnt_kept (i : Nat) (s : State) : kept (loseSigEnt i s) = kept s := by
  unfold loseSigEnt; (repeat' split) <;> simp

@[simp] theorem loseAccumulator_kept (id : Nat) (s : State) : kept (loseAccumulator id s) = kept s := by
  unfold loseAccumulator; (repeat' split) <;> simp

@[simp] theorem loseArrival_kept (id : Nat) (s : State) : kept (loseArrival id s).1 = kept s := by
  unfold loseArrival; (repeat' split) <;> simp

@[simp] theorem loseData_kept (id : Nat) (s : State) : kept (loseData id s).1 = kept s := by
  unfold loseData; split <;> simp

@[simp] theorem loseReplay_kept (p : Nat) (s : State) : kept (loseReplay p s).1 = kept s := by
  unfold loseReplay
  split
  · rfl
  · dsimp only; rw [linkDown_kept]; exact kept_foldl _ _ _ (fun s c => by simp)

@[simp] theorem loseStone_kept (n : Nat) (s : State) : kept (loseStone n s).1 = kept s := by
  unfold loseStone; split <;> simp

@[simp] theorem loseWait_kept (ch : BitVec 21) (s : State) : toStill (kept (loseWait ch s).1) = toStill (kept s) := by
  unfold loseWait; split <;> simp

theorem still_fst_ite {β : Type} (c : Prop) [Decidable c] (a b : State × β) (s : State) (ha : toStill (kept a.1) = toStill (kept s))
    (hb : toStill (kept b.1) = toStill (kept s)) : toStill (kept (if c then a else b).1) = toStill (kept s) := by
  split <;> assumption

@[simp] theorem loseOther_kept (n i : Nat) (s : State) : toStill (kept (loseOther n i s).1) = toStill (kept s) := by
  unfold loseOther
  dsimp only
  refine still_fst_ite _ _ _ _ (by rw [loseReplay_kept]) ?_
  refine still_fst_ite _ _ _ _ (congrArg toStill (kept_foldl _ _ _ (fun s c => failCmd_kept _ _ _))) ?_
  refine still_fst_ite _ _ _ _ (by rw [loseStone_kept]) ?_
  refine still_fst_ite _ _ _ _ (by rw [loseWait_kept]) ?_
  refine still_fst_ite _ _ _ _ (congrArg toStill (dapEnd_kept ..)) ?_
  refine still_fst_ite _ _ _ _ (by rw [failTowards_kept]; rfl) ?_
  refine still_fst_ite _ _ _ _ rfl ?_
  refine still_fst_ite _ _ _ _ (congrArg toStill (loseAperture_kept ..)) ?_
  refine still_fst_ite _ _ _ _ (by rw [loseMap_kept]) ?_
  refine still_fst_ite _ _ _ _ rfl ?_
  refine still_fst_ite _ _ _ _ (congrArg toStill (loseSigEnt_kept ..)) ?_
  refine still_fst_ite _ _ _ _ (congrArg toStill (loseAccumulator_kept ..)) ?_
  exact still_fst_ite _ _ _ _ (by rw [losePair_kept]) rfl

@[simp] theorem scrubDouble_kept (w : SramWord) (s : State) : toStill (kept (scrubDouble w s).1) = toStill (kept s) := by
  unfold scrubDouble
  (repeat' split) <;> first | (simp; done) | (dsimp only; (repeat' split) <;> first | (simp; done) | (rw [parkFor_kept]; exact congrArg toStill (kept_foldl _ _ _ (fun s c => by simp))))

/-- A scrub leaves all but the safe state alone, and never ends the safe state. -/
theorem patrolScrub_kept (w : SramWord) (err : EccErr) (s : State) :
    toStill (kept (patrolScrub w err s)) = toStill (kept s) ∨ toStill (kept (patrolScrub w err s)) = { toStill (kept s) with safe := true } := by
  unfold patrolScrub
  split
  · left; rfl
  · left; simp
  · split
    · right; rw [selfFault_kept]; rfl
    · left; dsimp only; simp

@[simp] theorem patrolRound_kept (s : State) : kept (patrolRound s) = kept s := by
  unfold patrolRound; (repeat' split) <;> simp

theorem wordMet_kept (w : SramWord) (err : EccErr) (s : State) :
    toStill (kept (wordMet w err s)) = toStill (kept s) ∨ toStill (kept (wordMet w err s)) = { toStill (kept s) with safe := true } := by
  unfold wordMet
  split
  · exact patrolScrub_kept w err s
  · left; rfl

@[simp] theorem predicted_kept (p : Predict) (s : State) : kept (predicted p s) = kept s := by
  unfold predicted
  split
  · rfl
  · dsimp only; rw [raise_kept]; split <;> simp

/-! ## Curfew -/

@[simp] theorem runCurfew_kept (pkt : List Word) (id : Nat) (s : State) : kept (runCurfew pkt id s) = kept s := by
  simp [runCurfew]

@[simp] theorem curfewFlit_kept (w0 w1 : Word) (s : State) : kept (curfewFlit w0 w1 s) = kept s := by
  simp [curfewFlit]

@[simp] theorem releaseCurfew_kept (halt : Bool) (s : State) : kept (releaseCurfew halt s) = kept s := by
  simp [releaseCurfew]

@[simp] theorem shiftTx_kept (d : Nat) (s : State) : kept (shiftTx d s) = kept s := by
  unfold shiftTx
  rw [kept_mk, List.map_map]
  rfl

@[simp] theorem curfewStop_kept (s : State) : kept (curfewStop s) = kept s := by
  unfold curfewStop; (repeat' split) <;> simp

@[simp] theorem shiftRx_kept (d : Nat) (s : State) : kept (shiftRx d s) = kept s := by
  simp [shiftRx]

@[simp] theorem shiftTables_kept (d : Nat) (s : State) : kept (shiftTables d s) = kept s := by
  simp [shiftTables]

@[simp] theorem shiftRest_kept (d : Nat) (s : State) : kept (shiftRest d s) = kept s := by
  simp [shiftRest]

@[simp] theorem shiftAll_kept (d : Nat) (s : State) : toStill (kept (shiftAll d s)) = toStill (kept s) := by
  rfl

@[simp] theorem haltCmd_kept (id : Nat) (s : State) : kept (haltCmd id s) = kept s := by
  unfold haltCmd; (repeat (first | (simp; done) | (refine (modCmd_kept _ _ _ (by intro c; rfl)).trans ?_) | (refine (modCmd_kept _ _ _ (by intro c; (repeat' split) <;> rfl)).trans ?_) | (refine (congrArg toStill (modCmd_kept _ _ _ (by intro c; rfl))).trans ?_) | (intro _) | simp | split))

@[simp] theorem haltChannel_kept (ch : BitVec 21) (s : State) : kept (haltChannel ch s) = kept s := by
  unfold haltChannel; (repeat' split) <;> simp

@[simp] theorem haltAll_kept (s : State) : kept (haltAll s) = kept s := by
  simp [haltAll]

@[simp] theorem restartBlock_kept (s : State) : toStill (kept (restartBlock s)) = toStill (kept s) := by
  simp [restartBlock]

/-! ## Calib -/

@[simp] theorem startCal_kept (c : Nat) (forced : Bool) (s : State) : kept (startCal c forced s) = kept s := by
  simp [startCal]

@[simp] theorem startForced_kept (s : State) : kept (startForced s) = kept s := by
  unfold startForced; (repeat' split) <;> simp

@[simp] theorem forceCal_kept (c : Nat) (s : State) : kept (forceCal c s) = kept s := by
  simp [forceCal]

@[simp] theorem requestCal_kept (c : Nat) (s : State) : kept (requestCal c s) = kept s := by
  simp [requestCal]

@[simp] theorem startWindow_kept (s : State) : kept (startWindow s) = kept s := by
  simp [startWindow]

@[simp] theorem runCalibrate_kept (pkt : List Word) (id : Nat) (s : State) : kept (runCalibrate pkt id s) = kept s := by
  simp [runCalibrate]

@[simp] theorem windowStart_kept (s : State) : kept (windowStart s) = kept s := by
  unfold windowStart
  dsimp only
  split
  · simp
  · refine (kept_mk ..).trans ?_
    rw [kept_fold, startWindow_kept]
    refine (kept_mk ..).trans ?_
    rw [kept_fold]; simp

@[simp] theorem windowDue_kept (s : State) : kept (windowDue s) = kept s := by
  unfold windowDue; (repeat' split) <;> simp

@[simp] theorem calibrated_kept (c : Nat) (s : State) : kept (calibrated c s) = kept s := by
  simp [calibrated]

@[simp] theorem calDone_kept (c : Nat) (s : State) : kept (calDone c s) = kept s := by
  simp [calDone]

@[simp] theorem modService_kept (kind n : Nat) (f : Service → Service) (s : State) : kept (modService kind n f s) = kept s := by
  simp [modService]

@[simp] theorem asTest_kept (act : Nat) (ch : BitVec 21) (pkt : List Word) (run : Nat → State → State) (s : State) (h_run : ∀ x0 s, toStill (kept (run x0 s)) = toStill (kept s)) : toStill (kept (asTest act ch pkt run s)) = toStill (kept s) := by
  unfold asTest
  refine asOp_still _ _ _ _ ?_
  split
  · exact startOther_kept _ _ _ _ h_run
  · rfl

@[simp] theorem runRemove_kept (pkt : List Word) (id : Nat) (s : State) : kept (runRemove pkt id s) = kept s := by
  simp [runRemove]

@[simp] theorem runTest_kept (pkt : List Word) (id : Nat) (s : State) : kept (runTest pkt id s) = kept s := by
  simp [runTest]

@[simp] theorem testDone_kept (step : Word) (s : State) : kept (testDone step s) = kept s := by
  unfold testDone; (repeat' split) <;> simp

@[simp] theorem runRestore_kept (pkt : List Word) (id : Nat) (s : State) : kept (runRestore pkt id s) = kept s := by
  simp [runRestore]

end Sys2Proof.Laws
end

