-- ==== Sys2Proof/Laws/KeptPorts.lean ====
section
/-! SUPPORT. What each operation leaves alone (Laws/Kept.lean): register writes, resets, the memory ports. -/

namespace Sys2Proof.Laws

open Sys2Proof Sys2Proof.Machine Sys2Proof.Safety

/-! ## Registers -/

@[simp] theorem regConfig_kept (who : Who) (a : Nat) (s : State) : kept (regConfig who a s) = kept s := by
  simp [regConfig]

@[simp] theorem regAccess_kept (who : Who) (a : Nat) (s : State) : kept (regAccess who a s) = kept s := by
  simp [regAccess]

/-- What a register's write does leaves memory, part, queue, safe state and time alone. -/
def Quiet (r : RegSpec) : Prop := ∀ n v s, toStill (kept (r.act n v s)) = toStill (kept s)

theorem regApply_kept (who : Who) (a : Nat) (r : RegSpec) (v : Word) (s : State) (h : Quiet r) :
    toStill (kept (regApply who a r v s)) = toStill (kept s) := by
  unfold regApply
  dsimp only
  split
  · simp
  · exact h _ _ s

@[simp] theorem flushFaults_kept (s : State) : kept (flushFaults s) = kept s := by
  simp [flushFaults]

@[simp] theorem flushLog_kept (s : State) : kept (flushLog s) = kept s := by
  simp [flushLog]

@[simp] theorem flushTer_kept (s : State) : kept (flushTer s) = kept s := by
  simp [flushTer]

@[simp] theorem fireCmp_kept (n : Nat) (s : State) : kept (fireCmp n s) = kept s := by
  simp [fireCmp]

@[simp] theorem armedCmp_kept (n : Nat) (s : State) : kept (armedCmp n s) = kept s := by
  simp [armedCmp]

@[simp] theorem planWindows_kept (s : State) : kept (planWindows s) = kept s := by
  simp [planWindows]

@[simp] theorem enableLink_kept (p : Nat) (s : State) : kept (enableLink p s) = kept s := by
  simp [enableLink]

@[simp] theorem disableLink_kept (p : Nat) (s : State) : kept (disableLink p s) = kept s := by
  simp [disableLink]

@[simp] theorem writeWidth_kept (p w : Nat) (s : State) : kept (writeWidth p w s) = kept s := by
  simp [writeWidth]

@[simp] theorem roReg_quiet : Quiet roReg := fun _ _ _ => rfl
@[simp] theorem absentReg_quiet : Quiet absentReg := fun _ _ _ => rfl
@[simp] theorem baseReg_quiet (old : Word) (en : Bool) (set : Word → State → State) (h : ∀ n s, toStill (kept (set n s)) = toStill (kept s)) :
    Quiet (baseReg old en set) := fun n _ s => h n s
@[simp] theorem wordReg_quiet (old : Word) (set : Word → State → State) (h : ∀ n s, toStill (kept (set n s)) = toStill (kept s)) :
    Quiet (wordReg old set) := fun n _ s => h n s
@[simp] theorem headReg_quiet (r : RingId) (then_ : State → State) (s : State) (h : ∀ s, toStill (kept (then_ s)) = toStill (kept s)) :
    Quiet (headReg r then_ s) := by
  intro n v t
  unfold headReg
  dsimp only
  rw [h]; simp
@[simp] theorem cmpTimeReg_quiet (n : Nat) (s : State) : Quiet (cmpTimeReg n s) := by intro n v t; simp [cmpTimeReg]
@[simp] theorem cmpCtlReg_quiet (n : Nat) (s : State) : Quiet (cmpCtlReg n s) := by intro n v t; simp [cmpCtlReg]
@[simp] theorem fwLocReg_quiet (s : State) : Quiet (fwLocReg s) := by intro n v t; simp [fwLocReg]
@[simp] theorem fabricIdReg_quiet (s : State) : Quiet (fabricIdReg s) := by intro n v t; simp only [fabricIdReg]; split <;> simp
@[simp] theorem chnCtlReg_quiet (s : State) : Quiet (chnCtlReg s) := by intro n v t; simp [chnCtlReg]
@[simp] theorem winCtlReg_quiet (s : State) : Quiet (winCtlReg s) := by intro n v t; simp only [winCtlReg]; split <;> simp
@[simp] theorem notifyCtlReg_quiet (o : Owner) (own : Bool) (s : State) : Quiet (notifyCtlReg o own s) := by intro n v t; simp [notifyCtlReg]
@[simp] theorem terCtlReg_quiet (s : State) : Quiet (terCtlReg s) := by intro n v t; simp only [terCtlReg]; split <;> simp
@[simp] theorem routeCtlReg_quiet (s : State) : Quiet (routeCtlReg s) := by intro n v t; simp [routeCtlReg]
@[simp] theorem brnReg_quiet (s : State) : Quiet (brnReg s) := by intro n v t; simp [brnReg]
@[simp] theorem calCtlReg_quiet (s : State) : Quiet (calCtlReg s) := by intro n v t; simp [calCtlReg]
@[simp] theorem calStartReg_quiet (s : State) : Quiet (calStartReg s) := by intro n v t; simp [calStartReg]
@[simp] theorem logCtlReg_quiet (s : State) : Quiet (logCtlReg s) := by intro n v t; simp [logCtlReg]
@[simp] theorem almCtlReg_quiet (s : State) : Quiet (almCtlReg s) := by intro n v t; simp [almCtlReg]
@[simp] theorem cmpStatusReg_quiet : Quiet cmpStatusReg := by intro n v t; simp [cmpStatusReg]
@[simp] theorem curCtlReg_quiet (s : State) : Quiet (curCtlReg s) := by intro n v t; simp only [curCtlReg]; split <;> simp
@[simp] theorem pwrCtlReg_quiet (s : State) : Quiet (pwrCtlReg s) := by
  intro n v t
  simp only [pwrCtlReg]
  refine (still_foldl _ _ _ (fun s c => ?_)).trans ?_
  · split <;> simp
  · simp
@[simp] theorem overshootReg_quiet (s : State) : Quiet (overshootReg s) := by intro n v t; simp [overshootReg]
@[simp] theorem fltStatusReg_quiet : Quiet fltStatusReg := by intro n v t; simp only [fltStatusReg]; (repeat' split) <;> simp
@[simp] theorem fltCtlReg_quiet (s : State) : Quiet (fltCtlReg s) := by intro n v t; simp only [fltCtlReg]; (repeat' split) <;> simp
@[simp] theorem fltActionReg_quiet (a : Nat) : Quiet (fltActionReg a) := by intro n v t; simp only [fltActionReg]; (repeat' split) <;> simp
@[simp] theorem obsCtlReg_quiet (s : State) : Quiet (obsCtlReg s) := by intro n v t; simp [obsCtlReg]
/-- Each register an address may have is quiet. -/
def QuietAt (x : Option RegSpec) : Prop := ∀ r, x = some r → Quiet r
theorem quietAt_none : QuietAt none := by intro r h; cases h
theorem quietAt_some (r : RegSpec) (h : Quiet r) : QuietAt (some r) := by intro x e; cases e; exact h
theorem quietAt_ite (c : Prop) [Decidable c] (x y : Option RegSpec) (hx : QuietAt x) (hy : QuietAt y) : QuietAt (if c then x else y) := by
  split
  · exact hx
  · exact hy
theorem quiet_ite (c : Prop) [Decidable c] (x y : RegSpec) (hx : Quiet x) (hy : Quiet y) : Quiet (if c then x else y) := by
  split
  · exact hx
  · exact hy
theorem globalReg_quiet (s : State) (a : Nat) : QuietAt (globalReg s a) := by
  unfold globalReg
  repeat' first
    | with_reducible refine quietAt_ite _ _ _ ?_ ?_
    | with_reducible refine quietAt_some _ ?_
    | with_reducible refine quiet_ite _ _ _ ?_ ?_
    | with_reducible exact quietAt_none
  all_goals first
    | (simp; done)
    | (intro n v t; first | rfl | (simp; done))
@[simp] theorem lnkCtlReg_quiet (p : Nat) (s : State) : Quiet (lnkCtlReg p s) := by
  intro n v t
  simp only [lnkCtlReg]
  (repeat' split) <;> simp
@[simp] theorem crfCtlReg_quiet (c : Nat) (s : State) : Quiet (crfCtlReg c s) := by intro n v t; simp [crfCtlReg]
theorem croftReg_quiet (s : State) (c a : Nat) : QuietAt (croftReg s c a) := by
  unfold croftReg
  dsimp only
  repeat' first
    | with_reducible refine quietAt_ite _ _ _ ?_ ?_
    | with_reducible refine quietAt_some _ ?_
    | with_reducible refine quiet_ite _ _ _ ?_ ?_
    | with_reducible exact quietAt_none
  all_goals first
    | (simp; done)
    | (intro n v t; first | rfl | (simp; done))
theorem parishReg_quiet (s : State) (q : BitVec 6) (own : Bool) (a : Nat) : QuietAt (parishReg s q own a) := by
  unfold parishReg
  dsimp only
  repeat' first
    | with_reducible refine quietAt_ite _ _ _ ?_ ?_
    | with_reducible refine quietAt_some _ ?_
    | with_reducible refine quiet_ite _ _ _ ?_ ?_
    | with_reducible exact quietAt_none
  all_goals first
    | (simp; done)
    | (intro n v t; first | rfl | (simp; done))
theorem reeveReg_quiet (s : State) (a : Nat) : QuietAt (reeveReg s a) := by
  unfold reeveReg
  dsimp only
  repeat' first
    | with_reducible refine quietAt_ite _ _ _ ?_ ?_
    | with_reducible refine quietAt_some _ ?_
    | with_reducible refine quiet_ite _ _ _ ?_ ?_
    | with_reducible exact quietAt_none
  all_goals first
    | (simp; done)
    | (intro n v t; first | rfl | (simp; done))
theorem regAt_quiet (s : State) (own : Bool) (a : Nat) (r : RegSpec) (h : regAt s own a = some r) : Quiet r := by
  unfold regAt at h
  (repeat' split at h) <;> first
    | exact globalReg_quiet s a r h
    | exact croftReg_quiet s _ _ r h
    | exact parishReg_quiet s _ own _ r h
    | cases h

@[simp] theorem regServe_kept (who : Who) (a size : Nat) (v : Word) (s : State) :
    toStill (kept (regServe who a size v s)) = toStill (kept s) := by
  unfold regServe
  dsimp only
  (repeat' split) <;> first
    | (simp; done)
    | (rename_i h; exact regApply_kept _ _ _ _ _ (regAt_quiet _ _ _ _ h))
    | (rename_i h _; exact regApply_kept _ _ _ _ _ (regAt_quiet _ _ _ _ h))

@[simp] theorem reeveWrite_kept (a : Nat) (v : Word) (s : State) : toStill (kept (reeveWrite a v s)) = toStill (kept s) := by
  unfold reeveWrite
  (repeat' split) <;> first
    | (simp; done)
    | (rename_i h _; exact regApply_kept _ _ _ _ _ (reeveReg_quiet _ _ _ h))

@[simp] theorem regWrite_kept (who : Who) (a size : Nat) (v : Word) (s : State) : toStill (kept (regWrite who a size v s)) = toStill (kept s) := by
  simp [regWrite]

@[simp] theorem readServe_kept (who : Who) (a size : Nat) (s : State) : kept (readServe who a size s) = kept s := by
  unfold readServe; (repeat' split) <;> simp

@[simp] theorem regRead_kept (who : Who) (a size : Nat) (s : State) : kept (regRead who a size s) = kept s := by
  unfold regRead; (repeat' split) <;> simp

@[simp] theorem access_kept (who : Who) (a size : Nat) (val : Option Word) (s : State) : toStill (kept (access who a size val s)) = toStill (kept s) := by
  unfold access; split <;> simp

@[simp] theorem replayHeld_kept (s : State) : toStill (kept (replayHeld s)) = toStill (kept s) := by
  simp [replayHeld]

@[simp] theorem regRow_kept (who : Who) (a size : Nat) (v : Word) (s : State) : toStill (kept (regRow who a size v s)) = toStill (kept s) := by
  simp [regRow]

@[simp] theorem crossingOverflow_kept (c : Nat) (s : State) : kept (crossingOverflow c s) = kept s := by
  unfold crossingOverflow; (repeat' split) <;> simp

theorem faultEvent_kept (o : FaultFrom) (s : State) :
    toStill (kept (faultEvent o s)) = toStill (kept s) ∨ toStill (kept (faultEvent o s)) = { toStill (kept s) with safe := true } := by
  unfold faultEvent
  split
  · left; rfl
  · exact wordMet_kept _ _ _
  all_goals left; (try split) <;> simp

@[simp] theorem holdoffExpiry_kept (o : Owner) (s : State) : kept (holdoffExpiry o s) = kept s := by
  unfold holdoffExpiry; simp; (repeat' split) <;> simp

/-! ## Boot -/

@[simp] theorem imageBack_kept (bs : List Byte) (s : State) : kept (imageBack bs s) = kept s := by
  unfold imageBack; (repeat' split) <;> simp

@[simp] theorem fwAccept_kept (s : State) : kept (fwAccept s) = kept s := by
  simp [fwAccept]

@[simp] theorem fwReject_kept (step : BitVec 4) (s : State) : kept (fwReject step s) = kept s := by
  simp [fwReject]

@[simp] theorem fwVerified_kept (res : FwResult) (s : State) : kept (fwVerified res s) = kept s := by
  unfold fwVerified; (repeat' split) <;> simp

@[simp] theorem sramCleared_kept (s : State) : kept (sramCleared s) = kept s := by
  simp [sramCleared]

@[simp] theorem badLanes_kept (c : Nat) (bad : BitVec 6) (s : State) : kept (badLanes c bad s) = kept s := by
  simp [badLanes]

@[simp] theorem startupDone_kept (c : Nat) (pll : Bool) (bad : BitVec 6) (s : State) : kept (startupDone c pll bad s) = kept s := by
  simp [startupDone]

@[simp] theorem wakeDue_kept (s : State) : toStill (kept (wakeDue s)) = toStill (kept s) := by
  unfold wakeDue; split <;> simp

@[simp] theorem curfewRestart_kept (s : State) : toStill (kept (curfewRestart s)) = toStill (kept s) := by
  simp [curfewRestart]

@[simp] theorem fireDue_kept (n : Nat) (s : State) : toStill (kept (fireDue n s)) = toStill (kept s) := by
  unfold fireDue; (repeat' split) <;> simp

@[simp] theorem countExchange_kept (off : Int) (s : State) : kept (countExchange off s) = kept s := by
  simp [countExchange]

/-! ## Ports -/

@[simp] theorem settleWaits_kept (s : State) : kept (settleWaits s) = kept s := by
  simp [settleWaits]

@[simp] theorem recordPost_kept (ch : BitVec 21) (s : State) : toStill (kept (recordPost ch s)) = toStill (kept s) := by
  simp [recordPost]

@[simp] theorem lateCheck_kept (at_ : Time) (pieces : List (Nat × Nat)) (q : Option (BitVec 6)) (s : State) : kept (lateCheck at_ pieces q s) = kept s := by
  simp [lateCheck]

@[simp] theorem dropRead_kept (r : ReadReq) (s : State) : kept (dropRead r s) = kept s := by
  simp [dropRead]

@[simp] theorem ringBack_kept (ch : BitVec 21) (first : BitVec 32) (count : Nat) (s : State) : kept (ringBack ch first count s) = kept s := by
  simp [ringBack]

@[simp] theorem ringFailed_kept (ch : BitVec 21) (first : BitVec 32) (s : State) : kept (ringFailed ch first s) = kept s := by
  simp [ringFailed]

@[simp] theorem mgmtBack_kept (id : Nat) (bs : List Byte) (s : State) : kept (mgmtBack id bs s) = kept s := by
  unfold mgmtBack; (repeat' split) <;> simp

@[simp] theorem endSilents_kept (n : Nat) (s : State) : kept (endSilents n s) = kept s := by
  induction n generalizing s with
  | zero => rfl
  | succ n ih => unfold endSilents; rw [ih]; simp

@[simp] theorem atomicBack_kept (op : Nat) (bs : List Byte) (s : State) : kept (atomicBack op bs s) = kept s := by
  unfold atomicBack; (repeat' split) <;> simp

@[simp] theorem atomicEnds_kept (op : Nat) (ok : Bool) (s : State) : kept (atomicEnds op ok s) = kept s := by
  unfold atomicEnds; (repeat' split) <;> simp

@[simp] theorem inputBack_kept (id : Nat) (bs : List Byte) (s : State) : kept (inputBack id bs s) = kept s := by
  unfold inputBack; (repeat' split) <;> simp

@[simp] theorem readGoes_kept (use : ReadFor) (bs : List Byte) (s : State) : toStill (kept (readGoes use bs s)) = toStill (kept s) := by
  unfold readGoes; (repeat' split) <;> simp

@[simp] theorem inputFailed_kept (id : Nat) (s : State) : kept (inputFailed id s) = kept s := by
  unfold inputFailed; (repeat (first | (simp; done) | (refine (modCmd_kept _ _ _ (by intro c; rfl)).trans ?_) | (refine (modCmd_kept _ _ _ (by intro c; (repeat' split) <;> rfl)).trans ?_) | (refine (congrArg toStill (modCmd_kept _ _ _ (by intro c; rfl))).trans ?_) | (intro _) | simp | split))

@[simp] theorem readFails_kept (use : ReadFor) (s : State) : toStill (kept (readFails use s)) = toStill (kept s) := by
  unfold readFails; (repeat' split) <;> simp

@[simp] theorem commitEnds_kept (id : Nat) (ok : Bool) (s : State) : kept (commitEnds id ok s) = kept s := by
  unfold commitEnds; (repeat' split) <;> simp

@[simp] theorem cmdWritten_kept (id stripe : Nat) (ok : Bool) (s : State) : kept (cmdWritten id stripe ok s) = kept s := by
  unfold cmdWritten; (repeat (first | (simp; done) | (refine (modCmd_kept _ _ _ (by intro c; rfl)).trans ?_) | (refine (modCmd_kept _ _ _ (by intro c; (repeat' split) <;> rfl)).trans ?_) | (refine (congrArg toStill (modCmd_kept _ _ _ (by intro c; rfl))).trans ?_) | (intro _) | simp | split))

@[simp] theorem writeGoes_kept (use : WriteFor) (s : State) : kept (writeGoes use s) = kept s := by
  unfold writeGoes; (repeat' split) <;> simp

@[simp] theorem writeFails_kept (use : WriteFor) (s : State) : kept (writeFails use s) = kept s := by
  unfold writeFails; (repeat (first | (simp; done) | (refine (modCmd_kept _ _ _ (by intro c; rfl)).trans ?_) | (refine (modCmd_kept _ _ _ (by intro c; (repeat' split) <;> rfl)).trans ?_) | (refine (congrArg toStill (modCmd_kept _ _ _ (by intro c; rfl))).trans ?_) | (intro _) | simp | split))

@[simp] theorem goOn_kept (f : State → State) (s : State) (h : kept (f s) = kept s) : kept (goOn f s) = kept s := by
  unfold goOn; split
  · rfl
  · simp [h]

theorem goOn_still (f : State → State) (s : State) (h : toStill (kept (f s)) = toStill (kept s)) : toStill (kept (goOn f s)) = toStill (kept s) := by
  unfold goOn; split
  · rfl
  · simp [h]

/-- A read's response leaves all but memory alone, and memory takes what other agents wrote. -/
theorem readResponse_kept (req : Nat) (seen : List (Nat × Byte)) (s : State) :
    toStill (kept (readResponse req seen s)) = toStill (kept s) ∨
    ∃ r, read? s req = some r ∧ toStill (kept (readResponse req seen s)) = { toStill (kept s) with mem := (otherWrites r seen s).mem } := by
  unfold readResponse
  split
  · left; rfl
  · rename_i r hr
    refine .inr ⟨r, hr, ?_⟩
    dsimp only
    rw [goOn_still _ _ (readGoes_kept _ _ _), lateCheck_kept, dropRead_kept]
    rfl

/-- A write's acknowledgement leaves all but memory alone, and its bytes land. -/
theorem writeAck_kept (req : Nat) (s : State) :
    toStill (kept (writeAck req s)) = toStill (kept s) ∨
    ∃ w, write? s req = some w ∧ toStill (kept (writeAck req s)) = { toStill (kept s) with mem := Memory.writeAll s.mem w.cells } := by
  unfold writeAck
  split
  · left; rfl
  · rename_i w hw
    refine .inr ⟨w, hw, ?_⟩
    rw [goOn_kept _ _ (writeGoes_kept _ _), lateCheck_kept]
    rfl

@[simp] theorem waitFailed_kept (ch : BitVec 21) (pa : Nat) (s : State) : toStill (kept (waitFailed ch pa s)) = toStill (kept s) := by
  unfold waitFailed
  dsimp only
  rw [raiseMsg_kept, goOn_still _ _ (readFails_kept _ s)]

@[simp] theorem readError_kept (r : ReadReq) (pa : Nat) (s : State) : toStill (kept (readError r pa s)) = toStill (kept s) := by
  unfold readError
  dsimp only
  split
  · simp
  · rw [goOn_still _ _ (readFails_kept _ _)]; simp

/-- A write's error leaves all but memory alone, and its bytes are any. -/
theorem writeError_kept (w : WriteReq) (pa : Nat) (s : State) :
    ∃ cells, toStill (kept (writeError w pa s)) = { toStill (kept s) with mem := Memory.writeAll s.mem cells } := by
  refine ⟨(w.cells.zip (freeBytes s.free w.cells.length)).map fun c => (c.1.1, c.2), ?_⟩
  unfold writeError
  dsimp only
  rw [goOn_kept _ _ (writeFails_kept _ _), raiseMemport_kept]
  rfl

/-- An error response leaves all but memory alone. -/
theorem errorResponse_kept (req pa : Nat) (s : State) :
    toStill (kept (errorResponse req pa s)) = toStill (kept s) ∨
    ∃ cells, toStill (kept (errorResponse req pa s)) = { toStill (kept s) with mem := Memory.writeAll s.mem cells } := by
  unfold errorResponse
  split
  · left; simp
  · right; exact writeError_kept _ _ _
  · left; rfl

end Sys2Proof.Laws
end

