-- ==== Sys2Proof/Laws/Aside.lean ====
section
/-! SUPPORT. Fetching, starting and ending a packet command leave the other units alone: one lemma `<name>_aside` per operation. -/

namespace Sys2Proof.Laws

open Sys2Proof Sys2Proof.Machine Sys2Proof.Safety

@[simp] theorem aside_mk (part otp pins gbl alm pwr flt ree stw chn eng memp ter wins dap route tal tx brn sig groups lnk mil par obs cur mem free pending) :
    aside ⟨part, otp, pins, gbl, alm, pwr, flt, ree, stw, chn, eng, memp, ter, wins, dap, route, tal, tx, brn, sig, groups, lnk, mil, par, obs, cur,
      mem, free, pending⟩ = ⟨part, otp, pins, alm, pwr, ree, wins, dap, route, brn, sig, groups, lnk, obs, cur, mem, free, pending⟩ := rfl

@[simp] theorem aside_fold (s : State) :
    Aside.mk s.part s.otp s.pins s.alm s.pwr s.ree s.wins s.dap s.route s.brn s.sig s.groups s.lnk s.obs s.cur s.mem s.free s.pending = aside s := rfl

@[simp] theorem aside_ite (c : Prop) [Decidable c] (a b : State) : aside (if c then a else b) = if c then aside a else aside b := by split <;> rfl

@[simp] theorem aside_foldl {β : Type} (f : State → β → State) (l : List β) (s : State) (h : ∀ s x, aside (f s x) = aside s) :
    aside (l.foldl f s) = aside s :=
  keeps_foldl aside f s h l

/-! ## The operations -/

@[simp] theorem modParish_aside (q : Nat) (f : Parish → Parish) (s : State) : aside (modParish q f s) = aside s := by
  simp [modParish]

@[simp] theorem modStone_aside (n : Nat) (f : Stone → Stone) (s : State) : aside (modStone n f s) = aside s := by
  simp [modStone]

@[simp] theorem modCmd_aside (id : Nat) (f : Cmd → Cmd) (s : State) : aside (modCmd id f s) = aside s := by
  simp [modCmd]

@[simp] theorem issueRead_aside (use : ReadFor) (parts : List (Nat × Nat)) (cls : BitVec 3) (agent : Option (BitVec 6)) (span : Option (BitVec 6 × Nat × Nat)) (s : State) : aside (issueRead use parts cls agent span s) = aside s := by
  simp [issueRead]

@[simp] theorem issueWrite_aside (use : WriteFor) (cells : List (Nat × Byte)) (cls : BitVec 3) (wake : Bool) (agent : Option (BitVec 6)) (span : Option (BitVec 6 × Nat × Nat)) (s : State) : aside (issueWrite use cells cls wake agent span s) = aside s := by
  simp [issueWrite]

@[simp] theorem raiseMsg_aside (e : FaultMsg) (s : State) : aside (raiseMsg e s) = aside s := by
  simp [raiseMsg]

@[simp] theorem raise_aside (src k addr : Nat) (cmds : List Nat) (q : Option (BitVec 6)) (s : State) : aside (raise src k addr cmds q s) = aside s := by
  simp [raise]

@[simp] theorem ringSet_aside (r : RingId) (x : Ring) (s : State) : aside (ringSet r x s) = aside s := by
  unfold ringSet; (repeat' split) <;> simp

@[simp] theorem ringPut_aside (r : RingId) (ws : List Word) (s : State) : aside (ringPut r ws s) = aside s := by
  simp [ringPut]

@[simp] theorem notifyOverflow_aside (o : Owner) (s : State) : aside (notifyOverflow o s) = aside s := by
  unfold notifyOverflow; (repeat' split) <;> simp

@[simp] theorem notify_aside (o : Owner) (e : Word) (s : State) : aside (notify o e s) = aside s := by
  simp [notify]

@[simp] theorem logPut_aside (e : LogEntry) (s : State) : aside (logPut e s) = aside s := by
  simp [logPut]

@[simp] theorem logFlush_aside (n : Nat) (s : State) : aside (logFlush n s) = aside s := by
  induction n generalizing  s with
  | zero => rfl
  | succ n ih => unfold logFlush; (repeat' split); all_goals simp [ih]

@[simp] theorem logEntry_aside (code : Nat) (a0 a1 : Word) (s : State) : aside (logEntry code a0 a1 s) = aside s := by
  simp [logEntry]

@[simp] theorem leaveRecords_aside (w : Requester) (s : State) : aside (leaveRecords w s) = aside s := by
  simp [leaveRecords]

@[simp] theorem changeSlots_aside (d : Nat) (f : SigSlots → SigSlots) (s : State) : aside (changeSlots d f s) = aside s := by
  simp [changeSlots]

@[simp] theorem putChan_aside (ch : BitVec 21) (c : Chan) (s : State) : aside (putChan ch c s) = aside s := by
  simp [putChan]

@[simp] theorem modChan_aside (ch : BitVec 21) (f : Chan → Chan) (s : State) : aside (modChan ch f s) = aside s := by
  unfold modChan; (repeat' split) <;> simp

@[simp] theorem fetch_aside (ch : BitVec 21) (s : State) : aside (fetch ch s) = aside s := by
  unfold fetch; (repeat' split) <;> simp

@[simp] theorem writeBack_aside (use : WriteFor) (ch : BitVec 21) (c : Chan) (s : State) : aside (writeBack use ch c s) = aside s := by
  simp [writeBack]

@[simp] theorem orphanRing_aside (ch : BitVec 21) (s : State) : aside (orphanRing ch s) = aside s := by
  simp [orphanRing]

@[simp] theorem orphanWait_aside (ch : BitVec 21) (s : State) : aside (orphanWait ch s) = aside s := by
  simp [orphanWait]

@[simp] theorem evict_aside (n : Nat) (c : Chan) (s : State) : aside (evict n c s) = aside s := by
  simp [evict]

@[simp] theorem queueOverflow_aside (ch : BitVec 21) (s : State) : aside (queueOverflow ch s) = aside s := by
  unfold queueOverflow; (repeat' split) <;> simp

@[simp] theorem rotateOut_aside (ch : BitVec 21) (c : Chan) (s : State) : aside (rotateOut ch c s) = aside s := by
  simp [rotateOut]

theorem cacheRoom_aside (s t : State) (h : cacheRoom s = some t) : aside (t) = aside s := by
  unfold cacheRoom at h
  split at h
  · cases h; rfl
  · split at h
    · cases h; simp
    · split at h
      · cases h; simp
      · cases h

@[simp] theorem readDesc_aside (ch : BitVec 21) (s : State) : aside (readDesc ch s) = aside s := by
  simp [readDesc]

@[simp] theorem loadDesc_aside (ch : BitVec 21) (s : State) : aside (loadDesc ch s) = aside s := by
  unfold loadDesc; (repeat' split) <;> simp

@[simp] theorem enterCache_aside (ch : BitVec 21) (s : State) : aside (enterCache ch s) = aside s := by
  unfold enterCache
  split
  · rfl
  · split
    · rfl
    · split
      · simp
      · split
        · rename_i h; simp [cacheRoom_aside _ _ h]
        · simp

@[simp] theorem chargeDeficit_aside (q : BitVec 6) (lvl : Nat) (pkt : List Word) (s : State) : aside (chargeDeficit q lvl pkt s) = aside s := by
  simp [chargeDeficit]

@[simp] theorem takeTurn_aside (ch : BitVec 21) (q : BitVec 6) (lvl : Nat) (s : State) : aside (takeTurn ch q lvl s) = aside s := by
  simp [takeTurn]

@[simp] theorem tidyDeficits_aside (s : State) : aside (tidyDeficits s) = aside s := by
  simp [tidyDeficits]

@[simp] theorem tracePut_aside (q : BitVec 6) (ws : List Word) (s : State) : aside (tracePut q ws s) = aside s := by
  simp [tracePut]

@[simp] theorem traceMark_aside (q : BitVec 6) (ch : BitVec 21) (ix : BitVec 32) (pkt : List Word) (s : State) : aside (traceMark q ch ix pkt s) = aside s := by
  simp [traceMark]

@[simp] theorem endTags_aside (c : Cmd) (s : State) : aside (endTags c s) = aside s := by
  simp [endTags]

@[simp] theorem endSlots_aside (id : Nat) (s : State) : aside (endSlots id s) = aside s := by
  simp [endSlots]

@[simp] theorem freeStones_aside (mine : MillWork → Bool) (s : State) : aside (freeStones mine s) = aside s := by
  simp [freeStones]

@[simp] theorem endMill_aside (id : Nat) (s : State) : aside (endMill id s) = aside s := by
  simp [endMill]

@[simp] theorem sealFreed_aside (old s : State) : aside (sealFreed old s) = aside s := by
  simp [sealFreed]

@[simp] theorem dropUnits_aside (hit : Xu → Bool) (s : State) : aside (dropUnits hit s) = aside s := by
  simp [dropUnits]

@[simp] theorem endSync_aside (ch : BitVec 21) (s : State) : aside (endSync ch s) = aside s := by
  unfold endSync; (repeat' split) <;> simp

@[simp] theorem countStopped_aside (st : BitVec 8) (q : Option (BitVec 6)) (s : State) : aside (countStopped st q s) = aside s := by
  unfold countStopped; (repeat' split) <;> simp

@[simp] theorem finish_aside (id : Nat) (st : BitVec 8) (dev : BitVec 9) (result : Word) (s : State) : aside (finish id st dev result s) = aside s := by
  unfold finish; (repeat' split) <;> simp

@[simp] theorem begin__aside (ch : BitVec 21) (pkt : List Word) (engine : Option Nat) (rejected : Bool) (s : State) : aside (begin_ ch pkt engine rejected s) = aside s := by
  unfold begin_; (repeat' split) <;> simp

@[simp] theorem reject_aside (ch : BitVec 21) (pkt : List Word) (st : BitVec 8) (s : State) : aside (reject ch pkt st s) = aside s := by
  simp [reject]

@[simp] theorem startWhere_aside (may : Bool) (ch : BitVec 21) (pkt : List Word) (run : Nat → State → State) (s : State)
    (h_run : ∀ x0 s, aside (run x0 s) = aside s) : aside (startWhere may ch pkt run s) = aside s := by
  unfold startWhere; (repeat' split) <;> simp [*]

@[simp] theorem startOther_aside (ch : BitVec 21) (pkt : List Word) (run : Nat → State → State) (s : State) (h_run : ∀ x0 s, aside (run x0 s) = aside s) : aside (startOther ch pkt run s) = aside s := by
  unfold startOther; exact startWhere_aside _ _ _ _ _ h_run

@[simp] theorem done_aside (id : Nat) (st : BitVec 8) (result : Word) (s : State) : aside (done id st result s) = aside s := by
  simp [done]

@[simp] theorem dropWait_aside (ch : BitVec 21) (s : State) : aside (dropWait ch s) = aside s := by
  simp [dropWait]

@[simp] theorem parkFor_aside (ch : BitVec 21) (why : BitVec 8) (s : State) : aside (parkFor ch why s) = aside s := by
  simp [parkFor]

@[simp] theorem bellConfig_aside (q : Option (BitVec 6)) (ch : BitVec 21) (s : State) : aside (bellConfig q ch s) = aside s := by
  simp [bellConfig]

@[simp] theorem bellError_aside (ch : BitVec 21) (o : Owner) (action : BitVec 2) (val : BitVec 32) (s : State) : aside (bellError ch o action val s) = aside s := by
  simp [bellError]

@[simp] theorem rouse_aside (ch : BitVec 21) (s : State) : aside (rouse ch s) = aside s := by
  simp [rouse]

@[simp] theorem bellTail_aside (ch : BitVec 21) (c : Chan) (val : BitVec 32) (s : State) : aside (bellTail ch c val s) = aside s := by
  simp [bellTail]

@[simp] theorem bellCpl_aside (ch : BitVec 21) (c : Chan) (val : BitVec 32) (s : State) : aside (bellCpl ch c val s) = aside s := by
  simp [bellCpl]

@[simp] theorem bellPark_aside (ch : BitVec 21) (c : Chan) (s : State) : aside (bellPark ch c s) = aside s := by
  unfold bellPark; (repeat' split) <;> simp

@[simp] theorem bellResume_aside (ch : BitVec 21) (c : Chan) (s : State) : aside (bellResume ch c s) = aside s := by
  unfold bellResume; (repeat' split) <;> simp

@[simp] theorem bellHeld_aside (b : Bell) (c : Chan) (s : State) : aside (bellHeld b c s) = aside s := by
  simp [bellHeld]

@[simp] theorem ring_aside (b : Bell) (s : State) : aside (ring b s) = aside s := by
  unfold ring; (repeat' split) <;> simp

@[simp] theorem runNop_aside (id : Nat) (s : State) : aside (runNop id s) = aside s := by
  simp [runNop]

@[simp] theorem runSync_aside (ch : BitVec 21) (id : Nat) (s : State) : aside (runSync ch id s) = aside s := by
  simp [runSync]

@[simp] theorem startSync_aside (ch : BitVec 21) (pkt : List Word) (s : State) : aside (startSync ch pkt s) = aside s := by
  unfold startSync; (repeat' split) <;> simp

@[simp] theorem runMark_aside (ch : BitVec 21) (pkt : List Word) (id : Nat) (s : State) : aside (runMark ch pkt id s) = aside s := by
  unfold runMark; (repeat' split) <;> simp

end Sys2Proof.Laws
end

