-- ==== Sys2Proof/Laws/Codes.lean ====
section
/-! SUPPORT. The Reed-Solomon code: a codeword decodes as itself (R187). -/

namespace Sys2Proof.Laws

open Sys2Proof.Machine

set_option maxRecDepth 100000

/-- Every check sum of a codeword is zero. -/
theorem syndrome_of_codeword {c : List Byte} (h : isCodeword c = true) {i : Nat} (hi : i < 16) : syndrome c i = 0 := by
  simp only [isCodeword, syndromes, List.all_map, List.all_eq_true, List.mem_range] at h
  simpa using h i hi

/-- Check sums of zero name no position. -/
theorem locate_zeros : locate (List.replicate 15 0) = [] := by decide +kernel

/-- A codeword decodes as itself, with no byte corrected. -/
theorem rsDecode_codeword {c : List Byte} (h : isCodeword c = true) : rsDecode c = some (c, []) := by
  have hs : ((List.range 15).map fun i => syndrome c (i + 1)) = List.replicate 15 0 := by
    refine List.ext_getElem (by simp) ?_
    intro n h1 h2
    have hn : n < 15 := by simpa using h1
    simp only [List.getElem_map, List.getElem_range, List.getElem_replicate]
    exact syndrome_of_codeword h (by omega)
  have ht : correctTail c = c := by
    have h0 := syndrome_of_codeword h (i := 0) (by omega)
    simp only [correctTail, hs, locate_zeros, List.map_nil, vander, List.zip_nil_right, addAt, List.foldl_nil, List.foldl_cons, h0]
    refine List.ext_getElem (by simp) ?_
    intro n h1 h2
    by_cases hn : n = 255
    · subst hn; simp [h2]
    · simp [Ne.symm hn]
  have hd : differs c c = [] := by simp [differs]
  simp [rsDecode, ht, h, hd]

end Sys2Proof.Laws
end

