-- ==== Sys2Proof/Laws/Tables.lean ====
section
/-! SUPPORT. Sparse tables and memory: read after write, the frame of a write, and the canonical form, kept by every operation. -/

namespace Sys2Proof.Laws

open Sys2Proof Sys2Proof.Machine

variable {α : Type}

/-! ## Reading what was written -/

theorem get_insert (d : α) (t : List (Nat × α)) (k j : Nat) (v : α) :
    Tab.get d (Tab.insert t k v) j = if k = j then v else Tab.get d t j := by
  induction t with
  | nil => simp [Tab.insert, Tab.get]
  | cons x t ih =>
    obtain ⟨i, w⟩ := x
    unfold Tab.insert
    split
    · rename_i h; subst h; simp only [Tab.get]; split <;> rfl
    · split
      · simp only [Tab.get]
      · rename_i h h2
        simp only [Tab.get, ih]
        by_cases hk : k = j
        · subst hk; simp [h]
        · simp [hk]

theorem get_above (d : α) (t : List (Nat × α)) (k : Nat) (h : Tab.above k t = true) : Tab.get d t k = d := by
  induction t with
  | nil => rfl
  | cons x t ih =>
    obtain ⟨i, w⟩ := x
    simp only [Tab.above, Bool.and_eq_true, decide_eq_true_eq] at h
    have : i ≠ k := by omega
    simp [Tab.get, this, ih h.2]

theorem above_mono (t : List (Nat × α)) (j k : Nat) (hjk : j ≤ k) (h : Tab.above k t = true) : Tab.above j t = true := by
  induction t with
  | nil => rfl
  | cons x t ih =>
    obtain ⟨i, w⟩ := x
    simp only [Tab.above, Bool.and_eq_true, decide_eq_true_eq] at h ⊢
    exact ⟨by omega, ih h.2⟩

variable [DecidableEq α]

omit [DecidableEq α] in
theorem get_erase (d : α) (t : List (Nat × α)) (k j : Nat) : Tab.get d (Tab.erase t k) j = if k = j then d else Tab.get d t j := by
  induction t with
  | nil => simp [Tab.erase, Tab.get]
  | cons x t ih =>
    obtain ⟨i, w⟩ := x
    unfold Tab.erase at ih ⊢
    by_cases hik : i = k
    · subst hik
      rw [List.filter_cons_of_neg (by simp), ih]
      by_cases hj : i = j
      · simp [hj]
      · simp [Tab.get, hj]
    · rw [List.filter_cons_of_pos (by simp [hik])]
      simp only [Tab.get, ih]
      by_cases hj : k = j
      · subst hj; simp [hik]
      · simp [hj]

/-- A table reads what was put, and elsewhere what it held, canonical or not. -/
theorem get_put (d : α) (t : List (Nat × α)) (k j : Nat) (v : α) : Tab.get d (Tab.put d t k v) j = if k = j then v else Tab.get d t j := by
  unfold Tab.put
  split
  · rename_i hv; subst hv; exact get_erase v t k j
  · exact get_insert d t k j v

/-- A table reads at every other number what it held. -/
theorem get_put_other (d : α) (t : List (Nat × α)) (k j : Nat) (v : α) (h : k ≠ j) : Tab.get d (Tab.put d t k v) j = Tab.get d t j := by
  rw [get_put, if_neg h]

/-- A value that is not the default reads back, canonical table or not. -/
theorem get_put_self (d : α) (t : List (Nat × α)) (k : Nat) (v : α) (h : v ≠ d) : Tab.get d (Tab.put d t k v) k = v := by
  unfold Tab.put
  rw [if_neg h, get_insert, if_pos rfl]

/-! ## The canonical form -/

omit [DecidableEq α] in
theorem above_insert (t : List (Nat × α)) (j k : Nat) (v : α) (hjk : j < k) (h : Tab.above j t = true) :
    Tab.above j (Tab.insert t k v) = true := by
  induction t with
  | nil => simp [Tab.insert, Tab.above, hjk]
  | cons x t ih =>
    obtain ⟨i, w⟩ := x
    simp only [Tab.above, Bool.and_eq_true, decide_eq_true_eq] at h
    unfold Tab.insert
    split
    · simp [Tab.above, hjk, h.2]
    · split <;> simp [Tab.above, hjk, h.1, h.2, ih h.2]

theorem wf_insert (d : α) (t : List (Nat × α)) (k : Nat) (v : α) (hv : v ≠ d) (h : Tab.wf d t = true) : Tab.wf d (Tab.insert t k v) = true := by
  induction t with
  | nil => simp [Tab.insert, Tab.wf, Tab.above, hv]
  | cons x t ih =>
    obtain ⟨i, w⟩ := x
    simp only [Tab.wf, Bool.and_eq_true, decide_eq_true_eq] at h
    obtain ⟨⟨hw, ha⟩, ht⟩ := h
    unfold Tab.insert
    split
    · rename_i e; subst e; simp [Tab.wf, hv, ha, ht]
    · split
      · rename_i h1 h2
        simp [Tab.wf, Tab.above, hv, hw, ha, ht, h2, above_mono t k i (by omega) ha]
      · rename_i h1 h2
        simp [Tab.wf, hw, ih ht, above_insert t i k v (by omega) ha]

omit [DecidableEq α] in
theorem above_append (k : Nat) (x y : List (Nat × α)) (hx : Tab.above k x = true) (hy : Tab.above k y = true) : Tab.above k (x ++ y) = true := by
  induction x with
  | nil => exact hy
  | cons c x ih =>
    obtain ⟨i, w⟩ := c
    simp only [Tab.above, Bool.and_eq_true, decide_eq_true_eq, List.cons_append] at hx ⊢
    exact ⟨hx.1, ih hx.2⟩

omit [DecidableEq α] in
theorem above_iff (k : Nat) (x : List (Nat × α)) : Tab.above k x = true ↔ ∀ c ∈ x, k < c.1 := by
  induction x with
  | nil => simp [Tab.above]
  | cons c x ih => obtain ⟨i, w⟩ := c; simp [Tab.above, ih]

theorem wf_append (d : α) (x y : List (Nat × α)) (hx : Tab.wf d x = true) (hy : Tab.wf d y = true) (h : ∀ a ∈ x, ∀ b ∈ y, a.1 < b.1) :
    Tab.wf d (x ++ y) = true := by
  induction x with
  | nil => exact hy
  | cons c x ih =>
    obtain ⟨i, w⟩ := c
    simp only [Tab.wf, Bool.and_eq_true, decide_eq_true_eq, List.cons_append] at hx ⊢
    refine ⟨⟨hx.1.1, above_append i x y hx.1.2 ((above_iff i y).2 fun b hb => h (i, w) (by simp) b hb)⟩, ih hx.2 fun a ha b hb => h a (by simp [ha]) b hb⟩

theorem wf_filter (d : α) (p : Nat × α → Bool) (x : List (Nat × α)) (hx : Tab.wf d x = true) : Tab.wf d (x.filter p) = true := by
  induction x with
  | nil => rfl
  | cons c x ih =>
    obtain ⟨i, w⟩ := c
    simp only [Tab.wf, Bool.and_eq_true, decide_eq_true_eq] at hx
    rw [List.filter_cons]
    split
    · simp only [Tab.wf, Bool.and_eq_true, decide_eq_true_eq]
      refine ⟨⟨hx.1.1, (above_iff i _).2 fun b hb => ?_⟩, ih hx.2⟩
      exact (above_iff i x).1 hx.1.2 b ((List.mem_filter.1 hb).1)
    · exact ih hx.2

theorem wf_erase (d : α) (t : List (Nat × α)) (k : Nat) (h : Tab.wf d t = true) : Tab.wf d (Tab.erase t k) = true := wf_filter d _ t h

theorem wf_put (d : α) (t : List (Nat × α)) (k : Nat) (v : α) (h : Tab.wf d t = true) : Tab.wf d (Tab.put d t k v) = true := by
  unfold Tab.put
  split
  · exact wf_erase d t k h
  · rename_i hv; exact wf_insert d t k v hv h

/-! ## Memory -/

/-- A byte reads as written, every other as before (R42, R457). -/
theorem read_write (m : Memory) (a b : Nat) (v : Byte) : Memory.read (Memory.write m a v) b = if a = b then v else Memory.read m b := get_put _ m a b v

theorem memory_wf_write (m : Memory) (a : Nat) (v : Byte) (h : Memory.wf m = true) : Memory.wf (Memory.write m a v) = true := wf_put _ m a v h

theorem memory_wf_writeAll (m : Memory) (cells : List (Nat × Byte)) (h : Memory.wf m = true) : Memory.wf (Memory.writeAll m cells) = true := by
  unfold Memory.writeAll
  induction cells generalizing m with
  | nil => exact h
  | cons c cells ih => exact ih _ (memory_wf_write m c.1 c.2 h)

/-- Cells written elsewhere leave a byte as it was. -/
theorem read_writeAll_frame (m : Memory) (cells : List (Nat × Byte)) (a : Nat) (ha : ∀ c ∈ cells, c.1 ≠ a) :
    Memory.read (Memory.writeAll m cells) a = Memory.read m a := by
  unfold Memory.writeAll
  induction cells generalizing m with
  | nil => rfl
  | cons c cells ih =>
    rw [List.foldl_cons, ih _ fun x hx => ha x (by simp [hx]), read_write m c.1 a c.2]
    simp [ha c (by simp)]

theorem memory_wf_landWrites (s : State) (h : Memory.wf s.mem = true) : Memory.wf (landWrites s) = true := by
  unfold landWrites
  generalize s.memp.writes.map (fun w => w.cells) = l
  generalize s.mem = m at h
  induction l generalizing m with
  | nil => exact h
  | cons c l ih => exact ih _ (memory_wf_writeAll m c h)

theorem dumpRun_mem (byte : Nat → Byte) (a n : Nat) (c : Nat × Byte) (h : c ∈ dumpRun byte a n) : a ≤ c.1 ∧ c.1 < a + n := by
  simp only [dumpRun, List.mem_filterMap, List.mem_range] at h
  obtain ⟨i, hi, h⟩ := h
  simp only [Option.ite_none_left_eq_some, Option.some.injEq] at h
  obtain ⟨-, rfl⟩ := h
  simp; omega

theorem memory_wf_dumpRun (byte : Nat → Byte) (a n : Nat) : Memory.wf (dumpRun byte a n) = true := by
  induction n with
  | zero => rfl
  | succ n ih =>
    have e : dumpRun byte a (n + 1) = dumpRun byte a n ++ ([n].filterMap fun i => if byte i = Memory.unlisted then none else some (a + i, byte i)) := by
      simp [dumpRun, List.range_succ]
    rw [e]
    refine wf_append _ _ _ ih ?_ ?_
    · simp only [List.filterMap_cons, List.filterMap_nil]
      split
      · rfl
      · rename_i h
        simp only [Option.ite_none_left_eq_some, Option.some.injEq] at h
        obtain ⟨hb, rfl⟩ := h
        simp only [Tab.wf, Tab.above, Bool.and_eq_true, decide_eq_true_eq]
        exact ⟨⟨hb, trivial⟩, trivial⟩
    · intro x hx y hy
      have h1 := dumpRun_mem _ _ _ _ hx
      simp only [List.mem_filterMap, List.mem_singleton] at hy
      obtain ⟨i, hi, hy⟩ := hy
      simp only [Option.ite_none_left_eq_some, Option.some.injEq] at hy
      obtain ⟨-, rfl⟩ := hy
      subst hi; simp; omega

theorem memory_wf_dumpWrite (byte : Nat → Byte) (a n : Nat) (s : State) (h : Memory.wf s.mem = true) : Memory.wf (dumpWrite byte a n s).mem = true := by
  unfold dumpWrite
  refine wf_append _ _ _ (wf_append _ _ _ (wf_filter _ _ _ h) (memory_wf_dumpRun byte a n) ?_) (wf_filter _ _ _ h) ?_
  · intro x hx y hy
    have h1 := dumpRun_mem _ _ _ _ hy
    have h2 := (List.mem_filter.1 hx).2
    simp only [decide_eq_true_eq] at h2; omega
  · intro x hx y hy
    have h2 := (List.mem_filter.1 hy).2
    simp only [decide_eq_true_eq] at h2
    rcases List.mem_append.1 hx with hx | hx
    · have h3 := (List.mem_filter.1 hx).2
      simp only [decide_eq_true_eq] at h3; omega
    · have h1 := dumpRun_mem _ _ _ _ hx; omega

/-- Curfew's dump keeps memory canonical. -/
theorem memory_wf_writeDump (s : State) (h : Memory.wf s.mem = true) : Memory.wf (writeDump s).mem = true := by
  unfold writeDump
  dsimp only
  have h1 := memory_wf_dumpWrite (dumpHeader s) s.cur.dumpBase.toNat 4096 s h
  split
  · exact h
  · split
    · refine memory_wf_dumpWrite _ _ _ _ ?_
      split
      · exact memory_wf_dumpWrite _ _ _ _ h1
      · exact h1
    · split
      · exact memory_wf_dumpWrite _ _ _ _ h1
      · exact h1

end Sys2Proof.Laws
end

