-- ==== Sys2Proof/Laws/Commands.lean ====
section
/-! SUPPORT. Starting and ending a packet command, said once: who is in flight afterwards, and how the command that starts or ends is held. -/

namespace Sys2Proof.Laws

open Sys2Proof Sys2Proof.Machine Sys2Proof.Safety

/-! ## Operations that leave the commands in flight as they are -/

@[simp] theorem eng_foldl {β : Type} (f : State → β → State) (l : List β) (s : State) (h : ∀ s x, (f s x).eng = s.eng) :
    (l.foldl f s).eng = s.eng :=
  keeps_foldl State.eng f s h l

@[simp] theorem eng_ite (c : Prop) [Decidable c] (a b : State) : State.eng (if c then a else b) = if c then a.eng else b.eng := by split <;> rfl

@[simp] theorem modParish_eng (q : Nat) (f : Parish → Parish) (s : State) : State.eng (modParish q f s) = State.eng s := by
  simp [modParish]

@[simp] theorem issueRead_eng (use : ReadFor) (parts : List (Nat × Nat)) (cls : BitVec 3) (agent : Option (BitVec 6)) (span : Option (BitVec 6 × Nat × Nat)) (s : State) : State.eng (issueRead use parts cls agent span s) = State.eng s := by
  simp [issueRead]

@[simp] theorem issueWrite_eng (use : WriteFor) (cells : List (Nat × Byte)) (cls : BitVec 3) (wake : Bool) (agent : Option (BitVec 6)) (span : Option (BitVec 6 × Nat × Nat)) (s : State) : State.eng (issueWrite use cells cls wake agent span s) = State.eng s := by
  simp [issueWrite]

@[simp] theorem raiseMsg_eng (e : FaultMsg) (s : State) : State.eng (raiseMsg e s) = State.eng s := by
  simp [raiseMsg]

@[simp] theorem raise_eng (src k addr : Nat) (cmds : List Nat) (q : Option (BitVec 6)) (s : State) : State.eng (raise src k addr cmds q s) = State.eng s := by
  simp [raise]

@[simp] theorem ringSet_eng (r : RingId) (x : Ring) (s : State) : State.eng (ringSet r x s) = State.eng s := by
  unfold ringSet; (repeat' split) <;> simp

@[simp] theorem ringPut_eng (r : RingId) (ws : List Word) (s : State) : State.eng (ringPut r ws s) = State.eng s := by
  simp [ringPut]

@[simp] theorem notifyOverflow_eng (o : Owner) (s : State) : State.eng (notifyOverflow o s) = State.eng s := by
  unfold notifyOverflow; (repeat' split) <;> simp

@[simp] theorem notify_eng (o : Owner) (e : Word) (s : State) : State.eng (notify o e s) = State.eng s := by
  simp [notify]

@[simp] theorem leaveRecords_eng (w : Requester) (s : State) : State.eng (leaveRecords w s) = State.eng s := by
  simp [leaveRecords]

@[simp] theorem putChan_eng (ch : BitVec 21) (c : Chan) (s : State) : State.eng (putChan ch c s) = State.eng s := by
  simp [putChan]

@[simp] theorem modChan_eng (ch : BitVec 21) (f : Chan → Chan) (s : State) : State.eng (modChan ch f s) = State.eng s := by
  unfold modChan; (repeat' split) <;> simp

@[simp] theorem fetch_eng (ch : BitVec 21) (s : State) : State.eng (fetch ch s) = State.eng s := by
  unfold fetch; (repeat' split) <;> simp

@[simp] theorem writeBack_eng (use : WriteFor) (ch : BitVec 21) (c : Chan) (s : State) : State.eng (writeBack use ch c s) = State.eng s := by
  simp [writeBack]

@[simp] theorem orphanRing_eng (ch : BitVec 21) (s : State) : State.eng (orphanRing ch s) = State.eng s := by
  simp [orphanRing]

@[simp] theorem orphanWait_eng (ch : BitVec 21) (s : State) : State.eng (orphanWait ch s) = State.eng s := by
  simp [orphanWait]

@[simp] theorem evict_eng (n : Nat) (c : Chan) (s : State) : State.eng (evict n c s) = State.eng s := by
  simp [evict]

@[simp] theorem queueOverflow_eng (ch : BitVec 21) (s : State) : State.eng (queueOverflow ch s) = State.eng s := by
  unfold queueOverflow; (repeat' split) <;> simp

@[simp] theorem rotateOut_eng (ch : BitVec 21) (c : Chan) (s : State) : State.eng (rotateOut ch c s) = State.eng s := by
  simp [rotateOut]

theorem cacheRoom_eng (s t : State) (h : cacheRoom s = some t) : State.eng (t) = State.eng s := by
  unfold cacheRoom at h
  split at h
  · cases h; rfl
  · split at h
    · cases h; simp
    · split at h
      · cases h; simp
      · cases h

@[simp] theorem readDesc_eng (ch : BitVec 21) (s : State) : State.eng (readDesc ch s) = State.eng s := by
  simp [readDesc]

@[simp] theorem loadDesc_eng (ch : BitVec 21) (s : State) : State.eng (loadDesc ch s) = State.eng s := by
  unfold loadDesc; (repeat' split) <;> simp

@[simp] theorem enterCache_eng (ch : BitVec 21) (s : State) : State.eng (enterCache ch s) = State.eng s := by
  unfold enterCache
  split
  · rfl
  · split
    · rfl
    · split
      · simp
      · split
        · rename_i h; simp [cacheRoom_eng _ _ h]
        · simp

@[simp] theorem chargeDeficit_eng (q : BitVec 6) (lvl : Nat) (pkt : List Word) (s : State) : State.eng (chargeDeficit q lvl pkt s) = State.eng s := by
  simp [chargeDeficit]

@[simp] theorem takeTurn_eng (ch : BitVec 21) (q : BitVec 6) (lvl : Nat) (s : State) : State.eng (takeTurn ch q lvl s) = State.eng s := by
  simp [takeTurn]

@[simp] theorem tidyDeficits_eng (s : State) : State.eng (tidyDeficits s) = State.eng s := by
  unfold tidyDeficits
  exact eng_foldl _ _ _ (fun s x => by split <;> simp)

@[simp] theorem endSync_eng (ch : BitVec 21) (s : State) : State.eng (endSync ch s) = State.eng s := by
  unfold endSync; (repeat' split) <;> simp

@[simp] theorem countStopped_eng (st : BitVec 8) (q : Option (BitVec 6)) (s : State) : State.eng (countStopped st q s) = State.eng s := by
  unfold countStopped; (repeat' split) <;> simp

@[simp] theorem dropWait_eng (ch : BitVec 21) (s : State) : State.eng (dropWait ch s) = State.eng s := by
  simp [dropWait]

@[simp] theorem parkFor_eng (ch : BitVec 21) (why : BitVec 8) (s : State) : State.eng (parkFor ch why s) = State.eng s := by
  simp [parkFor]

@[simp] theorem bellConfig_eng (q : Option (BitVec 6)) (ch : BitVec 21) (s : State) : State.eng (bellConfig q ch s) = State.eng s := by
  simp [bellConfig]

@[simp] theorem bellError_eng (ch : BitVec 21) (o : Owner) (action : BitVec 2) (val : BitVec 32) (s : State) : State.eng (bellError ch o action val s) = State.eng s := by
  simp [bellError]

@[simp] theorem rouse_eng (ch : BitVec 21) (s : State) : State.eng (rouse ch s) = State.eng s := by
  simp [rouse]

@[simp] theorem bellTail_eng (ch : BitVec 21) (c : Chan) (val : BitVec 32) (s : State) : State.eng (bellTail ch c val s) = State.eng s := by
  simp [bellTail]

@[simp] theorem bellCpl_eng (ch : BitVec 21) (c : Chan) (val : BitVec 32) (s : State) : State.eng (bellCpl ch c val s) = State.eng s := by
  simp [bellCpl]

@[simp] theorem bellPark_eng (ch : BitVec 21) (c : Chan) (s : State) : State.eng (bellPark ch c s) = State.eng s := by
  unfold bellPark; (repeat' split) <;> simp

@[simp] theorem bellResume_eng (ch : BitVec 21) (c : Chan) (s : State) : State.eng (bellResume ch c s) = State.eng s := by
  unfold bellResume; (repeat' split) <;> simp

@[simp] theorem bellHeld_eng (b : Bell) (c : Chan) (s : State) : State.eng (bellHeld b c s) = State.eng s := by
  simp [bellHeld]

@[simp] theorem ring_eng (b : Bell) (s : State) : State.eng (ring b s) = State.eng s := by
  unfold ring; (repeat' split) <;> simp

/-! ## Starting -/

/-- What a started command is in flight as. -/
def begun (s : State) (ch : BitVec 21) (c : Chan) (pkt : List Word) (engine : Option Nat) (rejected : Bool) : Cmd :=
  { id := s.eng.nextId, ch := ch, parish := if ch = 0 then none else some c.parish, op := BitVec.ofNat 8 (pkOp pkt), pkt := pkt, ringIx := c.head
    recIx := c.recNext, engine := engine, rejected := rejected, start := now s, hangAt := now s }

/-- Starting adds the command behind those in flight and takes the next number. -/
theorem begin_eng (ch : BitVec 21) (pkt : List Word) (engine : Option Nat) (rejected : Bool) (s : State) (c : Chan) (h : chan? s ch = some c) :
    (begin_ ch pkt engine rejected s).eng =
      { s.eng with cmds := s.eng.cmds ++ [begun s ch c pkt engine rejected], nextId := s.eng.nextId + 1 } := by
  unfold begin_
  rw [h]
  dsimp only
  rw [fetch_eng]
  have hn : ∀ q lvl, now (takeTurn ch q lvl s) = now s := fun q lvl => still_now (congrArg toStill (takeTurn_kept ch q lvl s))
  (repeat' split) <;> simp_all [begun]

/-- The command just started is the one its number names. -/
theorem cmd_begin (ch : BitVec 21) (pkt : List Word) (engine : Option Nat) (rejected : Bool) (s : State) (c : Chan) (h : chan? s ch = some c)
    (hf : fresh s) : cmd? (begin_ ch pkt engine rejected s) (nextCmd s) = some (begun s ch c pkt engine rejected) := by
  unfold cmd?
  rw [begin_eng ch pkt engine rejected s c h]
  dsimp only
  rw [List.find?_append]
  have h0 : s.eng.cmds.find? (fun x => x.id == nextCmd s) = none := by
    rw [List.find?_eq_none]
    intro x hx
    have := hf x hx
    simp only [nextCmd, beq_iff_eq]; omega
  rw [h0]
  simp [begun, nextCmd]

/-- Starting a command leaves the rest as `startedIn` says. -/
theorem begin_started (ch : BitVec 21) (pkt : List Word) (engine : Option Nat) (rejected : Bool) (s : State) (c : Chan) (h : chan? s ch = some c) :
    startedIn s (begin_ ch pkt engine rejected s) ch c pkt engine := by
  have h1 := begin__kept ch pkt engine rejected s
  have h2 := begin_eng ch pkt engine rejected s c h
  unfold startedIn
  generalize begin_ ch pkt engine rejected s = t at h1 h2
  have h3 : t.eng.cmds.map keyOf = s.eng.cmds.map keyOf ++ [keyOf (begun s ch c pkt engine rejected)] := by rw [h2]; simp
  have h4 : t.eng.nextId = s.eng.nextId + 1 := by rw [h2]
  simp only [kept, still_mem h1, still_part h1, still_pending h1, still_safe h1, still_now h1, h3, h4]
  rfl

/-- An engine's command that may start and is not rejected goes to an engine, and to admission. -/
theorem startEngine_runs (ch : BitVec 21) (pkt : List Word) (s : State) (c : Chan) (e : Nat) (h : chan? s ch = some c)
    (hm : mayStart s ch pkt = true) (he : early s (ch == 0) c.parish pkt = none) (hp : pickEngine s = some e) :
    startEngine ch pkt s = admission (nextCmd s) (begin_ ch pkt (some e) false s) := by
  unfold startEngine
  rw [h]
  dsimp only
  rw [if_neg (by simp [hm]), he]
  dsimp only
  rw [hp]

/-- A packet command that may start and is rejected ends at once. -/
theorem startOther_rejects (ch : BitVec 21) (pkt : List Word) (run : Nat → State → State) (s : State) (c : Chan) (st : BitVec 8)
    (h : chan? s ch = some c) (hm : mayStart s ch pkt = true) (he : early s (ch == 0) c.parish pkt = some st) :
    startOther ch pkt run s = reject ch pkt st s := by
  unfold startOther startWhere
  rw [h]
  dsimp only
  rw [if_neg (by simp [hm]), he]

theorem startEngine_rejects (ch : BitVec 21) (pkt : List Word) (s : State) (c : Chan) (st : BitVec 8) (h : chan? s ch = some c)
    (hm : mayStart s ch pkt = true) (he : early s (ch == 0) c.parish pkt = some st) : startEngine ch pkt s = reject ch pkt st s := by
  unfold startEngine
  rw [h]
  dsimp only
  rw [if_neg (by simp [hm]), he]

/-- A packet command that may start, needs no engine and is not rejected runs. -/
theorem startOther_runs (ch : BitVec 21) (pkt : List Word) (run : Nat → State → State) (s : State) (c : Chan) (h : chan? s ch = some c)
    (hm : mayStart s ch pkt = true) (he : early s (ch == 0) c.parish pkt = none) (hr : pkOp pkt < 0x40 ∨ stewardRoom s ch c.parish = true) :
    startOther ch pkt run s = run (nextCmd s) (begin_ ch pkt none false s) := by
  unfold startOther startWhere
  rw [h]
  dsimp only
  rw [if_neg (by simp [hm]), he]
  dsimp only
  rw [if_neg]
  rintro ⟨h1, h2⟩
  rcases hr with hr | hr
  · omega
  · simp [hr] at h2

/-! ## Ending -/

theorem mem_of_cmd (s : State) (id : Nat) (c : Cmd) (h : cmd? s id = some c) : c ∈ s.eng.cmds ∧ c.id = id := by
  unfold cmd? at h
  exact ⟨List.mem_of_find?_eq_some h, by simpa using List.find?_some h⟩

/-- A number names a command as long as the keys say so. -/
theorem cmd_of_kept (s t : State) (id : Nat) (h : kept t = kept s) (hc : (cmd? s id).isSome = true) : (cmd? t id).isSome = true := by
  have hk : t.eng.cmds.map keyOf = s.eng.cmds.map keyOf := congrArg Kept.keys h
  have e : ∀ u : State, (cmd? u id).isSome = ((u.eng.cmds.map keyOf).any fun k => k.id == id) := by
    intro u
    unfold cmd?
    rw [List.any_map, Bool.eq_iff_iff, List.find?_isSome, List.any_eq_true]
    rfl
  rw [e, hk, ← e]
  exact hc

theorem find_modFirst (id : Nat) (f : Cmd → Cmd) (hf : ∀ c, (f c).id = c.id) (l : List Cmd) :
    (modFirst (fun c => c.id == id) f l).find? (fun c => c.id == id) = (l.find? fun c => c.id == id).map f := by
  induction l with
  | nil => rfl
  | cons a l ih =>
    unfold modFirst
    split
    · rename_i h; simp [h, hf]
    · rename_i h; simp [h, ih]

theorem cmd_modCmd (id : Nat) (f : Cmd → Cmd) (hf : ∀ c, (f c).id = c.id) (s : State) : cmd? (modCmd id f s) id = (cmd? s id).map f := by
  unfold cmd? modCmd
  exact find_modFirst id f hf s.eng.cmds

theorem cmd_of_eng (s t : State) (id : Nat) (h : t.eng = s.eng) : cmd? t id = cmd? s id := by
  unfold cmd?
  rw [h]

/-- A command that ends is held with the status it ended with, and with the result if that status is a good one. -/
theorem done_ends (id : Nat) (st : BitVec 8) (r : Word) (s : State) (c : Cmd) (h : cmd? s id = some c) (hp : c.phase ≠ .done) :
    ∃ c', cmd? (done id st r s) id = some c' ∧ c'.phase = .done ∧ c'.status = st ∧ (stGood st = true → c'.result = r) := by
  unfold done finish
  rw [h]
  dsimp only
  rw [if_neg (by simpa using hp)]
  generalize hs : endMill id (endSlots id (endTags c (leaveRecords (.cmd id) s))) = s1
  have h1 : (cmd? s1 id).isSome = true := cmd_of_kept s s1 id (by rw [← hs]; simp) (by simp [h])
  obtain ⟨c1, hc1⟩ := Option.isSome_iff_exists.1 h1
  generalize hs2 : ({ dropUnits (fun u => u.use == .cmd id) s1 with
        tx := { (dropUnits (fun u => u.use == .cmd id) s1).tx with queries := (dropUnits (fun u => u.use == .cmd id) s1).tx.queries.filter fun q => q.cmd != id }
        eng := { (dropUnits (fun u => u.use == .cmd id) s1).eng with tagWait := (dropUnits (fun u => u.use == .cmd id) s1).eng.tagWait.erase id } } : State) = s2
  have h2 : cmd? s2 id = some c1 := by rw [← hs2]; exact hc1
  generalize hf : (fun c : Cmd => ({ c with
        phase := .done, status := st, device := 0, result := if stGood st then r else 0, doneAt := now s2, reading := false, writing := 0 } : Cmd)) = f
  have h3 : cmd? (modCmd id f s2) id = some (f c1) := by
    rw [cmd_modCmd id f (by intro c; rw [← hf]) s2, h2]; rfl
  refine ⟨f c1, ?_, by rw [← hf], by rw [← hf], by intro hg; rw [← hf]; simp [hg]⟩
  rw [← h3]
  apply cmd_of_eng
  rw [endSync_eng, countStopped_eng]
  split
  · rfl
  · simp


/-! ## Channels -/

/-- Looking up a channel's number after an insertion: the new entry for its own number, the old one for any other. -/
theorem find_insert (l : List (Nat × Chan)) (a b : Nat) (v : Chan) :
    ((Tab.insert l a v).find? fun e => e.1 == b).map (fun e => e.2) = if a = b then some v else (l.find? fun e => e.1 == b).map (fun e => e.2) := by
  fun_induction Tab.insert l a v with
  | case1 => rw [List.find?_cons]; split <;> simp_all
  | case2 w t k v => simp only [List.find?_cons]; split <;> simp_all
  | case3 => simp only [List.find?_cons]; split <;> simp_all
  | case4 j w t k v hjk _ ih =>
    simp only [List.find?_cons]
    by_cases hj : j = b
    · subst hj; simp [Ne.symm hjk]
    · simp only [beq_false_of_ne hj, ih]

/-- A channel's entry that is put is the one read; every other channel's stays. -/
theorem chan_putChan (ch k : BitVec 21) (c : Chan) (s : State) :
    ∃ t, chan? (putChan ch c s) k = (if ch = k then some { c with blockedAt := t } else chan? s k) := by
  refine ⟨(if c.state == .blocked && !((chan? s ch).any fun x => x.state == .blocked) then { c with blockedAt := s.alm.now } else c).blockedAt, ?_⟩
  unfold putChan chan?
  dsimp only
  rw [find_insert]
  by_cases h : ch = k
  · simp only [h, if_true]
    split <;> rfl
  · have : ch.toNat ≠ k.toNat := fun e => h (BitVec.eq_of_toNat_eq e)
    simp [h, this]

theorem chan_of_chn (s t : State) (ch : BitVec 21) (h : t.chn = s.chn) : chan? t ch = chan? s ch := by
  unfold chan?
  rw [h]

@[simp] theorem settle_head (c : Chan) : (settle c).head = c.head := by
  unfold settle; (repeat' split) <;> rfl

@[simp] theorem settle_recNext (c : Chan) : (settle c).recNext = c.recNext := by
  unfold settle; (repeat' split) <;> rfl

@[simp] theorem settle_errMark (c : Chan) : (settle c).errMark = c.errMark := by
  unfold settle; (repeat' split) <;> rfl

@[simp] theorem markHalf_head (s : State) (c : Chan) : (markHalf s c).head = c.head := by simp [markHalf]

@[simp] theorem markHalf_recNext (s : State) (c : Chan) : (markHalf s c).recNext = c.recNext := by simp [markHalf]

@[simp] theorem markHalf_errMark (s : State) (c : Chan) : (markHalf s c).errMark = c.errMark := by simp [markHalf]

@[simp] theorem fetch_chn (ch : BitVec 21) (s : State) : (fetch ch s).chn = s.chn := by
  unfold fetch
  (repeat' split) <;> first | rfl | (dsimp only; split <;> rfl)

@[simp] theorem chargeDeficit_chn (q : BitVec 6) (lvl : Nat) (pkt : List Word) (s : State) : (chargeDeficit q lvl pkt s).chn = s.chn := rfl

theorem chn_foldl {β : Type} (f : State → β → State) (l : List β) (s : State) (h : ∀ s x, (f s x).chn = s.chn) : (l.foldl f s).chn = s.chn :=
  keeps_foldl State.chn f s h l

@[simp] theorem tidyDeficits_chn (s : State) : (tidyDeficits s).chn = s.chn := by
  unfold tidyDeficits
  exact chn_foldl _ _ _ (by intro s e; split <;> rfl)

/-- When a command starts, HEAD and the next record index of its channel move on. -/
theorem begin_head (ch : BitVec 21) (pkt : List Word) (engine : Option Nat) (rejected : Bool) (s : State) (c : Chan) (h : chan? s ch = some c) :
    ∃ x, chan? (begin_ ch pkt engine rejected s) ch = some x ∧ x.head = c.head + BitVec.ofNat 32 (pkEntries pkt) ∧ x.recNext = c.recNext + 1 ∧
      x.errMark = c.errMark := by
  unfold begin_
  rw [h]
  dsimp only
  rw [chan_of_chn _ _ ch (fetch_chn ch _)]
  generalize (if ch ≠ 0 ∧ chosen s = some ch.toNat then takeTurn ch c.parish (effPrio s ch c) s else s) = s1
  generalize ({ s1 with eng := _, chn := _ } : State) = s0
  generalize hc : ({ c with head := _, recNext := _, started := _, lastStart := _ } : Chan) = c0
  obtain ⟨t, ht⟩ := chan_putChan ch ch (markHalf s1 c0) s0
  rw [if_pos rfl] at ht
  refine ⟨_, (chan_of_chn (putChan ch (markHalf s1 c0) s0) _ ch ?_).trans ht, by simp [← hc], by simp [← hc], by simp [← hc]⟩
  (repeat' split) <;> simp

@[simp] theorem endSlots_chn (id : Nat) (s : State) : (endSlots id s).chn = s.chn := by
  unfold endSlots
  exact chn_foldl _ _ _ (by intro s e; split <;> rfl)

@[simp] theorem freeStones_chn (mine : MillWork → Bool) (s : State) : (freeStones mine s).chn = s.chn := by
  unfold freeStones
  dsimp only
  rw [chn_foldl _ _ _ (by intro s n; split <;> rfl)]

/-- Ending a command leaves its channel's HEAD and record index; a bad status marks the channel, a good one leaves the mark. -/
theorem done_head (id : Nat) (st : BitVec 8) (r : Word) (s : State) (ch : BitVec 21) (x : Chan) (h : chan? s ch = some x) :
    ∃ y, chan? (done id st r s) ch = some y ∧ y.head = x.head ∧ y.recNext = x.recNext ∧ (stGood st = true → y.errMark = x.errMark) := by
  unfold done finish
  split
  · exact ⟨x, h, rfl, rfl, fun _ => rfl⟩
  · rename_i c hc
    split
    · exact ⟨x, h, rfl, rfl, fun _ => rfl⟩
    · dsimp only
      generalize hs1 : modCmd id _ _ = s1
      have h1 : chan? s1 ch = some x := by
        rw [← hs1, ← h]
        apply chan_of_chn
        simp [modCmd, dropUnits, sealFreed, endMill, endTags, leaveRecords]
      have h2 : ∃ y, chan? (if stGood st then s1 else modChan c.ch (fun x => { x with errMark := true }) s1) ch = some y ∧ y.head = x.head ∧
          y.recNext = x.recNext ∧ (stGood st = true → y.errMark = x.errMark) := by
        split
        · exact ⟨x, h1, rfl, rfl, fun _ => rfl⟩
        · rename_i hb
          unfold modChan
          split
          · exact ⟨x, h1, rfl, rfl, fun g => absurd g hb⟩
          · rename_i c1 hc1
            obtain ⟨t, ht⟩ := chan_putChan c.ch ch { c1 with errMark := true } s1
            rw [ht]
            split
            · rename_i he; subst he
              rw [h1] at hc1; cases hc1
              exact ⟨_, rfl, rfl, rfl, fun g => absurd g hb⟩
            · exact ⟨x, h1, rfl, rfl, fun _ => rfl⟩
      generalize (if stGood st then s1 else modChan c.ch (fun x => { x with errMark := true }) s1 : State) = s2 at h2
      obtain ⟨y, hy, hy2⟩ := h2
      have h3 : chan? (countStopped st c.parish s2) ch = some y := by
        rw [← hy]
        apply chan_of_chn
        unfold countStopped
        (repeat' split) <;> rfl
      generalize countStopped st c.parish s2 = s3 at h3
      unfold endSync
      split
      · rename_i c4 hc4
        split
        · obtain ⟨t, ht⟩ := chan_putChan c.ch ch (unblock c4) s3
          rw [ht]
          split
          · rename_i he; subst he
            rw [h3] at hc4; cases hc4
            refine ⟨_, rfl, ?_, ?_, ?_⟩
            · rw [← hy2.1]; unfold unblock; split <;> simp
            · rw [← hy2.2.1]; unfold unblock; split <;> simp
            · intro g; rw [← hy2.2.2 g]; unfold unblock; split <;> simp
          · exact ⟨y, h3, hy2⟩
        · exact ⟨y, h3, hy2⟩
      · exact ⟨y, h3, hy2⟩

/-- A command that ends in the state its start leaves: status, result, key and the other units. -/
theorem done_after (s t : State) (ch : BitVec 21) (c : Chan) (pkt : List Word) (e : Option Nat) (st : BitVec 8) (r : Word) (k : Cmd)
    (h : startedIn s t ch c pkt e) (hk : cmd? t s.eng.nextId = some k) (hp : k.phase ≠ .done) :
    endedIn s (done (nextCmd s) st r t) st r ∧ startedIn s (done (nextCmd s) st r t) ch c pkt e := by
  refine ⟨done_ends _ st r t k hk hp, ?_⟩
  unfold startedIn at h ⊢
  rw [done_kept, h]

/-! ## What starting and ending touch -/

theorem fetch_rest (ch : BitVec 21) (s : State) : fetch ch s = { s with memp := (fetch ch s).memp } := by
  unfold fetch
  (repeat' split) <;> first | rfl | (dsimp only; split <;> rfl)

theorem onlyPar_foldl {β : Type} (f : State → β → State) (h : ∀ s x, f s x = { s with par := (f s x).par }) (l : List β) (s : State) :
    l.foldl f s = { s with par := (l.foldl f s).par } := by
  induction l generalizing s with
  | nil => rfl
  | cons a l ih => rw [List.foldl_cons, ih, h s a]

/-- Taking the round robin's turn changes the channels' order of service and the parishes' deficits; nothing else. -/
theorem takeTurn_rest (ch : BitVec 21) (q : BitVec 6) (lvl : Nat) (s : State) :
    takeTurn ch q lvl s = { s with chn := (takeTurn ch q lvl s).chn, par := (takeTurn ch q lvl s).par } := by
  unfold takeTurn
  dsimp only
  rw [onlyPar_foldl _ (fun s x => rfl)]

theorem tidyDeficits_rest (s : State) : tidyDeficits s = { s with par := (tidyDeficits s).par } := by
  unfold tidyDeficits
  exact onlyPar_foldl _ (fun s x => by split <;> rfl) _ _

/-- Starting a command changes the channels, the commands in flight, its parish's deficits and the reads that are out; nothing else. -/
theorem begin_rest (ch : BitVec 21) (pkt : List Word) (engine : Option Nat) (rejected : Bool) (s : State) :
    begin_ ch pkt engine rejected s = { s with
      chn := (begin_ ch pkt engine rejected s).chn, eng := (begin_ ch pkt engine rejected s).eng
      par := (begin_ ch pkt engine rejected s).par, memp := (begin_ ch pkt engine rejected s).memp } := by
  unfold begin_
  split
  · rfl
  · dsimp only
    rw [fetch_rest]
    unfold chargeDeficit
    dsimp only
    rw [tidyDeficits_rest]
    by_cases ht : ch ≠ 0 ∧ chosen s = some ch.toNat
    · simp only [if_pos ht]
      generalize hu : takeTurn ch _ _ s = u
      obtain ⟨a, b, rfl⟩ : ∃ a b, u = { s with chn := a, par := b } := ⟨_, _, hu ▸ takeTurn_rest ch _ _ s⟩
      (repeat' split) <;> rfl
    · simp only [if_neg ht]
      (repeat' split) <;> rfl

theorem par_foldl {β : Type} (f : State → β → State) (l : List β) (s : State) (h : ∀ s x, (f s x).par = s.par) : (l.foldl f s).par = s.par :=
  keeps_foldl State.par f s h l

/-- The registers, logs and requests that ending a command leaves. -/
def restOf (s : State) : Gbl × Flt × Stw × Memp × List Reg := (s.gbl, s.flt, s.stw, s.memp, s.mil.regs)

theorem endMill_rest (id : Nat) (s : State) : restOf (endMill id s) = restOf s ∧ (endMill id s).par = s.par := by
  unfold endMill freeStones
  dsimp only
  generalize hf : List.foldl _ _ _ = u
  have h : restOf u = restOf s ∧ u.par = s.par := by
    rw [← hf]
    exact ⟨keeps_foldl restOf _ _ (by intro s n; split <;> rfl) _, keeps_foldl State.par _ _ (by intro s n; split <;> rfl) _⟩
  exact h

theorem endSlots_rest (id : Nat) (s : State) : restOf (endSlots id s) = restOf s ∧ (endSlots id s).par = s.par := by
  unfold endSlots
  constructor
  · exact keeps_foldl restOf _ _ (by intro s n; split <;> rfl) _
  · exact keeps_foldl State.par _ _ (by intro s n; split <;> rfl) _

/-- Ending a command leaves registers, log and requests; and, unless it is stopped, every parish. -/
theorem done_rest (id : Nat) (st : BitVec 8) (r : Word) (s : State) :
    restOf (done id st r s) = restOf s ∧ (st ≠ stStopped → (done id st r s).par = s.par) := by
  unfold done finish
  split
  · exact ⟨rfl, fun _ => rfl⟩
  · rename_i c hc
    split
    · exact ⟨rfl, fun _ => rfl⟩
    · dsimp only
      generalize hs0 : endMill id (endSlots id (endTags c (leaveRecords (.cmd id) s))) = s0
      have h0 : restOf s0 = restOf s ∧ s0.par = s.par := by
        rw [← hs0, (endMill_rest id _).1, (endMill_rest id _).2, (endSlots_rest id _).1, (endSlots_rest id _).2]
        exact ⟨rfl, rfl⟩
      generalize hs1 : modCmd id _ _ = s1
      have h1 : restOf s1 = restOf s ∧ s1.par = s.par := by rw [← hs1]; exact h0
      generalize hs2 : (if stGood st then s1 else modChan c.ch (fun x => { x with errMark := true }) s1 : State) = s2
      have h2 : restOf s2 = restOf s ∧ s2.par = s.par := by
        rw [← hs2]
        split
        · exact h1
        · unfold modChan putChan
          split <;> exact h1
      have h3 : restOf (countStopped st c.parish s2) = restOf s ∧ (st ≠ stStopped → (countStopped st c.parish s2).par = s.par) := by
        unfold countStopped modParish
        (repeat' split) <;> first | exact ⟨h2.1, fun _ => h2.2⟩ | (rename_i hst; exact ⟨h2.1, fun g => absurd hst g⟩)
      generalize countStopped st c.parish s2 = s3 at h3
      unfold endSync putChan
      (repeat' split) <;> exact h3

/-! ## Parishes -/

/-- A parish that is changed reads as changed; every other stays. -/
theorem parish_modParish (q p : Nat) (f : Parish → Parish) (s : State) :
    parish (modParish q f s) p = if q = p then f (parish s q) else parish s p := get_put _ _ _ _ _

/-- What leaves a parish alone but for its deficits. -/
def deficitOnly (f : Parish → Parish) : Prop := ∀ x, ∃ d, f x = { x with deficit := d }

theorem deficit_modParish (q p : Nat) (f : Parish → Parish) (hf : deficitOnly f) (b : Parish) (s : State)
    (h : ∃ d, parish s p = { b with deficit := d }) : ∃ d, parish (modParish q f s) p = { b with deficit := d } := by
  obtain ⟨d, hd⟩ := h
  rw [parish_modParish]
  split
  · rename_i he
    obtain ⟨d2, hd2⟩ := hf { b with deficit := d }
    rw [he, hd]; exact ⟨d2, hd2⟩
  · exact ⟨d, hd⟩

theorem deficit_foldl {β : Type} (f : State → β → State) (p : Nat) (b : Parish)
    (hf : ∀ s x, (∃ d, parish s p = { b with deficit := d }) → ∃ d, parish (f s x) p = { b with deficit := d })
    (l : List β) (s : State) (h : ∃ d, parish s p = { b with deficit := d }) : ∃ d, parish (l.foldl f s) p = { b with deficit := d } := by
  induction l generalizing s with
  | nil => exact h
  | cons a l ih => rw [List.foldl_cons]; exact ih _ (hf s a h)

/-- The round robin's turn changes of every parish its deficits alone. -/
theorem takeTurn_parish (ch : BitVec 21) (q : BitVec 6) (lvl : Nat) (s : State) (p : Nat) :
    ∃ d, parish (takeTurn ch q lvl s) p = { parish s p with deficit := d } :=
  deficit_foldl _ p _ (fun s x h => deficit_modParish _ _ _ (fun y => ⟨_, rfl⟩) _ s h) _ s ⟨_, rfl⟩

/-- Emptying the deficits of parishes with nothing startable changes of every parish its deficits alone. -/
theorem tidyDeficits_parish (s : State) (p : Nat) (b : Parish) (h : ∃ d, parish s p = { b with deficit := d }) :
    ∃ d, parish (tidyDeficits s) p = { b with deficit := d } := by
  refine deficit_foldl _ p _ (fun t x h => ?_) _ s h
  split
  · exact h
  · exact deficit_modParish _ _ _ (fun y => ⟨_, rfl⟩) _ t h

/-- What a started packet is charged to its parish. -/
def charged (pkt : List Word) (lvl : Nat) (p : Parish) : Parish :=
  { p with deficit := Tab.put (0 : Int) p.deficit lvl (Tab.get (0 : Int) p.deficit lvl - (max (payloadBytes pkt) 64 : Nat)) }

/-- Starting a command changes of every parish its deficits alone. -/
theorem begin_parish (ch : BitVec 21) (pkt : List Word) (engine : Option Nat) (rejected : Bool) (s : State) (p : Nat) :
    ∃ d, parish (begin_ ch pkt engine rejected s) p = { parish s p with deficit := d } := by
  unfold begin_
  split
  · exact ⟨_, rfl⟩
  · rename_i c hc
    dsimp only
    have hfp : ∀ u, parish (fetch ch u) p = parish u p := by intro u; rw [fetch_rest]; rfl
    rw [hfp]
    generalize hs1 : (if ch ≠ 0 ∧ chosen s = some ch.toNat then takeTurn ch c.parish (effPrio s ch c) s else s) = s1
    generalize hs0 : putChan ch _ _ = s0
    have h1 : ∃ d, parish s0 p = { parish s p with deficit := d } := by
      have h0 : parish s0 p = parish s1 p := by rw [← hs0]; rfl
      rw [h0, ← hs1]
      split
      · exact takeTurn_parish ch _ _ s p
      · exact ⟨_, rfl⟩
    split
    · exact h1
    · have h2 : ∀ lvl, ∃ d, parish (chargeDeficit c.parish lvl pkt s0) p = { parish s p with deficit := d } :=
        fun lvl => deficit_modParish c.parish.toNat p (charged pkt lvl) (fun x => ⟨_, rfl⟩) _ s0 h1
      exact tidyDeficits_parish _ p _ (h2 _)

/-- With nothing that waits for a translation, nothing is tried again. -/
theorem retryArrivals_calm {s : State} (h : calm s) : retryArrivals s = s := by
  have hx : (s.brn.arrivals.filter fun a => a.cmd.isNone && a.state == .xlate) = [] :=
    List.filter_eq_nil_iff.mpr fun a ha => by simp [h.1 a ha]
  have he : (s.sig.ents.filter fun e => e.state == .handed && !(s.sig.ops.any fun o => o.use == .signal e.src e.tag)) = [] :=
    List.filter_eq_nil_iff.mpr fun e he => by simp [h.2 e he]
  simp only [retryArrivals, hx, List.foldl_nil, retrySignals, he]

end Sys2Proof.Laws
end

