-- ==== Sys2Proof/Laws/Deep.lean ====
section
/-! SUPPORT. Almanac, power, windows and routes are left alone by everything that moves data: one lemma `<name>_deep` per operation. -/

namespace Sys2Proof.Laws

open Sys2Proof Sys2Proof.Machine Sys2Proof.Safety

@[simp] theorem deep_mk (part otp pins gbl alm pwr flt ree stw chn eng memp ter wins dap route tal tx brn sig groups lnk mil par obs cur mem free pending) :
    deep ⟨part, otp, pins, gbl, alm, pwr, flt, ree, stw, chn, eng, memp, ter, wins, dap, route, tal, tx, brn, sig, groups, lnk, mil, par, obs, cur,
      mem, free, pending⟩ = ⟨otp, Alm.less alm, pwr, wins, route⟩ := rfl

@[simp] theorem deep_fold (s : State) : Deep.mk s.otp (Alm.less s.alm) s.pwr s.wins s.route = deep s := rfl

@[simp] theorem deep_ite (c : Prop) [Decidable c] (a b : State) : deep (if c then a else b) = if c then deep a else deep b := by split <;> rfl

@[simp] theorem deep_foldl {β : Type} (f : State → β → State) (l : List β) (s : State) (h : ∀ s x, deep (f s x) = deep s) :
    deep (l.foldl f s) = deep s :=
  keeps_foldl deep f s h l

@[simp] theorem deep_elim {α : Type} (o : Option α) (s : State) (f : α → State) (h : ∀ x, deep (f x) = deep s) : deep (o.elim s f) = deep s := by
  cases o with
  | none => rfl
  | some x => exact h x

/-- Writing an entry is not seen in the rest of the table. -/
theorem Tab.erase_insert {α : Type} (t : List (Nat × α)) (k : Nat) (v : α) : Tab.erase (Tab.insert t k v) k = Tab.erase t k := by
  induction t with
  | nil => simp [Tab.insert, Tab.erase]
  | cons a t ih =>
    obtain ⟨j, w⟩ := a
    unfold Tab.erase at ih
    unfold Tab.insert
    split
    · rename_i h; subst h; simp [Tab.erase]
    · split
      · simp [Tab.erase]
      · simp [Tab.erase, List.filter_cons, ih]

/-- Changing an entry is not seen in the rest of the table. -/
theorem Tab.erase_upd {α : Type} [DecidableEq α] (d : α) (t : List (Nat × α)) (k : Nat) (f : α → α) :
    Tab.erase (Tab.upd d t k f) k = Tab.erase t k := by
  unfold Tab.upd Tab.put
  split
  · simp [Tab.erase]
  · exact Tab.erase_insert t k _

@[simp] theorem curfewTimer_deep (t : Time) (s : State) : deep (cmpAt 1 t s) = deep s := by
  simp only [deep, cmpAt, modCmp, Alm.less, Tab.erase_upd]

end Sys2Proof.Laws
end

