-- ==== Sys2Proof/Laws/DeepOps.lean ====
section
/-! SUPPORT. What leaves Almanac, power, windows and routes alone (Laws/Deep.lean): operations of channels, commands, tallies and reduce units. -/

namespace Sys2Proof.Laws

open Sys2Proof Sys2Proof.Machine Sys2Proof.Safety

/-! ## Ops -/

@[simp] theorem State.drawn_deep (s : State) : deep (State.drawn s) = deep s := by
  simp [State.drawn]

@[simp] theorem setLink_deep (p : Nat) (l : Link) (s : State) : deep (setLink p l s) = deep s := by
  simp [setLink]

@[simp] theorem modLink_deep (p : Nat) (f : Link → Link) (s : State) : deep (modLink p f s) = deep s := by
  simp [modLink]

@[simp] theorem modCroft_deep (c : Nat) (f : Croft → Croft) (s : State) : deep (modCroft c f s) = deep s := by
  simp [modCroft]

@[simp] theorem modParish_deep (q : Nat) (f : Parish → Parish) (s : State) : deep (modParish q f s) = deep s := by
  simp [modParish]

@[simp] theorem modStone_deep (n : Nat) (f : Stone → Stone) (s : State) : deep (modStone n f s) = deep s := by
  simp [modStone]

@[simp] theorem modSrcTally_deep (d : Nat) (f : SrcTally → SrcTally) (s : State) : deep (modSrcTally d f s) = deep s := by
  simp [modSrcTally]

@[simp] theorem modTgtTally_deep (d : Nat) (f : TgtTally → TgtTally) (s : State) : deep (modTgtTally d f s) = deep s := by
  simp [modTgtTally]

@[simp] theorem modSlot_deep (n : Nat) (f : PairSlot → PairSlot) (s : State) : deep (modSlot n f s) = deep s := by
  simp [modSlot]

@[simp] theorem modCmd_deep (id : Nat) (f : Cmd → Cmd) (s : State) : deep (modCmd id f s) = deep s := by
  simp [modCmd]

@[simp] theorem modArrival_deep (id : Nat) (f : Arrival → Arrival) (s : State) : deep (modArrival id f s) = deep s := by
  simp [modArrival]

@[simp] theorem modUnit_deep (id : Nat) (f : Xu → Xu) (s : State) : deep (modUnit id f s) = deep s := by
  simp [modUnit]

@[simp] theorem issueRead_deep (use : ReadFor) (parts : List (Nat × Nat)) (cls : BitVec 3) (agent : Option (BitVec 6)) (span : Option (BitVec 6 × Nat × Nat)) (s : State) : deep (issueRead use parts cls agent span s) = deep s := by
  simp [issueRead]

@[simp] theorem issueWrite_deep (use : WriteFor) (cells : List (Nat × Byte)) (cls : BitVec 3) (wake : Bool) (agent : Option (BitVec 6)) (span : Option (BitVec 6 × Nat × Nat)) (s : State) : deep (issueWrite use cells cls wake agent span s) = deep s := by
  simp [issueWrite]

@[simp] theorem raiseMsg_deep (e : FaultMsg) (s : State) : deep (raiseMsg e s) = deep s := by
  simp [raiseMsg]

@[simp] theorem raise_deep (src k addr : Nat) (cmds : List Nat) (q : Option (BitVec 6)) (s : State) : deep (raise src k addr cmds q s) = deep s := by
  simp [raise]

@[simp] theorem raiseMemport_deep (port pa : Nat) (cmds : List Nat) (q : Option (BitVec 6)) (s : State) : deep (raiseMemport port pa cmds q s) = deep s := by
  simp [raiseMemport]

@[simp] theorem ringSet_deep (r : RingId) (x : Ring) (s : State) : deep (ringSet r x s) = deep s := by
  unfold ringSet; (repeat' split) <;> simp

@[simp] theorem ringPut_deep (r : RingId) (ws : List Word) (s : State) : deep (ringPut r ws s) = deep s := by
  simp [ringPut]

@[simp] theorem ringAck_deep (r : RingId) (ix : BitVec 32) (s : State) : deep (ringAck r ix s) = deep s := by
  simp [ringAck]

@[simp] theorem modNotify_deep (o : Owner) (f : Notify → Notify) (s : State) : deep (modNotify o f s) = deep s := by
  unfold modNotify; (repeat' split) <;> simp

@[simp] theorem notifyOverflow_deep (o : Owner) (s : State) : deep (notifyOverflow o s) = deep s := by
  unfold notifyOverflow; (repeat' split) <;> simp

@[simp] theorem notify_deep (o : Owner) (e : Word) (s : State) : deep (notify o e s) = deep s := by
  simp [notify]

@[simp] theorem notifyPending_deep (o : Owner) (s : State) : deep (notifyPending o s) = deep s := by
  simp [notifyPending]

@[simp] theorem event_deep (i : Nat) (s : State) : deep (event i s) = deep s := by
  simp [event]

@[simp] theorem linkEvent_deep (i p : Nat) (s : State) : deep (linkEvent i p s) = deep s := by
  simp [linkEvent]

@[simp] theorem logPut_deep (e : LogEntry) (s : State) : deep (logPut e s) = deep s := by
  simp [logPut]

@[simp] theorem logFlush_deep (n : Nat) (s : State) : deep (logFlush n s) = deep s := by
  induction n generalizing  s with
  | zero => rfl
  | succ n ih => unfold logFlush; (repeat' split); all_goals simp [ih]

@[simp] theorem logEntry_deep (code : Nat) (a0 a1 : Word) (s : State) : deep (logEntry code a0 a1 s) = deep s := by
  simp [logEntry]

@[simp] theorem note_deep (kind cause gen : Nat) (q : BitVec 6) (peer : BitVec 9) (tag : BitVec 16) (detail detail2 : Nat) (s : State) : deep (note kind cause gen q peer tag detail detail2 s) = deep s := by
  simp [note]

/-! ## Terrier -/

@[simp] theorem touchCache_deep (q : BitVec 6) (va : Nat) (s : State) : deep (touchCache q va s) = deep s := by
  unfold touchCache; (repeat' split) <;> simp

@[simp] theorem install_deep (e : CacheEnt) (s : State) : deep (install e s) = deep s := by
  simp [install]

@[simp] theorem beginWalk_deep (w : WalkReq) (s : State) : deep (beginWalk w s) = deep s := by
  unfold beginWalk; (repeat' split) <;> simp

@[simp] theorem offerWalk_deep (s : State) (w : WalkReq) : deep (offerWalk s w) = deep s := by
  unfold offerWalk; (repeat' split) <;> simp

@[simp] theorem pumpWalks_deep (s : State) : deep (pumpWalks s) = deep s := by
  unfold pumpWalks; (repeat' split) <;> simp

@[simp] theorem startWalk_deep (q : BitVec 6) (va : Nat) (ingress : Bool) (s : State) : deep (startWalk q va ingress s) = deep s := by
  simp [startWalk]

@[simp] theorem terFlush_deep (n : Nat) (s : State) : deep (terFlush n s) = deep s := by
  induction n generalizing  s with
  | zero => rfl
  | succ n ih => unfold terFlush; (repeat' split); all_goals simp [ih]

@[simp] theorem terWrite_deep (r : TerRec) (s : State) : deep (terWrite r s) = deep s := by
  simp [terWrite]

@[simp] theorem terSeq_deep (s : State) : deep (terSeq s) = deep s := by
  simp [terSeq]

@[simp] theorem countTable_deep (f : TerFault) (s : State) : deep (countTable f s) = deep s := by
  unfold countTable; (repeat' split) <;> simp

@[simp] theorem takeRecord_deep (w : Requester) (s : State) (f : TerFault) : deep (takeRecord w s f) = deep s := by
  unfold takeRecord; (repeat' split) <;> simp

@[simp] theorem openRecords_deep (fs : List TerFault) (w : Requester) (s : State) : deep (openRecords fs w s) = deep s := by
  unfold openRecords; (repeat' split) <;> simp

@[simp] theorem seatOne_deep (s : State) (x : Requester × TerFault) : deep (seatOne s x) = deep s := by
  unfold seatOne; (repeat' split) <;> simp

@[simp] theorem seatWaiting_deep (s : State) : deep (seatWaiting s) = deep s := by
  unfold seatWaiting; (repeat' split) <;> simp

@[simp] theorem leaveRecords_deep (w : Requester) (s : State) : deep (leaveRecords w s) = deep s := by
  simp [leaveRecords]

/-! ## Egress -/

@[simp] theorem issueGrant_deep (d : Nat) (s : State) : deep (issueGrant d s) = deep s := by
  simp [issueGrant]

@[simp] theorem issueAll_deep (s : State) : deep (issueAll s) = deep s := by
  simp [issueAll]

@[simp] theorem grantSent_deep (d : Nat) (s : State) : deep (grantSent d s) = deep s := by
  simp [grantSent]

@[simp] theorem queueTxn_deep (p : Nat) (t : Txn) (slots : List (BitVec 256)) (unit : Option Nat) (s : State) : deep (queueTxn p t slots unit s) = deep s := by
  simp [queueTxn]

@[simp] theorem takeRelease_deep (d : BitVec 9) (s : State) : deep (takeRelease d s).2 = deep s := by
  unfold takeRelease; (repeat' split); all_goals simp

@[simp] theorem withdrawGrants_deep (d : BitVec 9) (s : State) : deep (withdrawGrants d s) = deep s := by
  simp [withdrawGrants]

@[simp] theorem stampSlots_deep (xs : List (BitVec 256 × Bool × Option (BitVec 9))) (s : State) : deep (stampSlots xs s).2 = deep s := by
  induction xs generalizing s with
  | nil => rfl
  | cons x xs ih =>
    obtain ⟨w, b, d⟩ := x
    cases d
    · exact ih s
    · refine (ih _).trans ?_; rw [withdrawGrants_deep, grantSent_deep]; exact takeRelease_deep _ _

@[simp] theorem advanceCtr_deep (n : Nat) (ans : Bool) (s : State) : deep (advanceCtr n ans s) = deep s := by
  simp [advanceCtr]

@[simp] theorem authAnswer_deep (q gen answered) (t : Txn) (s : State) : deep (authAnswer q gen answered t s).2 = deep s := by
  unfold authAnswer; (repeat' split); all_goals simp

@[simp] theorem sendUncharged_deep (via : Via) (t : Txn) (s : State) : deep (sendUncharged via t s) = deep s := by
  unfold sendUncharged; simp; (repeat' split) <;> simp

@[simp] theorem answer_deep (via : Via) (q : BitVec 6) (t : Txn) (k : Nat) (st : BitVec 8) (s : State) : deep (answer via q t k st s) = deep s := by
  unfold answer; (repeat' split) <;> simp

@[simp] theorem addUnit_deep (use : UnitFor) (dests : List (BitVec 9)) (q : Option (BitVec 6)) (pinned : Option Nat) (t : Txn) (s : State) : deep (addUnit use dests q pinned t s) = deep s := by
  simp [addUnit]

@[simp] theorem sealFreed_deep (old s : State) : deep (sealFreed old s) = deep s := by
  unfold sealFreed; (repeat' split) <;> simp

@[simp] theorem dropUnits_deep (hit : Xu → Bool) (s : State) : deep (dropUnits hit s) = deep s := by
  unfold dropUnits; (repeat' split) <;> simp

@[simp] theorem ghostEnds_deep (g : Xu) (d : BitVec 9) (s : State) : deep (ghostEnds g d s) = deep s := by
  unfold ghostEnds; (repeat' split) <;> simp

@[simp] theorem changeSlots_deep (d : Nat) (f : SigSlots → SigSlots) (s : State) : deep (changeSlots d f s) = deep s := by
  simp [changeSlots]

@[simp] theorem takeSigSlot_deep (u : Xu) (d : Nat) (s : State) : deep (takeSigSlot u d s) = deep s := by
  unfold takeSigSlot; (repeat' split) <;> simp

@[simp] theorem launchSelf_deep (u : Xu) (s : State) : deep (launchSelf u s) = deep s := by
  simp [launchSelf]

/-! ## Channels -/

@[simp] theorem putChan_deep (ch : BitVec 21) (c : Chan) (s : State) : deep (putChan ch c s) = deep s := by
  simp [putChan]

@[simp] theorem dropChan_deep (ch : BitVec 21) (s : State) : deep (dropChan ch s) = deep s := by
  simp [dropChan]

@[simp] theorem modChan_deep (ch : BitVec 21) (f : Chan → Chan) (s : State) : deep (modChan ch f s) = deep s := by
  unfold modChan; (repeat' split) <;> simp

@[simp] theorem fetch_deep (ch : BitVec 21) (s : State) : deep (fetch ch s) = deep s := by
  unfold fetch; (repeat' split) <;> simp

@[simp] theorem writeBack_deep (use : WriteFor) (ch : BitVec 21) (c : Chan) (s : State) : deep (writeBack use ch c s) = deep s := by
  simp [writeBack]

@[simp] theorem orphanRing_deep (ch : BitVec 21) (s : State) : deep (orphanRing ch s) = deep s := by
  unfold orphanRing; (repeat' split) <;> simp

@[simp] theorem orphanWait_deep (ch : BitVec 21) (s : State) : deep (orphanWait ch s) = deep s := by
  unfold orphanWait; (repeat' split) <;> simp

@[simp] theorem evict_deep (n : Nat) (c : Chan) (s : State) : deep (evict n c s) = deep s := by
  unfold evict; (repeat' split) <;> simp

@[simp] theorem queueOverflow_deep (ch : BitVec 21) (s : State) : deep (queueOverflow ch s) = deep s := by
  unfold queueOverflow; (repeat' split) <;> simp

@[simp] theorem rotateOut_deep (ch : BitVec 21) (c : Chan) (s : State) : deep (rotateOut ch c s) = deep s := by
  unfold rotateOut; (repeat' split) <;> simp

theorem cacheRoom_deep (s t : State) (h : cacheRoom s = some t) : deep t = deep s := by
  unfold cacheRoom at h
  split at h
  · cases h; rfl
  · split at h
    · cases h; simp
    · split at h
      · cases h; simp
      · cases h

@[simp] theorem enterCache_deep (ch : BitVec 21) (s : State) : deep (enterCache ch s) = deep s := by
  unfold enterCache
  split
  · rfl
  · split
    · rfl
    · split
      · simp
      · split
        · rename_i h; simp [cacheRoom_deep _ _ h]
        · simp

@[simp] theorem readDesc_deep (ch : BitVec 21) (s : State) : deep (readDesc ch s) = deep s := by
  simp [readDesc]

@[simp] theorem loadDesc_deep (ch : BitVec 21) (s : State) : deep (loadDesc ch s) = deep s := by
  unfold loadDesc; (repeat' split) <;> simp

@[simp] theorem takeTurn_deep (ch : BitVec 21) (q : BitVec 6) (lvl : Nat) (s : State) : deep (takeTurn ch q lvl s) = deep s := by
  unfold takeTurn; (repeat' split) <;> simp

@[simp] theorem chargeDeficit_deep (q : BitVec 6) (lvl : Nat) (pkt : List Word) (s : State) : deep (chargeDeficit q lvl pkt s) = deep s := by
  simp [chargeDeficit]

@[simp] theorem tidyDeficits_deep (s : State) : deep (tidyDeficits s) = deep s := by
  unfold tidyDeficits; (repeat' split) <;> simp

/-! ## Watch -/

@[simp] theorem count_deep (i n : Nat) (s : State) : deep (count i n s) = deep s := by
  simp [count]

@[simp] theorem countPar_deep (q : BitVec 6) (i n : Nat) (s : State) : deep (countPar q i n s) = deep s := by
  simp [countPar]

@[simp] theorem holdDiag_deep (s : State) : deep (holdDiag s) = deep s := by
  simp [holdDiag]

@[simp] theorem filterCounts_deep (base bytes ns : Nat) (add : Nat → Nat → State → State) (top : Nat → Nat → State → State) (s : State) (h_add : ∀ x0 x1 s, deep (add x0 x1 s) = deep s) (h_top : ∀ x0 x1 s, deep (top x0 x1 s) = deep s) : deep (filterCounts base bytes ns add top s) = deep s := by
  unfold filterCounts; simp [*]

@[simp] theorem countMax_deep (i n : Nat) (s : State) : deep (countMax i n s) = deep s := by
  simp [countMax]

@[simp] theorem countParMax_deep (q : BitVec 6) (i n : Nat) (s : State) : deep (countParMax q i n s) = deep s := by
  simp [countParMax]

@[simp] theorem countCommand_deep (c : Cmd) (s : State) : deep (countCommand c s) = deep s := by
  unfold countCommand; (repeat' split) <;> simp

@[simp] theorem bytesOut_deep (q : BitVec 6) (n : Nat) (s : State) : deep (bytesOut q n s) = deep s := by
  simp [bytesOut]

@[simp] theorem bytesIn_deep (q : BitVec 6) (n : Nat) (s : State) : deep (bytesIn q n s) = deep s := by
  simp [bytesIn]

@[simp] theorem tracePut_deep (q : BitVec 6) (ws : List Word) (s : State) : deep (tracePut q ws s) = deep s := by
  simp [tracePut]

@[simp] theorem traceMark_deep (q : BitVec 6) (ch : BitVec 21) (ix : BitVec 32) (pkt : List Word) (s : State) : deep (traceMark q ch ix pkt s) = deep s := by
  simp [traceMark]

@[simp] theorem curfewFlits_deep (stop : Time) (origin : BitVec 9) (cid : BitVec 32) (s : State) : deep (curfewFlits stop origin cid s) = deep s := by
  simp [curfewFlits]

@[simp] theorem armCurfew_deep (stop : Time) (fabric : Bool) (kind : Nat) (flit : Option (BitVec 9 × BitVec 32)) (s : State) : deep (armCurfew stop fabric kind flit s) = deep s := by
  simp [armCurfew]

@[simp] theorem watchHit_deep (n : Nat) (w : Watch) (q : BitVec 6) (first src cls : Nat) (s : State) : deep (watchHit n w q first src cls s) = deep s := by
  simp [watchHit]

@[simp] theorem watchTest_deep (hit : Watch → Bool) (cls src : Nat) (runs : List (Nat × Nat)) (s : State) : deep (watchTest hit cls src runs s) = deep s := by
  unfold watchTest; (repeat' split) <;> (first | (simp; done) | (refine (deep_foldl _ _ _ ?_).trans (by simp); intros; (try dsimp only); (repeat' split); all_goals simp; done))

@[simp] theorem watchLocal_deep (q : BitVec 6) (cls : Nat) (runs : List (Nat × Nat)) (s : State) : deep (watchLocal q cls runs s) = deep s := by
  simp [watchLocal]

@[simp] theorem watchWindow_deep (h : BitVec 20) (cls src : Nat) (runs : List (Nat × Nat)) (s : State) : deep (watchWindow h cls src runs s) = deep s := by
  simp [watchWindow]

/-! ## Cmds -/

@[simp] theorem endTags_deep (c : Cmd) (s : State) : deep (endTags c s) = deep s := by
  simp [endTags]

@[simp] theorem endSlots_deep (id : Nat) (s : State) : deep (endSlots id s) = deep s := by
  simp [endSlots]

@[simp] theorem freeStones_deep (mine : MillWork → Bool) (s : State) : deep (freeStones mine s) = deep s := by
  simp [freeStones]

@[simp] theorem dropMatrices_deep (hit : Matrix → Bool) (s : State) : deep (dropMatrices hit s) = deep s := by
  simp [dropMatrices]

@[simp] theorem endMill_deep (id : Nat) (s : State) : deep (endMill id s) = deep s := by
  simp [endMill]

@[simp] theorem leaveMill_deep (id : Nat) (s : State) : deep (leaveMill id s) = deep s := by
  simp [leaveMill]

@[simp] theorem endSync_deep (ch : BitVec 21) (s : State) : deep (endSync ch s) = deep s := by
  unfold endSync; (repeat' split) <;> simp

@[simp] theorem countStopped_deep (st : BitVec 8) (q : Option (BitVec 6)) (s : State) : deep (countStopped st q s) = deep s := by
  unfold countStopped; (repeat' split) <;> simp

@[simp] theorem finish_deep (id : Nat) (st : BitVec 8) (dev : BitVec 9) (result : Word) (s : State) : deep (finish id st dev result s) = deep s := by
  unfold finish; (repeat' split) <;> simp

@[simp] theorem unqueue_deep (id : Nat) (s : State) : deep (unqueue id s) = deep s := by
  unfold unqueue; (repeat' split) <;> simp

@[simp] theorem endStopped_deep (id : Nat) (st : BitVec 8) (s : State) : deep (endStopped id st s) = deep s := by
  unfold endStopped; (repeat (first | (simp; done) | (refine (modCmd_deep _ _ _).trans ?_) | (refine (modCmd_deep _ _ _).trans ?_) | (refine (congrArg toStill (modCmd_deep _ _ _)).trans ?_) | (intro _) | simp | split))

@[simp] theorem takeQuerySlot_deep (id d : Nat) (s : State) : deep (takeQuerySlot id d s) = deep s := by
  unfold takeQuerySlot; (repeat' split) <;> simp

@[simp] theorem authQuery_deep (id : Nat) (d : BitVec 9) (q : Txn) (s : State) : deep (authQuery id d q s).2 = deep s := by
  unfold authQuery
  simp only []
  (repeat' split) <;> simp

@[simp] theorem setFate_deep (id : Nat) (d : BitVec 9) (f : SigFate) (s : State) : deep (setFate id d f s) = deep s := by
  simp [setFate]

@[simp] theorem postQuery_deep (id : Nat) (t : Target) (q : Txn) (s : State) : deep (postQuery id t q s) = deep s := by
  simp [postQuery]

@[simp] theorem sendQuery_deep (id : Nat) (t : Target) (s : State) : deep (sendQuery id t s) = deep s := by
  unfold sendQuery
  simp only []
  (repeat' split) <;> simp

@[simp] theorem checkDone_deep (id : Nat) (s : State) : deep (checkDone id s) = deep s := by
  unfold checkDone; simp; (repeat' split) <;> simp

@[simp] theorem retryQueries_deep (s : State) : deep (retryQueries s) = deep s := by
  unfold retryQueries; (repeat' split) <;> simp

@[simp] theorem failItem_deep (id key : Nat) (st : BitVec 8) (dev : BitVec 9) (s : State) : deep (failItem id key st dev s) = deep s := by
  simp [failItem]

@[simp] theorem failSelf_deep (id key : Nat) (st : BitVec 8) (s : State) : deep (failSelf id key st s) = deep s := by
  simp [failSelf]

@[simp] theorem loseItem_deep (id : Nat) (st : BitVec 8) (dev : BitVec 9) (plane : Nat) (s : State) : deep (loseItem id st dev plane s) = deep s := by
  simp [loseItem]

@[simp] theorem failWhole_deep (id key : Nat) (st : BitVec 8) (s : State) : deep (failWhole id key st s) = deep s := by
  unfold failWhole; (repeat (first | (simp; done) | (refine (modCmd_deep _ _ _).trans ?_) | (refine (modCmd_deep _ _ _).trans ?_) | (refine (congrArg toStill (modCmd_deep _ _ _)).trans ?_) | (intro _) | simp | split))

@[simp] theorem unitEnds_deep (uid : Nat) (d : BitVec 9) (s : State) : deep (unitEnds uid d s) = deep s := by
  unfold unitEnds; (repeat' split) <;> simp

@[simp] theorem unitsLeave_deep (id : Nat) (d : BitVec 9) (s : State) : deep (unitsLeave id d s) = deep s := by
  simp [unitsLeave]

@[simp] theorem signalResolved_deep (id : Nat) (s : State) : deep (signalResolved id s) = deep s := by
  simp [signalResolved]

@[simp] theorem presentTxn_deep (id : Nat) (c : Cmd) (d : BitVec 9) (t : Txn) (s : State) : deep (presentTxn id c d t s) = deep s := by
  simp [presentTxn]

@[simp] theorem emitStripe_deep (id : Nat) (raw : List Byte) (coded : Option (List Byte)) (weights : List Byte) (s : State) : deep (emitStripe id raw coded weights s) = deep s := by
  unfold emitStripe; (repeat' split) <;> simp

@[simp] theorem emitGet_deep (id : Nat) (c : Cmd) (n : Nat) (s : State) : deep (emitGet id c n s) = deep s := by
  simp [emitGet]

@[simp] theorem emitAmo_deep (id : Nat) (c : Cmd) (s : State) : deep (emitAmo id c s) = deep s := by
  simp [emitAmo]

@[simp] theorem emitSignal_deep (id : Nat) (c : Cmd) (x : Target) (s : State) : deep (emitSignal id c x s) = deep s := by
  simp [emitSignal]

@[simp] theorem emitSignals_deep (id : Nat) (s : State) : deep (emitSignals id s) = deep s := by
  unfold emitSignals; (repeat' split) <;> simp

@[simp] theorem millWait_deep (w : MillWork) (gang shape : Nat) (s : State) : deep (millWait w gang shape s) = deep s := by
  simp [millWait]

@[simp] theorem readFor_deep (use : ReadFor) (c : Cmd) (pieces : List (Nat × Nat)) (s : State) : deep (readFor use c pieces s) = deep s := by
  simp [readFor]

@[simp] theorem writeFor_deep (use : WriteFor) (c : Cmd) (pieces : List (Nat × Nat)) (cells : List (Nat × Byte)) (cls : BitVec 3) (s : State) : deep (writeFor use c pieces cells cls s) = deep s := by
  simp [writeFor]

@[simp] theorem freedCells_deep (src dst : List (Nat × Nat)) (cells) (s : State) : deep (freedCells src dst cells s).2 = deep s := by
  unfold freedCells; simp

@[simp] theorem copyOut_deep (id : Nat) (bs : List Byte) (s : State) : deep (copyOut id bs s) = deep s := by
  unfold copyOut; (repeat' split) <;> simp

@[simp] theorem rowsOut_deep (id : Nat) (bs : List Byte) (s : State) : deep (rowsOut id bs s) = deep s := by
  unfold rowsOut
  split
  · rfl
  · dsimp only
    split
    · exact modCmd_deep _ _ _
    · exact (modCmd_deep _ _ _).trans (by simp)

@[simp] theorem copyStripe_deep (id : Nat) (bs : List Byte) (s : State) : deep (copyStripe id bs s) = deep s := by
  unfold copyStripe; simp; (repeat' split) <;> simp

@[simp] theorem noMoreXlate_deep (id : Nat) (s : State) : deep (noMoreXlate id s) = deep s := by
  unfold noMoreXlate; (repeat (first | (simp; done) | (refine (modCmd_deep _ _ _).trans ?_) | (refine (modCmd_deep _ _ _).trans ?_) | (refine (congrArg toStill (modCmd_deep _ _ _)).trans ?_) | (intro _) | simp | split))

@[simp] theorem feed_deep (id : Nat) (s : State) : deep (feed id s) = deep s := by
  unfold feed; (repeat (first | (simp; done) | (refine (modCmd_deep _ _ _).trans ?_) | (refine (modCmd_deep _ _ _).trans ?_) | (intro _) | simp | split))

@[simp] theorem activate_deep (id : Nat) (s : State) : deep (activate id s) = deep s := by
  unfold activate; (repeat (first | (simp; done) | (refine (modCmd_deep _ _ _).trans ?_) | (refine (modCmd_deep _ _ _).trans ?_) | (refine ((modCmd_deep _ _ _)).trans ?_) | (intro _) | simp | split))

@[simp] theorem hasTags_deep (id : Nat) (s : State) : deep (hasTags id s) = deep s := by
  unfold hasTags; (repeat' split) <;> simp

theorem grantOne_deep (s t : State) (h : grantOne s = some t) : deep t = deep s := by
  unfold grantOne at h
  (repeat' split at h) <;> first | (cases h; done) | (cases h; (repeat (first | (simp; done) | (refine (modCmd_deep _ _ _).trans ?_) | simp)))

@[simp] theorem giveTags_deep (n : Nat) (s : State) : deep (giveTags n s) = deep s := by
  induction n generalizing s with
  | zero => rfl
  | succ n ih =>
    unfold giveTags
    split
    · rfl
    · rename_i h; rw [ih, grantOne_deep _ _ h]

@[simp] theorem seekTags_deep (id : Nat) (s : State) : deep (seekTags id s) = deep s := by
  simp [seekTags]

@[simp] theorem checkIndexed_deep (id : Nat) (s : State) : deep (checkIndexed id s) = deep s := by
  unfold checkIndexed; (repeat' split) <;> (first | (simp; done) | (refine (deep_foldl _ _ _ ?_).trans (by simp); intros; (try dsimp only); (repeat' split); all_goals simp; done))

@[simp] theorem takeTargets_deep (id : Nat) (s : State) : deep (takeTargets id s) = deep s := by
  unfold takeTargets; (repeat' split) <;> simp

@[simp] theorem abortedSeq_deep (s : State) : deep (abortedSeq s).2 = deep s := by
  unfold abortedSeq; simp

@[simp] theorem openFaults_deep (c : Cmd) (faults : List (Nat × Nat)) (s : State) : deep (openFaults c faults s) = deep s := by
  unfold openFaults; (repeat' split) <;> simp

@[simp] theorem abortGet_deep (c : Cmd) (faults : List (Nat × Nat)) (s : State) : deep (abortGet c faults s) = deep s := by
  unfold abortGet; (repeat' split) <;> simp

@[simp] theorem readIndex_deep (id : Nat) (s : State) : deep (readIndex id s) = deep s := by
  unfold readIndex; (repeat (first | (simp; done) | (refine (modCmd_deep _ _ _).trans ?_) | (refine (modCmd_deep _ _ _).trans ?_) | (refine (congrArg toStill (modCmd_deep _ _ _)).trans ?_) | (intro _) | simp | split))

@[simp] theorem translated_deep (id : Nat) (s : State) : deep (translated id s) = deep s := by
  unfold translated; (repeat (first | (simp; done) | (refine (modCmd_deep _ _ _).trans ?_) | (refine (modCmd_deep _ _ _).trans ?_) | (refine ((modCmd_deep _ _ _)).trans ?_) | (intro _) | simp | split))

@[simp] theorem xlate_deep (id : Nat) (s : State) : deep (xlate id s) = deep s := by
  unfold xlate
  split
  · rfl
  · split
    · rfl
    · dsimp only
      generalize hs : modCmd id _ _ = s1
      have h1 : deep s1 = deep s := by rw [← hs, modCmd_deep _ _ _]; simp
      rw [← h1]
      (repeat' split)
      all_goals first
        | (simp; done)
        | (refine Eq.trans ?_ (modCmd_deep id (fun c => { c with bads := [] }) s1 (by intro c; rfl)); simp)

@[simp] theorem retranslate_deep (id : Nat) (s : State) : deep (retranslate id s) = deep s := by
  unfold retranslate; (repeat' split) <;> simp

@[simp] theorem invalidated_deep (id : Nat) (s : State) : deep (invalidated id s) = deep s := by
  unfold invalidated; (repeat' split) <;> first | rfl | rw [modCmd_deep _ _ _] | rw [retranslate_deep]

@[simp] theorem resumeXlate_deep (id : Nat) (s : State) : deep (resumeXlate id s) = deep s := by
  unfold resumeXlate; (repeat (first | (simp; done) | (refine (modCmd_deep _ _ _).trans ?_) | (refine (modCmd_deep _ _ _).trans ?_) | (refine ((modCmd_deep _ _ _)).trans ?_) | (intro _) | simp | split))

@[simp] theorem sourceBack_deep (id : Nat) (bs : List Byte) (s : State) : deep (sourceBack id bs s) = deep s := by
  unfold sourceBack; (repeat (first | (simp; done) | (refine (modCmd_deep _ _ _).trans ?_) | (refine (modCmd_deep _ _ _).trans ?_) | (refine ((modCmd_deep _ _ _)).trans ?_) | (intro _) | simp | split))

@[simp] theorem indexRead_deep (id : Nat) (bs : List Byte) (s : State) : deep (indexRead id bs s) = deep s := by
  unfold indexRead
  split
  · rfl
  · dsimp only
    (repeat' split) <;> simp only [retranslate_deep, takeTargets_deep, modCmd_deep]

@[simp] theorem indexBack_deep (id : Nat) (bs : List Byte) (s : State) : deep (indexBack id bs s) = deep s := by
  unfold indexBack; simp; (repeat' split) <;> simp

@[simp] theorem begin__deep (ch : BitVec 21) (pkt : List Word) (engine : Option Nat) (rejected : Bool) (s : State) : deep (begin_ ch pkt engine rejected s) = deep s := by
  unfold begin_; (repeat' split) <;> simp

@[simp] theorem reject_deep (ch : BitVec 21) (pkt : List Word) (st : BitVec 8) (s : State) : deep (reject ch pkt st s) = deep s := by
  simp [reject]

@[simp] theorem takeProfile_deep (id : Nat) (s : State) : deep (takeProfile id s) = deep s := by
  simp [takeProfile]

@[simp] theorem admission_deep (id : Nat) (s : State) : deep (admission id s) = deep s := by
  unfold admission; (repeat' split) <;> simp

@[simp] theorem asOp_deep (op : Nat) (pkt : List Word) (f : State → State) (s : State) (h_f : ∀ s, deep (f s) = deep s) : deep (asOp op pkt f s) = deep s := by
  unfold asOp; simp [*]

@[simp] theorem startEngine_deep (ch : BitVec 21) (pkt : List Word) (s : State) : deep (startEngine ch pkt s) = deep s := by
  unfold startEngine; (repeat' split) <;> simp

@[simp] theorem startWhere_deep (may : Bool) (ch : BitVec 21) (pkt : List Word) (run : Nat → State → State) (s : State) (h_run : ∀ x0 s, deep (run x0 s) = deep s) : deep (startWhere may ch pkt run s) = deep s := by
  unfold startWhere; (repeat' split) <;> simp [*]

@[simp] theorem startOther_deep (ch : BitVec 21) (pkt : List Word) (run : Nat → State → State) (s : State) (h_run : ∀ x0 s, deep (run x0 s) = deep s) : deep (startOther ch pkt run s) = deep s := by
  unfold startOther; (repeat' split) <;> simp [*]

@[simp] theorem done_deep (id : Nat) (st : BitVec 8) (result : Word) (s : State) : deep (done id st result s) = deep s := by
  simp [done]

@[simp] theorem postRecord_deep (ch : BitVec 21) (s : State) : deep (postRecord ch s) = deep s := by
  unfold postRecord; (repeat' split) <;> simp

@[simp] theorem dropWait_deep (ch : BitVec 21) (s : State) : deep (dropWait ch s) = deep s := by
  simp [dropWait]

@[simp] theorem parkFor_deep (ch : BitVec 21) (why : BitVec 8) (s : State) : deep (parkFor ch why s) = deep s := by
  simp [parkFor]

@[simp] theorem holdAccess_deep (who : Who) (addr : Nat) (size : Nat) (val : Option Word) (s : State) : deep (holdAccess who addr size val s) = deep s := by
  unfold holdAccess; (repeat' split) <;> simp

/-! ## FrontEnd -/

@[simp] theorem bellConfig_deep (q : Option (BitVec 6)) (ch : BitVec 21) (s : State) : deep (bellConfig q ch s) = deep s := by
  simp [bellConfig]

@[simp] theorem bellError_deep (ch : BitVec 21) (o : Owner) (action : BitVec 2) (val : BitVec 32) (s : State) : deep (bellError ch o action val s) = deep s := by
  simp [bellError]

@[simp] theorem rouse_deep (ch : BitVec 21) (s : State) : deep (rouse ch s) = deep s := by
  simp [rouse]

@[simp] theorem bellTail_deep (ch : BitVec 21) (c : Chan) (val : BitVec 32) (s : State) : deep (bellTail ch c val s) = deep s := by
  simp [bellTail]

@[simp] theorem bellCpl_deep (ch : BitVec 21) (c : Chan) (val : BitVec 32) (s : State) : deep (bellCpl ch c val s) = deep s := by
  simp [bellCpl]

@[simp] theorem bellPark_deep (ch : BitVec 21) (c : Chan) (s : State) : deep (bellPark ch c s) = deep s := by
  unfold bellPark; (repeat' split) <;> simp

@[simp] theorem bellResume_deep (ch : BitVec 21) (c : Chan) (s : State) : deep (bellResume ch c s) = deep s := by
  unfold bellResume; (repeat' split) <;> simp

@[simp] theorem bellHeld_deep (b : Bell) (c : Chan) (s : State) : deep (bellHeld b c s) = deep s := by
  simp [bellHeld]

@[simp] theorem badDescriptor_deep (ch : BitVec 21) (o : Owner) (head : BitVec 32) (s : State) : deep (badDescriptor ch o head s) = deep s := by
  simp [badDescriptor]

@[simp] theorem resumeWith_deep (ch : BitVec 21) (ws : List Word) (s : State) : deep (resumeWith ch ws s) = deep s := by
  simp [resumeWith]

@[simp] theorem bellStored_deep (b : Bell) (ws : List Word) (s : State) : deep (bellStored b ws s) = deep s := by
  unfold bellStored; split <;> simp

@[simp] theorem ring_deep (b : Bell) (s : State) : deep (ring b s) = deep s := by
  unfold ring; (repeat' split) <;> simp

@[simp] theorem doorbell_deep (who : Who) (ch : BitVec 21) (action : BitVec 2) (val : BitVec 32) (s : State) : deep (doorbell who ch action val s) = deep s := by
  simp [doorbell]

@[simp] theorem ringAll_deep (n : Nat) (ch : BitVec 21) (ws : List Word) (s : State) : deep (ringAll n ch ws s) = deep s := by
  induction n generalizing ws s with
  | zero => rfl
  | succ n ih =>
    unfold ringAll
    split
    · rfl
    · dsimp only; split <;> rw [ih] <;> simp

@[simp] theorem reread_deep (ch : BitVec 21) (ws : List Word) (s : State) : deep (reread ch ws s) = deep s := by
  unfold reread; (repeat' split) <;> simp

@[simp] theorem descBack_deep (ch : BitVec 21) (bs : List Byte) (s : State) : deep (descBack ch bs s) = deep s := by
  simp [descBack]

@[simp] theorem descFailed_deep (ch : BitVec 21) (s : State) : deep (descFailed ch s) = deep s := by
  simp [descFailed]

@[simp] theorem parkNow_deep (ch : BitVec 21) (s : State) : deep (parkNow ch s) = deep s := by
  unfold parkNow; (repeat' split) <;> simp

@[simp] theorem clearQueued_deep (ch : BitVec 21) (s : State) : deep (clearQueued ch s) = deep s := by
  unfold clearQueued; (repeat' split) <;> simp

@[simp] theorem popOverflow_deep (s : State) : deep (popOverflow s) = deep s := by
  unfold popOverflow; (repeat' split) <;> simp

@[simp] theorem dequeueOverflow_deep (s : State) : deep (dequeueOverflow s) = deep s := by
  unfold dequeueOverflow
  (repeat' split) <;> first | (simp; done) | (rename_i h; simp [cacheRoom_deep _ _ h])

@[simp] theorem rotate_deep (ch : BitVec 21) (s : State) : deep (rotate ch s) = deep s := by
  unfold rotate; (repeat' split) <;> simp

@[simp] theorem runNop_deep (id : Nat) (s : State) : deep (runNop id s) = deep s := by
  simp [runNop]

@[simp] theorem runSync_deep (ch : BitVec 21) (id : Nat) (s : State) : deep (runSync ch id s) = deep s := by
  simp [runSync]

@[simp] theorem startSync_deep (ch : BitVec 21) (pkt : List Word) (s : State) : deep (startSync ch pkt s) = deep s := by
  unfold startSync; (repeat' split) <;> simp

@[simp] theorem runMark_deep (ch : BitVec 21) (pkt : List Word) (id : Nat) (s : State) : deep (runMark ch pkt id s) = deep s := by
  unfold runMark; (repeat' split) <;> simp

@[simp] theorem modWaiter_deep (ch : BitVec 21) (f : Waiter → Waiter) (s : State) : deep (modWaiter ch f s) = deep s := by
  simp [modWaiter]

@[simp] theorem nameWait_deep (ch : BitVec 21) (id : Nat) (s : State) : deep (nameWait ch id s) = deep s := by
  unfold nameWait; (repeat' split) <;> simp

@[simp] theorem waitStarts_deep (ch : BitVec 21) (s : State) : deep ( (waitStarts ch s)) = deep ( s) := by
  unfold waitStarts
  split
  · rfl
  · split
    · rfl
    · split
      · simp only [tidyDeficits_deep, dropWait_deep]
        refine startWhere_deep _ _ _ _ _ (fun id s => ?_)
        rw [finish_deep, nameWait_deep]
        exact (modCmd_deep _ _ _)
      · rfl

@[simp] theorem waitEnds_deep (ch : BitVec 21) (st : BitVec 8) (result : Word) (seq : BitVec 32) (s : State) : deep ( (waitEnds ch st result seq s)) = deep ( s) := by
  unfold waitEnds
  simp only [waitStarts_deep]
  split <;> simp

@[simp] theorem waitRead_deep (w : Waiter) (pa : BitVec 52) (s : State) : deep (waitRead w pa s) = deep s := by
  simp [waitRead]

@[simp] theorem waitEval_deep (w : Waiter) (s : State) : deep (waitEval w s) = deep s := by
  unfold waitEval; simp; (repeat' split) <;> simp

@[simp] theorem waitBack_deep (ch : BitVec 21) (x : Word) (s : State) : deep (waitBack ch x s) = deep s := by
  unfold waitBack; (repeat' split) <;> simp

@[simp] theorem startWait_deep (ch : BitVec 21) (pkt : List Word) (s : State) : deep (startWait ch pkt s) = deep s := by
  unfold startWait; (repeat' split) <;> simp

/-! ## Data -/

@[simp] theorem givePlane_deep (ap : BitVec 12) (d : BitVec 9) (p : Nat) (s : State) : deep (givePlane ap d p s) = deep s := by
  unfold givePlane; (repeat' split) <;> simp

@[simp] theorem repin_deep (ap : BitVec 12) (d : BitVec 9) (s : State) : deep (repin ap d s) = deep s := by
  unfold repin; (repeat' split) <;> simp

@[simp] theorem dapRefuse_deep (pa : BitVec 52) (s : State) : deep (dapRefuse pa s) = deep s := by
  simp [dapRefuse]

@[simp] theorem dapSend_deep (pa : BitVec 52) (store : Bool) (size : Nat) (data : List Byte) (n : Nat) (a : Aperture) (tag : Nat) (s : State) : deep (dapSend pa store size data n a tag s) = deep s := by
  simp [dapSend]

@[simp] theorem dapTake_deep (x : DapHold) (s : State) : deep (dapTake x s) = deep s := by
  unfold dapTake; (repeat' split) <;> simp

@[simp] theorem dapServe_deep (n : Nat) (s : State) : deep (dapServe n s) = deep s := by
  induction n generalizing s with
  | zero => rfl
  | succ n ih => unfold dapServe; (repeat' split) <;> simp [ih]

@[simp] theorem servePort_deep (s : State) : deep (servePort s) = deep s := by
  simp [servePort]

@[simp] theorem dapEnd_deep (n : Nat) (answered error : Bool) (data : List Byte) (s : State) : deep (dapEnd n answered error data s) = deep s := by
  unfold dapEnd; simp; (repeat' split) <;> simp

@[simp] theorem feedUnit_deep (u : UnitFor) (s : State) : deep (feedUnit u s) = deep s := by
  unfold feedUnit; (repeat' split) <;> simp

@[simp] theorem cancelSlot_deep (id : Nat) (d : BitVec 9) (s : State) : deep (cancelSlot id d s) = deep s := by
  unfold cancelSlot; (repeat' split) <;> simp

@[simp] theorem slotCancelled_deep (id : Nat) (d : BitVec 9) (s : State) : deep (slotCancelled id d s) = deep s := by
  simp [slotCancelled]

@[simp] theorem dropMember_deep (id : Nat) (s : State) (d : BitVec 9) : deep (dropMember id s d) = deep s := by
  unfold dropMember; (repeat (first | (simp; done) | (refine (modCmd_deep _ _ _).trans ?_) | (refine (modCmd_deep _ _ _).trans ?_) | (refine ((modCmd_deep _ _ _)).trans ?_) | (intro _) | simp | split))

@[simp] theorem leaveEmpty_deep (u : Xu) (s : State) : deep (leaveEmpty u s) = deep s := by
  unfold leaveEmpty; (repeat' split) <;> simp

@[simp] theorem lateItems_deep (id : Nat) (st : BitVec 8) (ds : List (BitVec 9)) (sig : Bool) (s : State) : deep (lateItems id st ds sig s) = deep s := by
  simp [lateItems]

@[simp] theorem creditTimeout_deep (uid : Nat) (s : State) : deep (creditTimeout uid s) = deep s := by
  unfold creditTimeout; (repeat' split) <;> simp <;> (repeat' split) <;> simp

@[simp] theorem txnTimeout_deep (n : Nat) (s : State) : deep (txnTimeout n s) = deep s := by
  unfold txnTimeout; (repeat (first | (simp; done) | (refine (modCmd_deep _ _ _).trans ?_) | (refine (modCmd_deep _ _ _).trans ?_) | (refine ((modCmd_deep _ _ _)).trans ?_) | (intro _) | simp | split))

/-! ## Tallies -/

@[simp] theorem acceptGrant_deep (d : Nat) (g : BitVec 32) (s : State) : deep (acceptGrant d g s) = deep s := by
  simp [acceptGrant]

@[simp] theorem tallyLoss_deep (d : Nat) (s : State) : deep (tallyLoss d s) = deep s := by
  simp [tallyLoss]

@[simp] theorem queueEntry_deep (p : Nat) (e : Word) (s : State) : deep (queueEntry p e s) = deep s := by
  simp [queueEntry]

@[simp] theorem queueRefresh_deep (p : Nat) (e : Word) (s : State) : deep (queueRefresh p e s) = deep s := by
  unfold queueRefresh; (repeat' split) <;> simp

@[simp] theorem sendEntry_deep (d kind : Nat) (val : BitVec 32) (s : State) : deep (sendEntry d kind val s) = deep s := by
  unfold sendEntry; (repeat' split) <;> simp

@[simp] theorem advanceFreed_deep (d n : Nat) (s : State) : deep (advanceFreed d n s) = deep s := by
  simp [advanceFreed]

@[simp] theorem releaseLines_deep (d n : Nat) (s : State) : deep (releaseLines d n s) = deep s := by
  simp [releaseLines]

@[simp] theorem releaseEntry_deep (src : BitVec 9) (tag : BitVec 16) (s : State) : deep (releaseEntry src tag s) = deep s := by
  simp [releaseEntry]

@[simp] theorem takeHeader_deep (t : Txn) (s : State) : deep (takeHeader t s) = deep s := by
  simp [takeHeader]

@[simp] theorem takeEntry_deep (kind : Nat) (p : BitVec 7) (e : Word) (f : State → State) (s : State) (h_f : ∀ s, deep (f s) = deep s) : deep (takeEntry kind p e f s) = deep s := by
  unfold takeEntry; simp [*]

@[simp] theorem reconcile_deep (d : Nat) (v : BitVec 32) (s : State) : deep (reconcile d v s) = deep s := by
  simp [reconcile]

@[simp] theorem reconAck_deep (d : Nat) (v : BitVec 32) (s : State) : deep (reconAck d v s) = deep s := by
  simp [reconAck]

@[simp] theorem releaseSent_deep (r : BitVec 9 × BitVec 16 × Nat × Bool) (s : State) : deep (releaseSent r s) = deep s := by
  simp [releaseSent]

@[simp] theorem refreshOne_deep (d : Nat) (s : State) : deep (refreshOne d s) = deep s := by
  unfold refreshOne; simp; (repeat' split) <;> simp

@[simp] theorem tallyRefresh_deep (s : State) : deep (tallyRefresh s) = deep s := by
  simp [tallyRefresh]

@[simp] theorem settleExpiry_deep (d : Nat) (s : State) : deep (settleExpiry d s) = deep s := by
  unfold settleExpiry; (repeat' split) <;> simp

@[simp] theorem reconcileSend_deep (d : BitVec 9) (s : State) : deep (reconcileSend d s) = deep s := by
  simp [reconcileSend]

@[simp] theorem reconcileResend_deep (d : Nat) (s : State) : deep (reconcileResend d s) = deep s := by
  unfold reconcileResend; simp; (repeat' split) <;> simp

/-! ## Reduce -/

@[simp] theorem openTxn_deep (q : BitVec 6) (t : Txn) (s : State) : deep (openTxn q t s).2 = deep s := by
  unfold openTxn
  (repeat' split) <;> simp

end Sys2Proof.Laws
end

