-- ==== Sys2Proof/Laws/DeepData.lean ====
section
/-! SUPPORT. What leaves Almanac, power, windows and routes alone (Laws/Deep.lean): targets, answers, windows, Terrier, the debug port, the Mill, planes, parishes, links. -/

namespace Sys2Proof.Laws

open Sys2Proof Sys2Proof.Machine Sys2Proof.Safety

/-! ## Target -/

@[simp] theorem highWater_deep (s : State) : deep (highWater s) = deep s := by
  simp [highWater]

@[simp] theorem endArrival_deep (a : Arrival) (s : State) : deep (endArrival a s) = deep s := by
  simp [endArrival]

@[simp] theorem answerArrival_deep (a : Arrival) (k : Nat) (st : BitVec 8) (s : State) : deep (answerArrival a k st s) = deep s := by
  simp [answerArrival]

@[simp] theorem respond_deep (a : Arrival) (t : Txn) (s : State) : deep (respond a t s) = deep s := by
  simp [respond]

@[simp] theorem modEnt_deep (src : BitVec 9) (tag : BitVec 16) (f : SigEnt → SigEnt) (s : State) : deep (modEnt src tag f s) = deep s := by
  simp [modEnt]

@[simp] theorem makeEnt_deep (t : Txn) (s : State) : deep (makeEnt t s) = deep s := by
  simp [makeEnt]

@[simp] theorem cancelEnt_deep (t : Txn) (s : State) : deep (cancelEnt t s) = deep s := by
  simp [cancelEnt]

@[simp] theorem refuseArrival_deep (a : Arrival) (st : BitVec 8) (s : State) : deep (refuseArrival a st s) = deep s := by
  simp [refuseArrival]

@[simp] theorem refuseFault_deep (a : Arrival) (st : BitVec 8) (kind addr : Nat) (s : State) : deep (refuseFault a st kind addr s) = deep s := by
  simp [refuseFault]

@[simp] theorem watchArrival_deep (a : Arrival) (s : State) : deep (watchArrival a s) = deep s := by
  simp [watchArrival]

@[simp] theorem readArrival_deep (a : Arrival) (s : State) : deep (readArrival a s) = deep s := by
  simp [readArrival]

@[simp] theorem writeArrival_deep (a : Arrival) (bs : List Byte) (s : State) : deep (writeArrival a bs s) = deep s := by
  simp [writeArrival]

@[simp] theorem commitArrival_deep (a : Arrival) (bs : List Byte) (s : State) : deep (commitArrival a bs s) = deep s := by
  simp [commitArrival]

@[simp] theorem startCombine_deep (a : Arrival) (data : List Byte) (s : State) : deep (startCombine a data s) = deep s := by
  simp [startCombine]

@[simp] theorem wakeCombines_deep (s : State) : deep (wakeCombines s) = deep s := by
  simp [wakeCombines]

@[simp] theorem modOp_deep (id : Nat) (f : AtomOp → AtomOp) (s : State) : deep (modOp id f s) = deep s := by
  simp [modOp]

@[simp] theorem opCompute_deep (o : AtomOp) (w : Word) (s : State) : deep (opCompute o w s) = deep s := by
  unfold opCompute; simp; (repeat' split) <;> simp

@[simp] theorem opStart_deep (o : AtomOp) (s : State) : deep (opStart o s) = deep s := by
  unfold opStart; (repeat' split) <;> simp

@[simp] theorem pumpOps_deep (s : State) : deep (pumpOps s) = deep s := by
  simp [pumpOps]

@[simp] theorem addOp_deep (use : AtomFor) (pa width : Nat) (subop : BitVec 8) (operand compare : Word) (s : State) : deep (addOp use pa width subop operand compare s) = deep s := by
  simp [addOp]

@[simp] theorem answerQuery_deep (via : Via) (q : BitVec 6) (t : Txn) (applied : Bool) (s : State) : deep (answerQuery via q t applied s) = deep s := by
  simp [answerQuery]

@[simp] theorem signalEnds_deep (e : SigEnt) (applied : Bool) (st : BitVec 8) (s : State) : deep (signalEnds e applied st s) = deep s := by
  simp [signalEnds]

@[simp] theorem signalStart_deep (e : SigEnt) (s : State) : deep (signalStart e s) = deep s := by
  unfold signalStart; simp; (repeat' split) <;> simp

@[simp] theorem handOver_deep (src : BitVec 9) (tag : BitVec 16) (s : State) : deep (handOver src tag s) = deep s := by
  unfold handOver; (repeat' split) <;> simp

@[simp] theorem retrySignals_deep (s : State) : deep (retrySignals s) = deep s := by
  simp [retrySignals]

@[simp] theorem opEnds_deep (o : AtomOp) (ok : Bool) (s : State) : deep (opEnds o ok s) = deep s := by
  unfold opEnds; simp; (repeat' split) <;> simp

@[simp] theorem endSilent_deep (s : State) : deep (endSilent s) = deep s := by
  simp [endSilent]

@[simp] theorem arrReady_deep (a : Arrival) (s : State) : deep (arrReady a s) = deep s := by
  unfold arrReady; (repeat' split) <;> simp

@[simp] theorem withArrival_deep (id : Nat) (f : Arrival → State → State) (s : State) (h_f : ∀ x0 s, deep (f x0 s) = deep s) : deep (withArrival id f s) = deep s := by
  unfold withArrival; (repeat' split) <;> simp [*]

@[simp] theorem xlateArrival_deep (id : Nat) (s : State) : deep (xlateArrival id s) = deep s := by
  unfold xlateArrival; simp; (repeat' split) <;> simp

@[simp] theorem retryArrivals_deep (s : State) : deep (retryArrivals s) = deep s := by
  simp [retryArrivals]

@[simp] theorem modGroup_deep (t : Txn) (f : Group → Group) (s : State) : deep (modGroup t f s) = deep s := by
  simp [modGroup]

@[simp] theorem orderArrival_deep (a : Arrival) (s : State) : deep (orderArrival a s) = deep s := by
  unfold orderArrival; simp; (repeat' split) <;> simp

@[simp] theorem wakeGroups_deep (s : State) : deep (wakeGroups s) = deep s := by
  unfold wakeGroups; (repeat' split) <;> simp

@[simp] theorem groupAdvance_deep (t : Txn) (s : State) : deep (groupAdvance t s) = deep s := by
  unfold groupAdvance; simp; (repeat' split) <;> simp

@[simp] theorem passedArrival_deep (a : Arrival) (s : State) : deep (passedArrival a s) = deep s := by
  unfold passedArrival
  have h := openTxn_deep a.parish a.txn s
  split <;> rename_i he <;> rw [he] at h <;> dsimp only at h <;> rw [← h]
  · simp
  · dsimp only; (repeat' split) <;> simp

@[simp] theorem checkArrival_deep (a : Arrival) (s : State) : deep (checkArrival a s) = deep s := by
  simp [checkArrival]

@[simp] theorem windowFailed_deep (id : Nat) (s : State) : deep (windowFailed id s) = deep s := by
  unfold windowFailed; (repeat' split) <;> simp

@[simp] theorem enterBarn_deep (via : Via) (t : Txn) (lines : Nat) (f : Arrival → State → State) (s : State) (h_f : ∀ x0 s, deep (f x0 s) = deep s) : deep (enterBarn via t lines f s) = deep s := by
  unfold enterBarn; simp [*]

@[simp] theorem countOverrun_deep (t : Txn) (s : State) : deep (countOverrun t s) = deep s := by
  unfold countOverrun; (repeat' split) <;> simp

@[simp] theorem answerOverrun_deep (via : Via) (t : Txn) (s : State) : deep (answerOverrun via t s) = deep s := by
  unfold answerOverrun; (repeat' split) <;> simp

@[simp] theorem discardOverrun_deep (via : Via) (t : Txn) (s : State) : deep (discardOverrun via t s) = deep s := by
  simp [discardOverrun]

@[simp] theorem landCharged_deep (via : Via) (t : Txn) (over_ : State → State) (f : Arrival → State → State) (s : State)
    (h_over : ∀ s, deep (over_ s) = deep s) (h_f : ∀ x0 s, deep (f x0 s) = deep s) : deep (landCharged via t over_ f s) = deep s := by
  unfold landCharged; simp; (repeat' split) <;> simp [*]

@[simp] theorem landAnswer_deep (kind : Nat) (via : Via) (t : Txn) (f : State → State) (s : State) (h_f : ∀ s, deep (f s) = deep s) : deep (landAnswer kind via t f s) = deep s := by
  unfold landAnswer; (repeat' split) <;> simp [*]

@[simp] theorem getResponse_deep (a : Arrival) (raw : List Byte) (coded : Option (List Byte)) (s : State) : deep (getResponse a raw coded s) = deep s := by
  simp [getResponse]

@[simp] theorem targetBack_deep (id : Nat) (bs : List Byte) (s : State) : deep (targetBack id bs s) = deep s := by
  unfold targetBack; (repeat' split) <;> simp

@[simp] theorem targetFailed_deep (id : Nat) (s : State) : deep (targetFailed id s) = deep s := by
  unfold targetFailed; (repeat' split) <;> simp

@[simp] theorem committed_deep (id : Nat) (s : State) : deep (committed id s) = deep s := by
  unfold committed; (repeat' split) <;> simp

/-! ## Answers -/

@[simp] theorem stopLost_deep (id : Nat) (s : State) : deep (stopLost id s) = deep s := by
  simp [stopLost]

@[simp] theorem loseSignal_deep (id : Nat) (u : Xu) (d : BitVec 9) (s : State) : deep (loseSignal id u d s) = deep s := by
  unfold loseSignal; (repeat (first | (simp; done) | (refine (modCmd_deep _ _ _).trans ?_) | (refine (modCmd_deep _ _ _).trans ?_) | (refine (congrArg toStill (modCmd_deep _ _ _)).trans ?_) | (intro _) | simp | split))

@[simp] theorem loseUnit_deep (u : Xu) (d : BitVec 9) (s : State) : deep (loseUnit u d s) = deep s := by
  unfold loseUnit; (repeat' split) <;> simp

@[simp] theorem loseGhosts_deep (p : Nat) (hit : BitVec 9 → Bool) (s : State) : deep (loseGhosts p hit s) = deep s := by
  unfold loseGhosts; (repeat' split) <;> simp

@[simp] theorem losePlane_deep (p : Nat) (hit : BitVec 9 → Bool) (s : State) : deep (losePlane p hit s) = deep s := by
  simp [losePlane]

@[simp] theorem ghostAnswered_deep (t : Txn) (s : State) : deep (ghostAnswered t s) = deep s := by
  unfold ghostAnswered; (repeat' split) <;> simp

@[simp] theorem countStale_deep (s : State) : deep (countStale s) = deep s := by
  unfold countStale; (repeat' split) <;> simp

@[simp] theorem sealAnswer_deep (q : Option (BitVec 6)) (t : Txn) (s : State) : deep (sealAnswer q t s) = deep s := by
  unfold sealAnswer; (repeat' split) <;> simp

@[simp] theorem staleAnswer_deep (t : Txn) (s : State) : deep (staleAnswer t s) = deep s := by
  simp [staleAnswer]

@[simp] theorem badAnswer_deep (q : BitVec 6) (t : Txn) (s : State) : deep (badAnswer q t s) = deep s := by
  simp [badAnswer]

@[simp] theorem withItem_deep (t : Txn) (f : Xu → State → State) (none_ : State → State) (s : State) (h_f : ∀ x0 s, deep (f x0 s) = deep s) (h_none_ : ∀ s, deep (none_ s) = deep s) : deep (withItem t f none_ s) = deep s := by
  unfold withItem; (repeat' split) <;> simp [*]

@[simp] theorem afterAnswer_deep (u : UnitFor) (s : State) : deep (afterAnswer u s) = deep s := by
  unfold afterAnswer; (repeat' split) <;> simp

@[simp] theorem slotFreed_deep (id : Nat) (d : BitVec 9) (s : State) : deep (slotFreed id d s) = deep s := by
  simp [slotFreed]

@[simp] theorem queueRelease_deep (d : BitVec 9) (tag : BitVec 16) (s : State) : deep (queueRelease d tag s) = deep s := by
  simp [queueRelease]

@[simp] theorem signalDone_deep (t : Txn) (s : State) : deep (signalDone t s) = deep s := by
  unfold signalDone; (repeat' split) <;> simp

@[simp] theorem queryReply_deep (t : Txn) (s : State) : deep (queryReply t s) = deep s := by
  unfold queryReply; (repeat' split) <;> simp

@[simp] theorem refusedItem_deep (id key : Nat) (st : BitVec 8) (d : BitVec 9) (s : State) : deep (refusedItem id key st d s) = deep s := by
  simp [refusedItem]

@[simp] theorem refused_deep (t : Txn) (s : State) : deep (refused t s) = deep s := by
  unfold refused
  refine withItem_deep _ _ _ _ ?_ ?_
  · intro u s; split <;> simp
  · intro s; (repeat' split) <;> simp

@[simp] theorem discardResponse_deep (a : Arrival) (s : State) : deep (discardResponse a s) = deep s := by
  simp [discardResponse]

@[simp] theorem failResponse_deep (a : Arrival) (id : Nat) (st : BitVec 8) (s : State) : deep (failResponse a id st s) = deep s := by
  simp [failResponse]

@[simp] theorem writeResponse_deep (a : Arrival) (c : Cmd) (pieces : List (Nat × Nat)) (bs : List Byte) (s : State) : deep (writeResponse a c pieces bs s) = deep s := by
  simp [writeResponse]

@[simp] theorem responseGo_deep (a : Arrival) (s : State) : deep (responseGo a s) = deep s := by
  unfold responseGo; (repeat' split) <;> simp

@[simp] theorem retryResponses_deep (s : State) : deep (retryResponses s) = deep s := by
  simp [retryResponses]

@[simp] theorem responseStage_deep (a : Arrival) (s : State) : deep (responseStage a s) = deep s := by
  unfold responseStage
  split
  · simp
  · dsimp only
    split
    · simp
    · generalize hs : modArrival a.id _ s = s1
      have h1 : deep s1 = deep s := by rw [← hs]; simp
      rw [← h1]
      generalize (Option.getD _ _ : BitVec 6) = q
      have h := openTxn_deep q a.txn s1
      split <;> rename_i he <;> rw [he] at h <;> dsimp only at h <;> rw [← h] <;> (repeat' split) <;> simp

@[simp] theorem overrunItem_deep (t : Txn) (s : State) : deep (overrunItem t s) = deep s := by
  unfold overrunItem; (repeat' split) <;> simp

@[simp] theorem landResponse_deep (kind : Nat) (via : Via) (t : Txn) (s : State) : deep (landResponse kind via t s) = deep s := by
  simp [landResponse]

@[simp] theorem responseWritten_deep (a : Arrival) (id : Nat) (s : State) : deep (responseWritten a id s) = deep s := by
  simp [responseWritten]

@[simp] theorem responseFailed_deep (a : Arrival) (id : Nat) (s : State) : deep (responseFailed a id s) = deep s := by
  simp [responseFailed]

@[simp] theorem query_deep (via : Via) (t : Txn) (s : State) : deep (query via t s) = deep s := by
  unfold query; (repeat' split) <;> simp

/-! ## Windows -/

@[simp] theorem mgmtWait_deep (id : Nat) (s : State) : deep (mgmtWait id s) = deep s := by
  simp [mgmtWait]

@[simp] theorem doneAfter_deep (id : Nat) (st : BitVec 8) (result : Word) (cells : List (Nat × Byte)) (s : State) : deep (doneAfter id st result cells s) = deep s := by
  simp [doneAfter]

@[simp] theorem mgmtWritten_deep (id : Nat) (s : State) : deep (mgmtWritten id s) = deep s := by
  unfold mgmtWritten; (repeat' split) <;> simp

@[simp] theorem cancelSignals_deep (hit : SigEnt → Bool) (st : BitVec 8) (s : State) : deep (cancelSignals hit st s) = deep s := by
  simp [cancelSignals]

@[simp] theorem signalExpiry_deep (src : BitVec 9) (tag : BitVec 16) (s : State) : deep (signalExpiry src tag s) = deep s := by
  unfold signalExpiry; (repeat' split) <;> simp

@[simp] theorem stageTimeout_deep (id : Nat) (s : State) : deep (stageTimeout id s) = deep s := by
  unfold stageTimeout; (repeat' split) <;> simp

@[simp] theorem brokenFree_deep (window : BitVec 20) (offset : BitVec 48) (stripe : BitVec 40) (s : State) : deep (brokenFree window offset stripe s) = deep s := by
  unfold brokenFree; simp; (repeat' split) <;> simp

/-! ## TerCmds -/

@[simp] theorem retryAll_deep (s : State) : deep (retryAll s) = deep s := by
  unfold retryAll
  simp only [retryResponses_deep, retryArrivals_deep]
  refine (deep_foldl _ _ _ (fun s x => ?_)).trans ((deep_foldl _ _ _ (fun s x => xlate_deep _ s)))
  split <;> simp

@[simp] theorem deliverBad_deep (q : BitVec 6) (va kind : Nat) (s : State) : deep (deliverBad q va kind s) = deep s := by
  simp [deliverBad]

@[simp] theorem restartWalk_deep (q : BitVec 6) (va : Nat) (ingress : Bool) (s : State) : deep (restartWalk q va ingress s) = deep s := by
  unfold restartWalk; simp

@[simp] theorem walkBack_deep (q : BitVec 6) (va depth : Nat) (ingress stale pages : Bool) (bs : List Byte) (s : State) : deep (walkBack q va depth ingress stale pages bs s) = deep s := by
  unfold walkBack; simp; (repeat' split) <;> simp

@[simp] theorem walkFailed_deep (q : BitVec 6) (va : Nat) (ingress stale : Bool) (s : State) : deep (walkFailed q va ingress stale s) = deep s := by
  simp [walkFailed]

@[simp] theorem abortCmd_deep (st : BitVec 8) (id : Nat) (seq : BitVec 32) (s : State) : deep (abortCmd st id seq s) = deep s := by
  unfold abortCmd; (repeat' split) <;> simp

@[simp] theorem abortRequester_deep (st : BitVec 8) (seq : BitVec 32) (w : Requester) (s : State) : deep (abortRequester st seq w s) = deep s := by
  unfold abortRequester; (repeat' split) <;> simp

@[simp] theorem wakeRequester_deep (w : Requester) (s : State) : deep (wakeRequester w s) = deep s := by
  unfold wakeRequester; (repeat' split) <;> simp

@[simp] theorem closeRec_deep (r : TerRec) (s : State) : deep (closeRec r s) = deep s := by
  simp [closeRec]

@[simp] theorem abortRec_deep (r : TerRec) (s : State) : deep (abortRec r s) = deep s := by
  simp [abortRec]

@[simp] theorem stopRec_deep (r : TerRec) (s : State) : deep (stopRec r s) = deep s := by
  simp [stopRec]

@[simp] theorem purgeCache_deep (q : BitVec 6) (lo hi : Nat) (s : State) : deep (purgeCache q lo hi s) = deep s := by
  simp [purgeCache]

@[simp] theorem runResolve_deep (abort : Bool) (pkt : List Word) (id : Nat) (s : State) : deep (runResolve abort pkt id s) = deep s := by
  unfold runResolve; (repeat' split) <;> simp

@[simp] theorem terTimeout_deep (seq : BitVec 32) (s : State) : deep (terTimeout seq s) = deep s := by
  unfold terTimeout; (repeat' split) <;> simp

@[simp] theorem terEnCleared_deep (s : State) : deep (terEnCleared s) = deep s := by
  simp [terEnCleared]

@[simp] theorem dropRanges_deep (q : BitVec 6) (lo hi : Nat) (s : State) : deep (dropRanges q lo hi s) = deep s := by
  simp [dropRanges]

@[simp] theorem runInvalidate_deep (pkt : List Word) (id : Nat) (s : State) : deep (runInvalidate pkt id s) = deep s := by
  simp [runInvalidate]

@[simp] theorem invalidateAck_deep (agent : BitVec 6) (s : State) : deep (invalidateAck agent s) = deep s := by
  unfold invalidateAck; (repeat' split) <;> simp

@[simp] theorem invalidateLate_deep (s : State) : deep (invalidateLate s) = deep s := by
  unfold invalidateLate; (repeat' split) <;> simp

/-! ## Dap -/

@[simp] theorem runApertureSet_deep (pkt : List Word) (id : Nat) (s : State) : deep (runApertureSet pkt id s) = deep s := by
  simp [runApertureSet]

@[simp] theorem dapAccess_deep (pa : BitVec 52) (store : Bool) (size : Nat) (data : List Byte) (s : State) : deep (dapAccess pa store size data s) = deep s := by
  unfold dapAccess; (repeat' split) <;> simp

/-! ## Staging -/

@[simp] theorem stageRow_deep (g : List Nat) (gang : Nat) (inverse : Bool) (q : BitVec 6) (r : Nat) (codes : List Nat) (s : State) : deep (stageRow g gang inverse q r codes s) = deep s := by
  unfold stageRow; (repeat' split) <;> simp

@[simp] theorem stageRows_deep (g : List Nat) (gang : Nat) (inverse : Bool) (q : BitVec 6) (r : Nat) (xs : List (List Nat)) (s : State) : deep (stageRows g gang inverse q r xs s) = deep s := by
  induction xs generalizing r s with
  | nil => rfl
  | cons x xs ih => unfold stageRows; simp [ih]

@[simp] theorem stageTiles_deep (g : List Nat) (gang : Nat) (q : BitVec 6) (rows : List (List Nat)) (s : State) : deep (stageTiles g gang q rows s) = deep s := by
  unfold stageTiles; (repeat' split) <;> simp

/-! ## Mill -/

@[simp] theorem runProfileSet_deep (pkt : List Word) (id : Nat) (s : State) : deep (runProfileSet pkt id s) = deep s := by
  unfold runProfileSet; (repeat' split) <;> simp

@[simp] theorem runTableSet_deep (pkt : List Word) (id : Nat) (s : State) : deep (runTableSet pkt id s) = deep s := by
  unfold runTableSet; (repeat' split) <;> simp

@[simp] theorem runMatrixSet_deep (pkt : List Word) (id : Nat) (s : State) : deep (runMatrixSet pkt id s) = deep s := by
  unfold runMatrixSet; (repeat' split) <;> simp

@[simp] theorem millClears_deep (s : State) : deep (millClears s) = deep s := by
  simp [millClears]

@[simp] theorem runMatrixClear_deep (pkt : List Word) (id : Nat) (s : State) : deep (runMatrixClear pkt id s) = deep s := by
  unfold runMatrixClear; (repeat' split) <;> simp

@[simp] theorem runMilRelease_deep (pkt : List Word) (id : Nat) (s : State) : deep (runMilRelease pkt id s) = deep s := by
  unfold runMilRelease; (repeat' split) <;> simp

@[simp] theorem countUnchecked_deep (cs : List (List RowCheck)) (s : State) : deep (countUnchecked cs s) = deep s := by
  simp [countUnchecked]

@[simp] theorem millFail_deep (w : MillWork) (t : MillTask) (gang : Nat) (cs : List RowCheck) (cmds : List Nat) (s : State) : deep (millFail w t gang cs cmds s) = deep s := by
  simp [millFail]

@[simp] theorem millStage_deep (w : MillWork) (t : MillTask) (r : Nat) (codes : List (List Nat)) (s : State) : deep (millStage w t r codes s) = deep s := by
  simp [millStage]

@[simp] theorem rotate__deep (w : MillWork) (t : MillTask) (f : FpFmt) (xs : Rows) (cmds : List Nat) (s : State) : deep (rotate_ w t f xs cmds s).2 = deep s := by
  unfold rotate_
  dsimp only
  split <;> simp

@[simp] theorem giveBack_deep (w : MillWork) (s : State) : deep (giveBack w s) = deep s := by
  simp [giveBack]

@[simp] theorem egressStream_deep (id : Nat) (c : Cmd) (t : MillTask) (s : State) : deep (egressStream id c t s) = deep s := by
  unfold egressStream
  dsimp only
  split
  · split
    · split
      · rw [feed_deep, failSelf_deep, modCmd_deep _ _ _]; simp
      · rw [feed_deep, copyOut_deep, modCmd_deep _ _ _, modCmd_deep _ _ _]; simp
    · rw [feed_deep, failSelf_deep, modCmd_deep _ _ _]; simp
  · split
    · rw [feed_deep, failSelf_deep, modCmd_deep _ _ _]; simp
    · split
      · rw [feed_deep, copyOut_deep, modCmd_deep _ _ _]; simp
      · rw [feed_deep, emitStripe_deep, modCmd_deep _ _ _]; simp

@[simp] theorem ingressStream_deep (a : Arrival) (t : MillTask) (s : State) : deep (ingressStream a t s) = deep s := by
  unfold ingressStream; simp; (repeat' split) <;> simp

@[simp] theorem jobStream_deep (id : Nat) (c : Cmd) (t : MillTask) (s : State) : deep (jobStream id c t s) = deep s := by
  unfold jobStream
  dsimp only
  generalize hs : modCmd id _ _ = s1
  have h1 : deep s1 = deep s := by rw [← hs, modCmd_deep _ _ _]; simp
  rw [← h1]
  split
  · rw [feed_deep]; split <;> simp
  · rw [rowsOut_deep]; split <;> simp

@[simp] theorem gangGo_deep (w : MillWork) (s : State) : deep (gangGo w s) = deep s := by
  unfold gangGo
  (repeat' split) <;> first | (simp; done) | (rw [feed_deep]; refine (modCmd_deep _ _ _).trans ?_; first | rfl | simp)

@[simp] theorem jobBack_deep (id : Nat) (bs : List Byte) (s : State) : deep (jobBack id bs s) = deep s := by
  unfold jobBack
  split
  · rfl
  · dsimp only
    generalize hs : modCmd id _ _ = s1
    have h1 : deep s1 = deep s := by rw [← hs, modCmd_deep _ _ _]
    rw [← h1]
    (repeat' split) <;> try simp only [gangGo_deep, resumeXlate_deep, millStage_deep, checkDone_deep]
    all_goals rw [modCmd_deep _ _ _]

@[simp] theorem millPump_deep (s : State) : deep (millPump s) = deep s := by
  unfold millPump
  refine deep_foldl _ _ _ (fun s x => ?_)
  split <;> simp

@[simp] theorem poolShrunk_deep (s : State) : deep (poolShrunk s) = deep s := by
  simp [poolShrunk]

@[simp] theorem millUnmapped_deep (w : MillWork) (t : MillTask) (va k : Nat) (s : State) : deep (millUnmapped w t va k s) = deep s := by
  unfold millUnmapped; (repeat' split) <;> simp

@[simp] theorem takeGang_deep (w : MillWait) (t : MillTask) (g : List Nat) (s : State) : deep (takeGang w t g s) = deep s := by
  unfold takeGang; simp; (repeat' split) <;> simp

@[simp] theorem matrixBack_deep (w : MillWork) (bs : List Byte) (s : State) : deep (matrixBack w bs s) = deep s := by
  unfold matrixBack; split <;> simp

@[simp] theorem matrixFailed_deep (w : MillWork) (s : State) : deep (matrixFailed w s) = deep s := by
  unfold matrixFailed
  split
  · rfl
  · split
    · rw [feed_deep, failSelf_deep, modCmd_deep _ _ _]
    · rw [feed_deep, failSelf_deep, modCmd_deep _ _ _]; simp
    · (repeat' split) <;> simp

@[simp] theorem loadDone_deep (n : Nat) (s : State) : deep (loadDone n s) = deep s := by
  unfold loadDone; simp; (repeat' split) <;> simp

@[simp] theorem gangTimeout_deep (id : Nat) (s : State) : deep (gangTimeout id s) = deep s := by
  unfold gangTimeout; simp; (repeat' split) <;> simp

@[simp] theorem toggle_deep (n : Nat) (on : Bool) (s : State) : deep (toggle n on s) = deep s := by
  simp [toggle]

@[simp] theorem freeze_deep (w : MillWork) (s : State) : deep (freeze w s) = deep s := by
  unfold freeze; (repeat' split) <;> simp

@[simp] theorem stoneQuiet_deep (n : Nat) (s : State) : deep (stoneQuiet n s) = deep s := by
  unfold stoneQuiet; dsimp only; (repeat' split) <;> simp

@[simp] theorem stoneWake_deep (n : Nat) (s : State) : deep (stoneWake n s) = deep s := by
  unfold stoneWake; simp; (repeat' split) <;> simp

@[simp] theorem stoneLeaves_deep (old n : Nat) (s : State) : deep (stoneLeaves old n s) = deep s := by
  simp [stoneLeaves]

@[simp] theorem milPool_deep (val mask : Word) (s : State) : deep (milPool val mask s) = deep s := by
  simp [milPool]

@[simp] theorem millScrub_deep (q : BitVec 6) (s : State) : deep (millScrub q s) = deep s := by
  simp [millScrub]

/-! ## Planes -/

@[simp] theorem planesChanged_deep (old s : State) : deep (planesChanged old s) = deep s := by
  unfold planesChanged
  dsimp only
  rw [deep_foldl _ _ _ (fun s x => repin_deep _ _ s)]
  exact deep_foldl _ _ _ (fun s x => by split <;> simp)

@[simp] theorem resetTally_deep (d : Nat) (s : State) : deep (resetTally d s) = deep s := by
  simp [resetTally]

@[simp] theorem routesChanged_deep (old s : State) : deep (routesChanged old s) = deep s := by
  unfold routesChanged
  simp

@[simp] theorem runRouteLoad_deep (pkt : List Word) (id : Nat) (s : State) : deep (runRouteLoad pkt id s) = deep s := by
  simp [runRouteLoad]

@[simp] theorem unpin_deep (changed : BitVec 9 → Bool) (s : State) : deep (unpin changed s) = deep s := by
  simp [unpin]

@[simp] theorem runStripeMap_deep (pkt : List Word) (id : Nat) (s : State) : deep (runStripeMap pkt id s) = deep s := by
  simp [runStripeMap]

@[simp] theorem dropQueued_deep (p : Nat) (hit : BitVec 9 → Bool) (s : State) : deep (dropQueued p hit s) = deep s := by
  unfold dropQueued; (repeat' split) <;> simp

@[simp] theorem runTallyPlan_deep (pkt : List Word) (id : Nat) (s : State) : deep (runTallyPlan pkt id s) = deep s := by
  simp [runTallyPlan]

@[simp] theorem tallyPlanBack_deep (id : Nat) (bs : List Byte) (s : State) : deep (tallyPlanBack id bs s) = deep s := by
  simp [tallyPlanBack]

@[simp] theorem runPlanClear_deep (pkt : List Word) (id : Nat) (s : State) : deep (runPlanClear pkt id s) = deep s := by
  simp [runPlanClear]

@[simp] theorem unitLapses_deep (u : Xu) (d : BitVec 9) (s : State) : deep (unitLapses u d s) = deep s := by
  unfold unitLapses; (repeat' split) <;> simp

@[simp] theorem fenceCmd_deep (id : Nat) (d : BitVec 9) (s : State) : deep (fenceCmd id d s) = deep s := by
  unfold fenceCmd; (repeat' split) <;> simp

@[simp] theorem leaveUnits_deep (id : Nat) (s : State) : deep (leaveUnits id s) = deep s := by
  unfold leaveUnits; (repeat' split) <;> simp

@[simp] theorem fenceTakes_deep (d : BitVec 9) (s : State) : deep (fenceTakes d s) = deep s := by
  unfold fenceTakes
  dsimp only
  refine (deep_mk ..).trans ?_
  rw [deep_fold, cancelSignals_deep, retryArrivals_deep, wakeCombines_deep, deep_foldl _ _ _ ?_, deep_foldl _ _ _ ?_, deep_foldl _ _ _ ?_]
  · intro s x; simp
  rotate_left
  · intro s x; simp
  · intro s u; (repeat' split) <;> simp

@[simp] theorem byReeve_deep (f : State → State) (s : State) (h_f : ∀ s, deep (f s) = deep s) : deep (byReeve f s) = deep s := by
  unfold byReeve; simp [*]

/-! ## Observe -/

@[simp] theorem runWatchSet_deep (clear : Bool) (pkt : List Word) (id : Nat) (s : State) : deep (runWatchSet clear pkt id s) = deep s := by
  unfold runWatchSet; (repeat' split) <;> simp

@[simp] theorem asWatch_deep (pkt : List Word) (clear : Bool) (f : State → State) (s : State) (h_f : ∀ s, deep (f s) = deep s) : deep (asWatch pkt clear f s) = deep s := by
  unfold asWatch; simp [*]

@[simp] theorem runTraceCtl_deep (pkt : List Word) (id : Nat) (s : State) : deep (runTraceCtl pkt id s) = deep s := by
  simp [runTraceCtl]

@[simp] theorem traceCtlBack_deep (id : Nat) (c : Cmd) (bs : List Byte) (s : State) : deep (traceCtlBack id c bs s) = deep s := by
  simp [traceCtlBack]

@[simp] theorem sampleOne_deep (q : BitVec 6) (ch : BitVec 21) (s : State) : deep (sampleOne q ch s) = deep s := by
  simp [sampleOne]

@[simp] theorem runHangReport_deep (snapshot : Bool) (pkt : List Word) (id : Nat) (s : State) : deep (runHangReport snapshot pkt id s) = deep s := by
  simp [runHangReport]

@[simp] theorem hangReport_deep (snapshot : Bool) (ch : BitVec 21) (pkt : List Word) (s : State) : deep (hangReport snapshot ch pkt s) = deep s := by
  simp [hangReport]

/-! ## Parishes -/

@[simp] theorem sealRecord_deep (q : BitVec 6) (s : State) : deep (sealRecord q s) = deep s := by
  simp [sealRecord]

@[simp] theorem createParish_deep (q : BitVec 6) (tag : BitVec 16) (sealed_ : Bool) (s : State) : deep (createParish q tag sealed_ s) = deep s := by
  simp [createParish]

@[simp] theorem runParishCreate_deep (pkt : List Word) (id : Nat) (s : State) : deep (runParishCreate pkt id s) = deep s := by
  simp [runParishCreate]

@[simp] theorem runParishSet_deep (pkt : List Word) (id : Nat) (s : State) : deep (runParishSet pkt id s) = deep s := by
  simp [runParishSet]

@[simp] theorem freeSlot_deep (reason n : Nat) (s : State) : deep (freeSlot reason n s) = deep s := by
  simp [freeSlot]

@[simp] theorem freeSlots_deep (reason : Nat) (hit : PairSlot → Bool) (s : State) : deep (freeSlots reason hit s) = deep s := by
  simp [freeSlots]

@[simp] theorem dropJob_deep (q : BitVec 6) (d : BitVec 9) (s : State) : deep (dropJob q d s) = deep s := by
  unfold dropJob; (repeat' split) <;> simp

@[simp] theorem jobFails_deep (j : KeyJob) (cause detail : Nat) (s : State) : deep (jobFails j cause detail s) = deep s := by
  simp [jobFails]

theorem installKey_deep (q : BitVec 6) (d : BitVec 9) (gen : BitVec 8) (peerPar : BitVec 6) (created : BitVec 32) (key : BitVec 256) (s t : State)
    (h : installKey q d gen peerPar created key s = some t) : deep t = deep s := by
  unfold installKey at h
  dsimp only at h
  generalize hs : (if gen = 0 ∧ ((slotsOf s q d).any fun e => e.2.state == .active && e.2.gen == 255) = false then _ else _ : State) = s1 at h
  have h1 : deep s1 = deep s := by rw [← hs]; (repeat' split) <;> simp
  split at h
  · cases h
  · cases h; simp [h1]

@[simp] theorem activateKey_deep (q : BitVec 6) (d : BitVec 9) (s : State) : deep (activateKey q d s) = deep s := by
  simp [activateKey]

@[simp] theorem keyDone_deep (q : BitVec 6) (d : BitVec 9) (responder rekey : Bool) (s : State) : deep (keyDone q d responder rekey s) = deep s := by
  simp [keyDone]

@[simp] theorem addJob_deep (q : BitVec 6) (d : BitVec 9) (rekey : Bool) (s : State) : deep (addJob q d rekey s) = deep s := by
  simp [addJob]

@[simp] theorem runKeyPair_deep (rekey : Bool) (pkt : List Word) (id : Nat) (s : State) : deep (runKeyPair rekey pkt id s) = deep s := by
  simp [runKeyPair]

@[simp] theorem keyTimeout_deep (q : BitVec 6) (d : BitVec 9) (s : State) : deep (keyTimeout q d s) = deep s := by
  unfold keyTimeout; (repeat' split) <;> simp

@[simp] theorem openSession_deep (peer : Option (BitVec 9)) (job : Option (BitVec 6)) (s : State) : deep (openSession peer job s) = deep s := by
  unfold openSession; (repeat' split) <;> simp

@[simp] theorem sealOffered_deep (x : SpdmSession) (d : BitVec 9) (tag : BitVec 16) (gen : BitVec 8) (par : BitVec 6) (created : BitVec 32) (s : State) :
    deep (sealOffered x d tag gen par created s).1 = deep s := by
  unfold sealOffered
  split
  · rfl
  · split
    · rfl
    · exact installKey_deep _ _ _ _ _ _ _ _ ‹_›

@[simp] theorem sealFinished_deep (d : BitVec 9) (tag : BitVec 16) (s : State) : deep (sealFinished d tag s).1 = deep s := by
  unfold sealFinished
  split
  · rfl
  · split <;> simp

@[simp] theorem answerMsg_deep (ses : Option SpdmSession) (v : BitVec 8) (m : SpdmMsg) (s : State) : deep (answerMsg ses v m s).1 = deep s := by
  unfold answerMsg
  split <;> first | rfl | (split <;> first | rfl | simp | (split <;> first | rfl | simp))

@[simp] theorem asResponder_deep (bs : List Byte) (s : State) : deep (asResponder bs s).1 = deep s := by
  unfold asResponder
  dsimp only
  (repeat' split) <;> first | rfl | simp

@[simp] theorem reeveWrites_deep (pkt : List Word) (id : Nat) (first asked : List Byte) (r : SpdmReply) (s : State) : deep (reeveWrites pkt id first asked r s) = deep s := by
  simp [reeveWrites]

@[simp] theorem runReeveRead_deep (pkt : List Word) (id : Nat) (s : State) : deep (runReeveRead pkt id s) = deep s := by
  simp [runReeveRead]

@[simp] theorem modJob_deep (j : KeyJob) (f : KeyJob → KeyJob) (s : State) : deep (modJob j f s) = deep s := by
  unfold modJob; (repeat' split) <;> simp

@[simp] theorem jobPulled_deep (j : KeyJob) (s : State) : deep (jobPulled j s) = deep s := by
  unfold jobPulled; (repeat' split) <;> simp

@[simp] theorem runReevePull_deep (pkt : List Word) (id : Nat) (s : State) : deep (runReevePull pkt id s) = deep s := by
  unfold runReevePull; (repeat' split) <;> simp

@[simp] theorem sealAccepted_deep (j : KeyJob) (secret : BitVec 384) (par : BitVec 6) (created : BitVec 32) (s : State) : deep (sealAccepted j secret par created s) = deep s := by
  unfold sealAccepted
  dsimp only
  split
  · simp
  · rw [modJob_deep]; exact installKey_deep _ _ _ _ _ _ _ _ ‹_›

@[simp] theorem jobHears_deep (j : KeyJob) (bs : List Byte) (s : State) : deep (jobHears j bs s) = deep s := by
  unfold jobHears
  dsimp only
  split <;> (repeat' split) <;> simp

@[simp] theorem asRequester_deep (bs : List Byte) (s : State) : deep (asRequester bs s) = deep s := by
  unfold asRequester; split <;> simp

@[simp] theorem reeveMsgBack_deep (id : Nat) (c : Cmd) (bs : List Byte) (s : State) : deep (reeveMsgBack id c bs s) = deep s := by
  unfold reeveMsgBack; split <;> simp

@[simp] theorem runReeveNotes_deep (pkt : List Word) (id : Nat) (s : State) : deep (runReeveNotes pkt id s) = deep s := by
  simp [runReeveNotes]

@[simp] theorem stopCmd_deep (id : Nat) (s : State) : deep (stopCmd id s) = deep s := by
  simp [stopCmd]

@[simp] theorem endUnits_deep (q : BitVec 6) (s : State) : deep (endUnits q s) = deep s := by
  unfold endUnits
  rw [dropUnits_deep]
  refine deep_foldl _ _ _ (fun s u => ?_)
  split <;> simp

@[simp] theorem stopParish_deep (q : BitVec 6) (s : State) : deep (stopParish q s) = deep s := by
  simp [stopParish]

@[simp] theorem refuseJob_deep (q : BitVec 6) (d : BitVec 9) (s : State) : deep (refuseJob q d s) = deep s := by
  simp [refuseJob]

/-! ## Clock -/

@[simp] theorem queueCtrl_deep (p : Nat) (sub : BitVec 8) (w1 : Word) (s : State) : deep (queueCtrl p sub w1 s) = deep s := by
  simp [queueCtrl]

@[simp] theorem sendLinkId_deep (p : Nat) (s : State) : deep (sendLinkId p s) = deep s := by
  simp [sendLinkId]

@[simp] theorem dropPartials_deep (p : Nat) (s : State) : deep (dropPartials p s) = deep s := by
  simp [dropPartials]

/-! ## Links -/

@[simp] theorem countLink_deep (p d k n : Nat) (s : State) : deep (countLink p d k n s) = deep s := by
  simp [countLink]

@[simp] theorem countFlit_deep (p d type used : Nat) (s : State) : deep (countFlit p d type used s) = deep s := by
  unfold countFlit; split <;> simp

@[simp] theorem countSent_deep (p : Nat) (f : Flit) (s : State) : deep (countSent p f s) = deep s := by
  simp [countSent]

@[simp] theorem dropGranaryReads_deep (p n : Nat) (s : State) : deep (dropGranaryReads p n s) = deep s := by
  simp [dropGranaryReads]

@[simp] theorem takeAck_deep (p : Nat) (a : BitVec 16) (s : State) : deep (takeAck p a s) = deep s := by
  simp [takeAck]

@[simp] theorem rewind_deep (p : Nat) (s : State) : deep (rewind p s) = deep s := by
  simp only [rewind]; split <;> simp

@[simp] theorem retrain_deep (p : Nat) (s : State) : deep (retrain p s) = deep s := by
  simp [retrain]

@[simp] theorem nackFor_deep (p : Nat) (cause : BitVec 3) (s : State) : deep (nackFor p cause s) = deep s := by
  simp [nackFor]

@[simp] theorem takeNack_deep (p : Nat) (e : BitVec 16) (s : State) : deep (takeNack p e s) = deep s := by
  simp [takeNack]

@[simp] theorem toStandby_deep (p : Nat) (lanes : BitVec 2) (s : State) : deep (toStandby p lanes s) = deep s := by
  unfold toStandby; (repeat' split) <;> simp

@[simp] theorem askWidth_deep (p : Nat) (s : State) : deep (askWidth p s) = deep s := by
  unfold askWidth; simp; (repeat' split) <;> simp

@[simp] theorem startWidth_deep (p : Nat) (lanes : BitVec 2) (why : Narrow) (s : State) : deep (startWidth p lanes why s) = deep s := by
  simp [startWidth]

@[simp] theorem narrowLane_deep (p l : Nat) (s : State) : deep (narrowLane p l s) = deep s := by
  simp [narrowLane]

@[simp] theorem askSpeed_deep (p : Nat) (s : State) : deep (askSpeed p s) = deep s := by
  unfold askSpeed; (repeat' split) <;> simp

@[simp] theorem askChanges_deep (p : Nat) (s : State) : deep (askChanges p s) = deep s := by
  unfold askChanges; (repeat' split) <;> simp

@[simp] theorem autoWiden_deep (p : Nat) (s : State) : deep (autoWiden p s) = deep s := by
  unfold autoWiden; (repeat' split) <;> simp

@[simp] theorem startSpeed_deep (c : Nat) (rate : BitVec 2) (s : State) : deep (startSpeed c rate s) = deep s := by
  unfold startSpeed; (repeat' split) <;> simp

@[simp] theorem nextSpeed_deep (c : Nat) (s : State) : deep (nextSpeed c s) = deep s := by
  unfold nextSpeed; (repeat' split) <;> simp

@[simp] theorem unparkLink_deep (p : Nat) (s : State) : deep (unparkLink p s) = deep s := by
  simp [unparkLink]

@[simp] theorem emitOn_deep (lanes : BitVec 2) (p : Nat) (f : Flit) (s : State) : deep (emitOn lanes p f s) = deep s := by
  unfold emitOn; (repeat' split) <;> simp

@[simp] theorem emit_deep (p : Nat) (f : Flit) (s : State) : deep (emit p f s) = deep s := by
  simp [emit]

@[simp] theorem spill_deep (p : Nat) (s : State) : deep (spill p s) = deep s := by
  unfold spill; simp; (repeat' split) <;> simp

@[simp] theorem sendNew_deep (p : Nat) (f : Flit) (s : State) : deep (sendNew p f s) = deep s := by
  simp [sendNew]

@[simp] theorem sendData_deep (p : Nat) (s : State) : deep (sendData p s) = deep s := by
  unfold sendData; simp; (repeat' split) <;> simp

@[simp] theorem pauseLink_deep (p : Nat) (k : Pause) (s : State) : deep (pauseLink p k s) = deep s := by
  simp [pauseLink]

@[simp] theorem readAhead_deep (p i : Nat) (s : State) : deep (readAhead p i s) = deep s := by
  unfold readAhead; exact deep_foldl _ _ _ (fun s k => by dsimp only; split <;> simp)

@[simp] theorem sendCopy_deep (p i : Nat) (s : State) : deep (sendCopy p i s) = deep s := by
  unfold sendCopy; simp; (repeat' split) <;> simp

@[simp] theorem sendTally_deep (p : Nat) (s : State) : deep (sendTally p s) = deep s := by
  simp [sendTally]

@[simp] theorem sendTime_deep (p : Nat) (s : State) : deep (sendTime p s) = deep s := by
  simp [sendTime]

@[simp] theorem trainWith_deep (p code : Nat) (s : State) : deep (trainWith p code s) = deep s := by
  unfold trainWith; (repeat' split) <;> simp

@[simp] theorem sendTrain_deep (p : Nat) (s : State) : deep (sendTrain p s) = deep s := by
  simp [sendTrain]

@[simp] theorem sendConfirm_deep (p : Nat) (s : State) : deep (sendConfirm p s) = deep s := by
  unfold sendConfirm; (repeat' split) <;> simp

@[simp] theorem sendTraining_deep (p : Nat) (s : State) : deep (sendTraining p s) = deep s := by
  unfold sendTraining; (repeat' split) <;> simp

@[simp] theorem calibrateLink_deep (p : Nat) (s : State) : deep (calibrateLink p s) = deep s := by
  unfold calibrateLink; (repeat' split) <;> simp

@[simp] theorem sendPaused_deep (p : Nat) (k : Pause) (s : State) : deep (sendPaused p k s) = deep s := by
  unfold sendPaused; (repeat' split) <;> simp

@[simp] theorem askPark_deep (p : Nat) (s : State) : deep (askPark p s) = deep s := by
  simp [askPark]

@[simp] theorem grantPark_deep (p : Nat) (s : State) : deep (grantPark p s) = deep s := by
  unfold grantPark; (repeat' split) <;> simp

@[simp] theorem sendIdle_deep (p : Nat) (s : State) : deep (sendIdle p s) = deep s := by
  simp [sendIdle]

@[simp] theorem wakeLpi_deep (p : Nat) (s : State) : deep (wakeLpi p s) = deep s := by
  simp [wakeLpi]

@[simp] theorem countCsym_deep (p lane n : Nat) (s : State) : deep (countCsym p lane n s) = deep s := by
  simp [countCsym]

@[simp] theorem protocolError_deep (p : Nat) (w : Word) (s : State) : deep (protocolError p w s) = deep s := by
  simp [protocolError]

@[simp] theorem clearPartial_deep (p : Nat) (s : State) : deep (clearPartial p s) = deep s := by
  unfold clearPartial; (repeat' split) <;> simp

@[simp] theorem startPartial_deep (p : Nat) (x : Txn) (s : State) : deep (startPartial p x s) = deep s := by
  unfold startPartial; (repeat' split) <;> simp

@[simp] theorem abortOver_deep (p : Nat) (x : Txn) (s : State) : deep (abortOver p x s) = deep s := by
  unfold abortOver; (repeat' split) <;> simp

@[simp] theorem abortStripe_deep (p : Nat) (s : State) : deep (abortStripe p s) = deep s := by
  unfold abortStripe
  dsimp only
  split <;> simp

@[simp] theorem trainFlit_deep (p : Nat) (s : State) : deep (trainFlit p s) = deep s := by
  simp [trainFlit]

@[simp] theorem leaveLpi_deep (p : Nat) (s : State) : deep (leaveLpi p s) = deep s := by
  unfold leaveLpi; (repeat' split) <;> simp

@[simp] theorem granaryBack_deep (p : Nat) (q : BitVec 16) (bs : List Byte) (s : State) : deep (granaryBack p q bs s) = deep s := by
  simp [granaryBack]

@[simp] theorem unlocked_deep (p lane : Nat) (s : State) : deep (unlocked p lane s) = deep s := by
  unfold unlocked; (repeat' split) <;> simp

@[simp] theorem resumeLink_deep (p : Nat) (s : State) : deep (resumeLink p s) = deep s := by
  simp [resumeLink]

@[simp] theorem stopTraining_deep (p : Nat) (s : State) : deep (stopTraining p s) = deep s := by
  unfold stopTraining; (repeat' split) <;> simp

@[simp] theorem speedResume_deep (c : Nat) (s : State) : deep (speedResume c s) = deep s := by
  unfold speedResume; (repeat' split) <;> simp

@[simp] theorem widthReq_deep (p : Nat) (lanes : BitVec 2) (s : State) : deep (widthReq p lanes s) = deep s := by
  simp [widthReq]

@[simp] theorem widthAck_deep (p : Nat) (lanes : BitVec 2) (refuse : Bool) (s : State) : deep (widthAck p lanes refuse s) = deep s := by
  simp [widthAck]

@[simp] theorem widthDone_deep (p : Nat) (s : State) : deep (widthDone p s) = deep s := by
  simp [widthDone]

@[simp] theorem speedReq_deep (p : Nat) (rate : BitVec 2) (s : State) : deep (speedReq p rate s) = deep s := by
  simp [speedReq]

@[simp] theorem speedRefused_deep (c : Nat) (s : State) : deep (speedRefused c s) = deep s := by
  simp [speedRefused]

@[simp] theorem speedAck_deep (p : Nat) (refuse : Bool) (s : State) : deep (speedAck p refuse s) = deep s := by
  simp [speedAck]

@[simp] theorem speedDone_deep (c : Nat) (r : BitVec 2) (s : State) : deep (speedDone c r s) = deep s := by
  simp [speedDone]

@[simp] theorem laneLockChange_deep (p lane : Nat) (lock : Bool) (s : State) : deep (laneLockChange p lane lock s) = deep s := by
  simp [laneLockChange]

/-! ## Faults -/

@[simp] theorem failTowards_deep (d : BitVec 9) (mine : Cmd → Bool) (s : State) : deep (failTowards d mine s).1 = deep s := by
  unfold failTowards
  exact deep_foldl _ _ _ (fun s c => by split <;> simp)

@[simp] theorem losePair_deep (n : Nat) (s : State) : deep (losePair n s).1 = deep s := by
  unfold losePair; dsimp only; split
  · rfl
  · rw [failTowards_deep]; simp

@[simp] theorem loseSigEnt_deep (i : Nat) (s : State) : deep (loseSigEnt i s) = deep s := by
  unfold loseSigEnt; (repeat' split) <;> simp

@[simp] theorem loseAccumulator_deep (id : Nat) (s : State) : deep (loseAccumulator id s) = deep s := by
  unfold loseAccumulator; (repeat' split) <;> simp

/-! ## Curfew -/

@[simp] theorem haltChannel_deep (ch : BitVec 21) (s : State) : deep (haltChannel ch s) = deep s := by
  unfold haltChannel; (repeat' split) <;> simp

end Sys2Proof.Laws
end

