-- ==== Sys2Proof/Laws/State.lean ====
section
/-! SUPPORT. For each operation that changes one entry of one table: what every other field of the state holds afterwards, by
computation. The field that changes is told by the lemmas of Laws/Tables.lean. -/

namespace Sys2Proof.Laws

open Sys2Proof.Machine

/-! ## setLink -/

@[simp] theorem setLink_keeps_part (p : Nat) (x : Link) (s : State) : (setLink p x s).part = s.part := rfl
@[simp] theorem setLink_keeps_otp (p : Nat) (x : Link) (s : State) : (setLink p x s).otp = s.otp := rfl
@[simp] theorem setLink_keeps_pins (p : Nat) (x : Link) (s : State) : (setLink p x s).pins = s.pins := rfl
@[simp] theorem setLink_keeps_gbl (p : Nat) (x : Link) (s : State) : (setLink p x s).gbl = s.gbl := rfl
@[simp] theorem setLink_keeps_alm (p : Nat) (x : Link) (s : State) : (setLink p x s).alm = s.alm := rfl
@[simp] theorem setLink_keeps_pwr (p : Nat) (x : Link) (s : State) : (setLink p x s).pwr = s.pwr := rfl
@[simp] theorem setLink_keeps_flt (p : Nat) (x : Link) (s : State) : (setLink p x s).flt = s.flt := rfl
@[simp] theorem setLink_keeps_ree (p : Nat) (x : Link) (s : State) : (setLink p x s).ree = s.ree := rfl
@[simp] theorem setLink_keeps_stw (p : Nat) (x : Link) (s : State) : (setLink p x s).stw = s.stw := rfl
@[simp] theorem setLink_keeps_chn (p : Nat) (x : Link) (s : State) : (setLink p x s).chn = s.chn := rfl
@[simp] theorem setLink_keeps_eng (p : Nat) (x : Link) (s : State) : (setLink p x s).eng = s.eng := rfl
@[simp] theorem setLink_keeps_memp (p : Nat) (x : Link) (s : State) : (setLink p x s).memp = s.memp := rfl
@[simp] theorem setLink_keeps_ter (p : Nat) (x : Link) (s : State) : (setLink p x s).ter = s.ter := rfl
@[simp] theorem setLink_keeps_wins (p : Nat) (x : Link) (s : State) : (setLink p x s).wins = s.wins := rfl
@[simp] theorem setLink_keeps_dap (p : Nat) (x : Link) (s : State) : (setLink p x s).dap = s.dap := rfl
@[simp] theorem setLink_keeps_route (p : Nat) (x : Link) (s : State) : (setLink p x s).route = s.route := rfl
@[simp] theorem setLink_keeps_tal (p : Nat) (x : Link) (s : State) : (setLink p x s).tal = s.tal := rfl
@[simp] theorem setLink_keeps_tx (p : Nat) (x : Link) (s : State) : (setLink p x s).tx = s.tx := rfl
@[simp] theorem setLink_keeps_brn (p : Nat) (x : Link) (s : State) : (setLink p x s).brn = s.brn := rfl
@[simp] theorem setLink_keeps_sig (p : Nat) (x : Link) (s : State) : (setLink p x s).sig = s.sig := rfl
@[simp] theorem setLink_keeps_groups (p : Nat) (x : Link) (s : State) : (setLink p x s).groups = s.groups := rfl
@[simp] theorem setLink_keeps_lnk_crofts (p : Nat) (x : Link) (s : State) : (setLink p x s).lnk.crofts = s.lnk.crofts := rfl
@[simp] theorem setLink_keeps_lnk_forcedEnd (p : Nat) (x : Link) (s : State) : (setLink p x s).lnk.forcedEnd = s.lnk.forcedEnd := rfl
@[simp] theorem setLink_keeps_lnk_forcedWait (p : Nat) (x : Link) (s : State) : (setLink p x s).lnk.forcedWait = s.lnk.forcedWait := rfl
@[simp] theorem setLink_keeps_lnk_windowEnd (p : Nat) (x : Link) (s : State) : (setLink p x s).lnk.windowEnd = s.lnk.windowEnd := rfl
@[simp] theorem setLink_keeps_mil (p : Nat) (x : Link) (s : State) : (setLink p x s).mil = s.mil := rfl
@[simp] theorem setLink_keeps_par (p : Nat) (x : Link) (s : State) : (setLink p x s).par = s.par := rfl
@[simp] theorem setLink_keeps_obs (p : Nat) (x : Link) (s : State) : (setLink p x s).obs = s.obs := rfl
@[simp] theorem setLink_keeps_cur (p : Nat) (x : Link) (s : State) : (setLink p x s).cur = s.cur := rfl
@[simp] theorem setLink_keeps_mem (p : Nat) (x : Link) (s : State) : (setLink p x s).mem = s.mem := rfl
@[simp] theorem setLink_keeps_free (p : Nat) (x : Link) (s : State) : (setLink p x s).free = s.free := rfl
@[simp] theorem setLink_keeps_pending (p : Nat) (x : Link) (s : State) : (setLink p x s).pending = s.pending := rfl

/-! ## modLink -/

@[simp] theorem modLink_keeps_part (p : Nat) (f : Link → Link) (s : State) : (modLink p f s).part = s.part := rfl
@[simp] theorem modLink_keeps_otp (p : Nat) (f : Link → Link) (s : State) : (modLink p f s).otp = s.otp := rfl
@[simp] theorem modLink_keeps_pins (p : Nat) (f : Link → Link) (s : State) : (modLink p f s).pins = s.pins := rfl
@[simp] theorem modLink_keeps_gbl (p : Nat) (f : Link → Link) (s : State) : (modLink p f s).gbl = s.gbl := rfl
@[simp] theorem modLink_keeps_alm (p : Nat) (f : Link → Link) (s : State) : (modLink p f s).alm = s.alm := rfl
@[simp] theorem modLink_keeps_pwr (p : Nat) (f : Link → Link) (s : State) : (modLink p f s).pwr = s.pwr := rfl
@[simp] theorem modLink_keeps_flt (p : Nat) (f : Link → Link) (s : State) : (modLink p f s).flt = s.flt := rfl
@[simp] theorem modLink_keeps_ree (p : Nat) (f : Link → Link) (s : State) : (modLink p f s).ree = s.ree := rfl
@[simp] theorem modLink_keeps_stw (p : Nat) (f : Link → Link) (s : State) : (modLink p f s).stw = s.stw := rfl
@[simp] theorem modLink_keeps_chn (p : Nat) (f : Link → Link) (s : State) : (modLink p f s).chn = s.chn := rfl
@[simp] theorem modLink_keeps_eng (p : Nat) (f : Link → Link) (s : State) : (modLink p f s).eng = s.eng := rfl
@[simp] theorem modLink_keeps_memp (p : Nat) (f : Link → Link) (s : State) : (modLink p f s).memp = s.memp := rfl
@[simp] theorem modLink_keeps_ter (p : Nat) (f : Link → Link) (s : State) : (modLink p f s).ter = s.ter := rfl
@[simp] theorem modLink_keeps_wins (p : Nat) (f : Link → Link) (s : State) : (modLink p f s).wins = s.wins := rfl
@[simp] theorem modLink_keeps_dap (p : Nat) (f : Link → Link) (s : State) : (modLink p f s).dap = s.dap := rfl
@[simp] theorem modLink_keeps_route (p : Nat) (f : Link → Link) (s : State) : (modLink p f s).route = s.route := rfl
@[simp] theorem modLink_keeps_tal (p : Nat) (f : Link → Link) (s : State) : (modLink p f s).tal = s.tal := rfl
@[simp] theorem modLink_keeps_tx (p : Nat) (f : Link → Link) (s : State) : (modLink p f s).tx = s.tx := rfl
@[simp] theorem modLink_keeps_brn (p : Nat) (f : Link → Link) (s : State) : (modLink p f s).brn = s.brn := rfl
@[simp] theorem modLink_keeps_sig (p : Nat) (f : Link → Link) (s : State) : (modLink p f s).sig = s.sig := rfl
@[simp] theorem modLink_keeps_groups (p : Nat) (f : Link → Link) (s : State) : (modLink p f s).groups = s.groups := rfl
@[simp] theorem modLink_keeps_lnk_crofts (p : Nat) (f : Link → Link) (s : State) : (modLink p f s).lnk.crofts = s.lnk.crofts := rfl
@[simp] theorem modLink_keeps_lnk_forcedEnd (p : Nat) (f : Link → Link) (s : State) : (modLink p f s).lnk.forcedEnd = s.lnk.forcedEnd := rfl
@[simp] theorem modLink_keeps_lnk_forcedWait (p : Nat) (f : Link → Link) (s : State) : (modLink p f s).lnk.forcedWait = s.lnk.forcedWait := rfl
@[simp] theorem modLink_keeps_lnk_windowEnd (p : Nat) (f : Link → Link) (s : State) : (modLink p f s).lnk.windowEnd = s.lnk.windowEnd := rfl
@[simp] theorem modLink_keeps_mil (p : Nat) (f : Link → Link) (s : State) : (modLink p f s).mil = s.mil := rfl
@[simp] theorem modLink_keeps_par (p : Nat) (f : Link → Link) (s : State) : (modLink p f s).par = s.par := rfl
@[simp] theorem modLink_keeps_obs (p : Nat) (f : Link → Link) (s : State) : (modLink p f s).obs = s.obs := rfl
@[simp] theorem modLink_keeps_cur (p : Nat) (f : Link → Link) (s : State) : (modLink p f s).cur = s.cur := rfl
@[simp] theorem modLink_keeps_mem (p : Nat) (f : Link → Link) (s : State) : (modLink p f s).mem = s.mem := rfl
@[simp] theorem modLink_keeps_free (p : Nat) (f : Link → Link) (s : State) : (modLink p f s).free = s.free := rfl
@[simp] theorem modLink_keeps_pending (p : Nat) (f : Link → Link) (s : State) : (modLink p f s).pending = s.pending := rfl

/-! ## modCroft -/

@[simp] theorem modCroft_keeps_part (c : Nat) (f : Croft → Croft) (s : State) : (modCroft c f s).part = s.part := rfl
@[simp] theorem modCroft_keeps_otp (c : Nat) (f : Croft → Croft) (s : State) : (modCroft c f s).otp = s.otp := rfl
@[simp] theorem modCroft_keeps_pins (c : Nat) (f : Croft → Croft) (s : State) : (modCroft c f s).pins = s.pins := rfl
@[simp] theorem modCroft_keeps_gbl (c : Nat) (f : Croft → Croft) (s : State) : (modCroft c f s).gbl = s.gbl := rfl
@[simp] theorem modCroft_keeps_alm (c : Nat) (f : Croft → Croft) (s : State) : (modCroft c f s).alm = s.alm := rfl
@[simp] theorem modCroft_keeps_pwr (c : Nat) (f : Croft → Croft) (s : State) : (modCroft c f s).pwr = s.pwr := rfl
@[simp] theorem modCroft_keeps_flt (c : Nat) (f : Croft → Croft) (s : State) : (modCroft c f s).flt = s.flt := rfl
@[simp] theorem modCroft_keeps_ree (c : Nat) (f : Croft → Croft) (s : State) : (modCroft c f s).ree = s.ree := rfl
@[simp] theorem modCroft_keeps_stw (c : Nat) (f : Croft → Croft) (s : State) : (modCroft c f s).stw = s.stw := rfl
@[simp] theorem modCroft_keeps_chn (c : Nat) (f : Croft → Croft) (s : State) : (modCroft c f s).chn = s.chn := rfl
@[simp] theorem modCroft_keeps_eng (c : Nat) (f : Croft → Croft) (s : State) : (modCroft c f s).eng = s.eng := rfl
@[simp] theorem modCroft_keeps_memp (c : Nat) (f : Croft → Croft) (s : State) : (modCroft c f s).memp = s.memp := rfl
@[simp] theorem modCroft_keeps_ter (c : Nat) (f : Croft → Croft) (s : State) : (modCroft c f s).ter = s.ter := rfl
@[simp] theorem modCroft_keeps_wins (c : Nat) (f : Croft → Croft) (s : State) : (modCroft c f s).wins = s.wins := rfl
@[simp] theorem modCroft_keeps_dap (c : Nat) (f : Croft → Croft) (s : State) : (modCroft c f s).dap = s.dap := rfl
@[simp] theorem modCroft_keeps_route (c : Nat) (f : Croft → Croft) (s : State) : (modCroft c f s).route = s.route := rfl
@[simp] theorem modCroft_keeps_tal (c : Nat) (f : Croft → Croft) (s : State) : (modCroft c f s).tal = s.tal := rfl
@[simp] theorem modCroft_keeps_tx (c : Nat) (f : Croft → Croft) (s : State) : (modCroft c f s).tx = s.tx := rfl
@[simp] theorem modCroft_keeps_brn (c : Nat) (f : Croft → Croft) (s : State) : (modCroft c f s).brn = s.brn := rfl
@[simp] theorem modCroft_keeps_sig (c : Nat) (f : Croft → Croft) (s : State) : (modCroft c f s).sig = s.sig := rfl
@[simp] theorem modCroft_keeps_groups (c : Nat) (f : Croft → Croft) (s : State) : (modCroft c f s).groups = s.groups := rfl
@[simp] theorem modCroft_keeps_lnk_links (c : Nat) (f : Croft → Croft) (s : State) : (modCroft c f s).lnk.links = s.lnk.links := rfl
@[simp] theorem modCroft_keeps_lnk_forcedEnd (c : Nat) (f : Croft → Croft) (s : State) : (modCroft c f s).lnk.forcedEnd = s.lnk.forcedEnd := rfl
@[simp] theorem modCroft_keeps_lnk_forcedWait (c : Nat) (f : Croft → Croft) (s : State) : (modCroft c f s).lnk.forcedWait = s.lnk.forcedWait := rfl
@[simp] theorem modCroft_keeps_lnk_windowEnd (c : Nat) (f : Croft → Croft) (s : State) : (modCroft c f s).lnk.windowEnd = s.lnk.windowEnd := rfl
@[simp] theorem modCroft_keeps_mil (c : Nat) (f : Croft → Croft) (s : State) : (modCroft c f s).mil = s.mil := rfl
@[simp] theorem modCroft_keeps_par (c : Nat) (f : Croft → Croft) (s : State) : (modCroft c f s).par = s.par := rfl
@[simp] theorem modCroft_keeps_obs (c : Nat) (f : Croft → Croft) (s : State) : (modCroft c f s).obs = s.obs := rfl
@[simp] theorem modCroft_keeps_cur (c : Nat) (f : Croft → Croft) (s : State) : (modCroft c f s).cur = s.cur := rfl
@[simp] theorem modCroft_keeps_mem (c : Nat) (f : Croft → Croft) (s : State) : (modCroft c f s).mem = s.mem := rfl
@[simp] theorem modCroft_keeps_free (c : Nat) (f : Croft → Croft) (s : State) : (modCroft c f s).free = s.free := rfl
@[simp] theorem modCroft_keeps_pending (c : Nat) (f : Croft → Croft) (s : State) : (modCroft c f s).pending = s.pending := rfl

/-! ## modParish -/

@[simp] theorem modParish_keeps_part (q : Nat) (f : Parish → Parish) (s : State) : (modParish q f s).part = s.part := rfl
@[simp] theorem modParish_keeps_otp (q : Nat) (f : Parish → Parish) (s : State) : (modParish q f s).otp = s.otp := rfl
@[simp] theorem modParish_keeps_pins (q : Nat) (f : Parish → Parish) (s : State) : (modParish q f s).pins = s.pins := rfl
@[simp] theorem modParish_keeps_gbl (q : Nat) (f : Parish → Parish) (s : State) : (modParish q f s).gbl = s.gbl := rfl
@[simp] theorem modParish_keeps_alm (q : Nat) (f : Parish → Parish) (s : State) : (modParish q f s).alm = s.alm := rfl
@[simp] theorem modParish_keeps_pwr (q : Nat) (f : Parish → Parish) (s : State) : (modParish q f s).pwr = s.pwr := rfl
@[simp] theorem modParish_keeps_flt (q : Nat) (f : Parish → Parish) (s : State) : (modParish q f s).flt = s.flt := rfl
@[simp] theorem modParish_keeps_ree (q : Nat) (f : Parish → Parish) (s : State) : (modParish q f s).ree = s.ree := rfl
@[simp] theorem modParish_keeps_stw (q : Nat) (f : Parish → Parish) (s : State) : (modParish q f s).stw = s.stw := rfl
@[simp] theorem modParish_keeps_chn (q : Nat) (f : Parish → Parish) (s : State) : (modParish q f s).chn = s.chn := rfl
@[simp] theorem modParish_keeps_eng (q : Nat) (f : Parish → Parish) (s : State) : (modParish q f s).eng = s.eng := rfl
@[simp] theorem modParish_keeps_memp (q : Nat) (f : Parish → Parish) (s : State) : (modParish q f s).memp = s.memp := rfl
@[simp] theorem modParish_keeps_ter (q : Nat) (f : Parish → Parish) (s : State) : (modParish q f s).ter = s.ter := rfl
@[simp] theorem modParish_keeps_wins (q : Nat) (f : Parish → Parish) (s : State) : (modParish q f s).wins = s.wins := rfl
@[simp] theorem modParish_keeps_dap (q : Nat) (f : Parish → Parish) (s : State) : (modParish q f s).dap = s.dap := rfl
@[simp] theorem modParish_keeps_route (q : Nat) (f : Parish → Parish) (s : State) : (modParish q f s).route = s.route := rfl
@[simp] theorem modParish_keeps_tal (q : Nat) (f : Parish → Parish) (s : State) : (modParish q f s).tal = s.tal := rfl
@[simp] theorem modParish_keeps_tx (q : Nat) (f : Parish → Parish) (s : State) : (modParish q f s).tx = s.tx := rfl
@[simp] theorem modParish_keeps_brn (q : Nat) (f : Parish → Parish) (s : State) : (modParish q f s).brn = s.brn := rfl
@[simp] theorem modParish_keeps_sig (q : Nat) (f : Parish → Parish) (s : State) : (modParish q f s).sig = s.sig := rfl
@[simp] theorem modParish_keeps_groups (q : Nat) (f : Parish → Parish) (s : State) : (modParish q f s).groups = s.groups := rfl
@[simp] theorem modParish_keeps_lnk (q : Nat) (f : Parish → Parish) (s : State) : (modParish q f s).lnk = s.lnk := rfl
@[simp] theorem modParish_keeps_mil (q : Nat) (f : Parish → Parish) (s : State) : (modParish q f s).mil = s.mil := rfl
@[simp] theorem modParish_keeps_obs (q : Nat) (f : Parish → Parish) (s : State) : (modParish q f s).obs = s.obs := rfl
@[simp] theorem modParish_keeps_cur (q : Nat) (f : Parish → Parish) (s : State) : (modParish q f s).cur = s.cur := rfl
@[simp] theorem modParish_keeps_mem (q : Nat) (f : Parish → Parish) (s : State) : (modParish q f s).mem = s.mem := rfl
@[simp] theorem modParish_keeps_free (q : Nat) (f : Parish → Parish) (s : State) : (modParish q f s).free = s.free := rfl
@[simp] theorem modParish_keeps_pending (q : Nat) (f : Parish → Parish) (s : State) : (modParish q f s).pending = s.pending := rfl

/-! ## modStone -/

@[simp] theorem modStone_keeps_part (n : Nat) (f : Stone → Stone) (s : State) : (modStone n f s).part = s.part := rfl
@[simp] theorem modStone_keeps_otp (n : Nat) (f : Stone → Stone) (s : State) : (modStone n f s).otp = s.otp := rfl
@[simp] theorem modStone_keeps_pins (n : Nat) (f : Stone → Stone) (s : State) : (modStone n f s).pins = s.pins := rfl
@[simp] theorem modStone_keeps_gbl (n : Nat) (f : Stone → Stone) (s : State) : (modStone n f s).gbl = s.gbl := rfl
@[simp] theorem modStone_keeps_alm (n : Nat) (f : Stone → Stone) (s : State) : (modStone n f s).alm = s.alm := rfl
@[simp] theorem modStone_keeps_pwr (n : Nat) (f : Stone → Stone) (s : State) : (modStone n f s).pwr = s.pwr := rfl
@[simp] theorem modStone_keeps_flt (n : Nat) (f : Stone → Stone) (s : State) : (modStone n f s).flt = s.flt := rfl
@[simp] theorem modStone_keeps_ree (n : Nat) (f : Stone → Stone) (s : State) : (modStone n f s).ree = s.ree := rfl
@[simp] theorem modStone_keeps_stw (n : Nat) (f : Stone → Stone) (s : State) : (modStone n f s).stw = s.stw := rfl
@[simp] theorem modStone_keeps_chn (n : Nat) (f : Stone → Stone) (s : State) : (modStone n f s).chn = s.chn := rfl
@[simp] theorem modStone_keeps_eng (n : Nat) (f : Stone → Stone) (s : State) : (modStone n f s).eng = s.eng := rfl
@[simp] theorem modStone_keeps_memp (n : Nat) (f : Stone → Stone) (s : State) : (modStone n f s).memp = s.memp := rfl
@[simp] theorem modStone_keeps_ter (n : Nat) (f : Stone → Stone) (s : State) : (modStone n f s).ter = s.ter := rfl
@[simp] theorem modStone_keeps_wins (n : Nat) (f : Stone → Stone) (s : State) : (modStone n f s).wins = s.wins := rfl
@[simp] theorem modStone_keeps_dap (n : Nat) (f : Stone → Stone) (s : State) : (modStone n f s).dap = s.dap := rfl
@[simp] theorem modStone_keeps_route (n : Nat) (f : Stone → Stone) (s : State) : (modStone n f s).route = s.route := rfl
@[simp] theorem modStone_keeps_tal (n : Nat) (f : Stone → Stone) (s : State) : (modStone n f s).tal = s.tal := rfl
@[simp] theorem modStone_keeps_tx (n : Nat) (f : Stone → Stone) (s : State) : (modStone n f s).tx = s.tx := rfl
@[simp] theorem modStone_keeps_brn (n : Nat) (f : Stone → Stone) (s : State) : (modStone n f s).brn = s.brn := rfl
@[simp] theorem modStone_keeps_sig (n : Nat) (f : Stone → Stone) (s : State) : (modStone n f s).sig = s.sig := rfl
@[simp] theorem modStone_keeps_groups (n : Nat) (f : Stone → Stone) (s : State) : (modStone n f s).groups = s.groups := rfl
@[simp] theorem modStone_keeps_lnk (n : Nat) (f : Stone → Stone) (s : State) : (modStone n f s).lnk = s.lnk := rfl
@[simp] theorem modStone_keeps_mil_pool (n : Nat) (f : Stone → Stone) (s : State) : (modStone n f s).mil.pool = s.mil.pool := rfl
@[simp] theorem modStone_keeps_mil_autoOos (n : Nat) (f : Stone → Stone) (s : State) : (modStone n f s).mil.autoOos = s.mil.autoOos := rfl
@[simp] theorem modStone_keeps_mil_unchecked (n : Nat) (f : Stone → Stone) (s : State) : (modStone n f s).mil.unchecked = s.mil.unchecked := rfl
@[simp] theorem modStone_keeps_mil_mismatch (n : Nat) (f : Stone → Stone) (s : State) : (modStone n f s).mil.mismatch = s.mil.mismatch := rfl
@[simp] theorem modStone_keeps_mil_loads (n : Nat) (f : Stone → Stone) (s : State) : (modStone n f s).mil.loads = s.mil.loads := rfl
@[simp] theorem modStone_keeps_mil_waiting (n : Nat) (f : Stone → Stone) (s : State) : (modStone n f s).mil.waiting = s.mil.waiting := rfl
@[simp] theorem modStone_keeps_mil_held (n : Nat) (f : Stone → Stone) (s : State) : (modStone n f s).mil.held = s.mil.held := rfl
@[simp] theorem modStone_keeps_mil_nextId (n : Nat) (f : Stone → Stone) (s : State) : (modStone n f s).mil.nextId = s.mil.nextId := rfl
@[simp] theorem modStone_keeps_mil_toggled (n : Nat) (f : Stone → Stone) (s : State) : (modStone n f s).mil.toggled = s.mil.toggled := rfl
@[simp] theorem modStone_keeps_mil_regs (n : Nat) (f : Stone → Stone) (s : State) : (modStone n f s).mil.regs = s.mil.regs := rfl
@[simp] theorem modStone_keeps_mil_clears (n : Nat) (f : Stone → Stone) (s : State) : (modStone n f s).mil.clears = s.mil.clears := rfl
@[simp] theorem modStone_keeps_par (n : Nat) (f : Stone → Stone) (s : State) : (modStone n f s).par = s.par := rfl
@[simp] theorem modStone_keeps_obs (n : Nat) (f : Stone → Stone) (s : State) : (modStone n f s).obs = s.obs := rfl
@[simp] theorem modStone_keeps_cur (n : Nat) (f : Stone → Stone) (s : State) : (modStone n f s).cur = s.cur := rfl
@[simp] theorem modStone_keeps_mem (n : Nat) (f : Stone → Stone) (s : State) : (modStone n f s).mem = s.mem := rfl
@[simp] theorem modStone_keeps_free (n : Nat) (f : Stone → Stone) (s : State) : (modStone n f s).free = s.free := rfl
@[simp] theorem modStone_keeps_pending (n : Nat) (f : Stone → Stone) (s : State) : (modStone n f s).pending = s.pending := rfl

/-! ## modWin -/

@[simp] theorem modWin_keeps_part (h : Nat) (f : Win → Win) (s : State) : (modWin h f s).part = s.part := rfl
@[simp] theorem modWin_keeps_otp (h : Nat) (f : Win → Win) (s : State) : (modWin h f s).otp = s.otp := rfl
@[simp] theorem modWin_keeps_pins (h : Nat) (f : Win → Win) (s : State) : (modWin h f s).pins = s.pins := rfl
@[simp] theorem modWin_keeps_gbl (h : Nat) (f : Win → Win) (s : State) : (modWin h f s).gbl = s.gbl := rfl
@[simp] theorem modWin_keeps_alm (h : Nat) (f : Win → Win) (s : State) : (modWin h f s).alm = s.alm := rfl
@[simp] theorem modWin_keeps_pwr (h : Nat) (f : Win → Win) (s : State) : (modWin h f s).pwr = s.pwr := rfl
@[simp] theorem modWin_keeps_flt (h : Nat) (f : Win → Win) (s : State) : (modWin h f s).flt = s.flt := rfl
@[simp] theorem modWin_keeps_ree (h : Nat) (f : Win → Win) (s : State) : (modWin h f s).ree = s.ree := rfl
@[simp] theorem modWin_keeps_stw (h : Nat) (f : Win → Win) (s : State) : (modWin h f s).stw = s.stw := rfl
@[simp] theorem modWin_keeps_chn (h : Nat) (f : Win → Win) (s : State) : (modWin h f s).chn = s.chn := rfl
@[simp] theorem modWin_keeps_eng (h : Nat) (f : Win → Win) (s : State) : (modWin h f s).eng = s.eng := rfl
@[simp] theorem modWin_keeps_memp (h : Nat) (f : Win → Win) (s : State) : (modWin h f s).memp = s.memp := rfl
@[simp] theorem modWin_keeps_ter (h : Nat) (f : Win → Win) (s : State) : (modWin h f s).ter = s.ter := rfl
@[simp] theorem modWin_keeps_wins_cached (h : Nat) (f : Win → Win) (s : State) : (modWin h f s).wins.cached = s.wins.cached := rfl
@[simp] theorem modWin_keeps_wins_closing (h : Nat) (f : Win → Win) (s : State) : (modWin h f s).wins.closing = s.wins.closing := rfl
@[simp] theorem modWin_keeps_dap (h : Nat) (f : Win → Win) (s : State) : (modWin h f s).dap = s.dap := rfl
@[simp] theorem modWin_keeps_route (h : Nat) (f : Win → Win) (s : State) : (modWin h f s).route = s.route := rfl
@[simp] theorem modWin_keeps_tal (h : Nat) (f : Win → Win) (s : State) : (modWin h f s).tal = s.tal := rfl
@[simp] theorem modWin_keeps_tx (h : Nat) (f : Win → Win) (s : State) : (modWin h f s).tx = s.tx := rfl
@[simp] theorem modWin_keeps_brn (h : Nat) (f : Win → Win) (s : State) : (modWin h f s).brn = s.brn := rfl
@[simp] theorem modWin_keeps_sig (h : Nat) (f : Win → Win) (s : State) : (modWin h f s).sig = s.sig := rfl
@[simp] theorem modWin_keeps_groups (h : Nat) (f : Win → Win) (s : State) : (modWin h f s).groups = s.groups := rfl
@[simp] theorem modWin_keeps_lnk (h : Nat) (f : Win → Win) (s : State) : (modWin h f s).lnk = s.lnk := rfl
@[simp] theorem modWin_keeps_mil (h : Nat) (f : Win → Win) (s : State) : (modWin h f s).mil = s.mil := rfl
@[simp] theorem modWin_keeps_par (h : Nat) (f : Win → Win) (s : State) : (modWin h f s).par = s.par := rfl
@[simp] theorem modWin_keeps_obs (h : Nat) (f : Win → Win) (s : State) : (modWin h f s).obs = s.obs := rfl
@[simp] theorem modWin_keeps_cur (h : Nat) (f : Win → Win) (s : State) : (modWin h f s).cur = s.cur := rfl
@[simp] theorem modWin_keeps_mem (h : Nat) (f : Win → Win) (s : State) : (modWin h f s).mem = s.mem := rfl
@[simp] theorem modWin_keeps_free (h : Nat) (f : Win → Win) (s : State) : (modWin h f s).free = s.free := rfl
@[simp] theorem modWin_keeps_pending (h : Nat) (f : Win → Win) (s : State) : (modWin h f s).pending = s.pending := rfl

/-! ## modSrcTally -/

@[simp] theorem modSrcTally_keeps_part (d : Nat) (f : SrcTally → SrcTally) (s : State) : (modSrcTally d f s).part = s.part := rfl
@[simp] theorem modSrcTally_keeps_otp (d : Nat) (f : SrcTally → SrcTally) (s : State) : (modSrcTally d f s).otp = s.otp := rfl
@[simp] theorem modSrcTally_keeps_pins (d : Nat) (f : SrcTally → SrcTally) (s : State) : (modSrcTally d f s).pins = s.pins := rfl
@[simp] theorem modSrcTally_keeps_gbl (d : Nat) (f : SrcTally → SrcTally) (s : State) : (modSrcTally d f s).gbl = s.gbl := rfl
@[simp] theorem modSrcTally_keeps_alm (d : Nat) (f : SrcTally → SrcTally) (s : State) : (modSrcTally d f s).alm = s.alm := rfl
@[simp] theorem modSrcTally_keeps_pwr (d : Nat) (f : SrcTally → SrcTally) (s : State) : (modSrcTally d f s).pwr = s.pwr := rfl
@[simp] theorem modSrcTally_keeps_flt (d : Nat) (f : SrcTally → SrcTally) (s : State) : (modSrcTally d f s).flt = s.flt := rfl
@[simp] theorem modSrcTally_keeps_ree (d : Nat) (f : SrcTally → SrcTally) (s : State) : (modSrcTally d f s).ree = s.ree := rfl
@[simp] theorem modSrcTally_keeps_stw (d : Nat) (f : SrcTally → SrcTally) (s : State) : (modSrcTally d f s).stw = s.stw := rfl
@[simp] theorem modSrcTally_keeps_chn (d : Nat) (f : SrcTally → SrcTally) (s : State) : (modSrcTally d f s).chn = s.chn := rfl
@[simp] theorem modSrcTally_keeps_eng (d : Nat) (f : SrcTally → SrcTally) (s : State) : (modSrcTally d f s).eng = s.eng := rfl
@[simp] theorem modSrcTally_keeps_memp (d : Nat) (f : SrcTally → SrcTally) (s : State) : (modSrcTally d f s).memp = s.memp := rfl
@[simp] theorem modSrcTally_keeps_ter (d : Nat) (f : SrcTally → SrcTally) (s : State) : (modSrcTally d f s).ter = s.ter := rfl
@[simp] theorem modSrcTally_keeps_wins (d : Nat) (f : SrcTally → SrcTally) (s : State) : (modSrcTally d f s).wins = s.wins := rfl
@[simp] theorem modSrcTally_keeps_dap (d : Nat) (f : SrcTally → SrcTally) (s : State) : (modSrcTally d f s).dap = s.dap := rfl
@[simp] theorem modSrcTally_keeps_route (d : Nat) (f : SrcTally → SrcTally) (s : State) : (modSrcTally d f s).route = s.route := rfl
@[simp] theorem modSrcTally_keeps_tal_ctl (d : Nat) (f : SrcTally → SrcTally) (s : State) : (modSrcTally d f s).tal.ctl = s.tal.ctl := rfl
@[simp] theorem modSrcTally_keeps_tal_tgt (d : Nat) (f : SrcTally → SrcTally) (s : State) : (modSrcTally d f s).tal.tgt = s.tal.tgt := rfl
@[simp] theorem modSrcTally_keeps_tal_plan (d : Nat) (f : SrcTally → SrcTally) (s : State) : (modSrcTally d f s).tal.plan = s.tal.plan := rfl
@[simp] theorem modSrcTally_keeps_tal_slots (d : Nat) (f : SrcTally → SrcTally) (s : State) : (modSrcTally d f s).tal.slots = s.tal.slots := rfl
@[simp] theorem modSrcTally_keeps_tal_releases (d : Nat) (f : SrcTally → SrcTally) (s : State) : (modSrcTally d f s).tal.releases = s.tal.releases := rfl
@[simp] theorem modSrcTally_keeps_tal_rrNext (d : Nat) (f : SrcTally → SrcTally) (s : State) : (modSrcTally d f s).tal.rrNext = s.tal.rrNext := rfl
@[simp] theorem modSrcTally_keeps_tal_refreshAt (d : Nat) (f : SrcTally → SrcTally) (s : State) : (modSrcTally d f s).tal.refreshAt = s.tal.refreshAt := rfl
@[simp] theorem modSrcTally_keeps_tx (d : Nat) (f : SrcTally → SrcTally) (s : State) : (modSrcTally d f s).tx = s.tx := rfl
@[simp] theorem modSrcTally_keeps_brn (d : Nat) (f : SrcTally → SrcTally) (s : State) : (modSrcTally d f s).brn = s.brn := rfl
@[simp] theorem modSrcTally_keeps_sig (d : Nat) (f : SrcTally → SrcTally) (s : State) : (modSrcTally d f s).sig = s.sig := rfl
@[simp] theorem modSrcTally_keeps_groups (d : Nat) (f : SrcTally → SrcTally) (s : State) : (modSrcTally d f s).groups = s.groups := rfl
@[simp] theorem modSrcTally_keeps_lnk (d : Nat) (f : SrcTally → SrcTally) (s : State) : (modSrcTally d f s).lnk = s.lnk := rfl
@[simp] theorem modSrcTally_keeps_mil (d : Nat) (f : SrcTally → SrcTally) (s : State) : (modSrcTally d f s).mil = s.mil := rfl
@[simp] theorem modSrcTally_keeps_par (d : Nat) (f : SrcTally → SrcTally) (s : State) : (modSrcTally d f s).par = s.par := rfl
@[simp] theorem modSrcTally_keeps_obs (d : Nat) (f : SrcTally → SrcTally) (s : State) : (modSrcTally d f s).obs = s.obs := rfl
@[simp] theorem modSrcTally_keeps_cur (d : Nat) (f : SrcTally → SrcTally) (s : State) : (modSrcTally d f s).cur = s.cur := rfl
@[simp] theorem modSrcTally_keeps_mem (d : Nat) (f : SrcTally → SrcTally) (s : State) : (modSrcTally d f s).mem = s.mem := rfl
@[simp] theorem modSrcTally_keeps_free (d : Nat) (f : SrcTally → SrcTally) (s : State) : (modSrcTally d f s).free = s.free := rfl
@[simp] theorem modSrcTally_keeps_pending (d : Nat) (f : SrcTally → SrcTally) (s : State) : (modSrcTally d f s).pending = s.pending := rfl

/-! ## modTgtTally -/

@[simp] theorem modTgtTally_keeps_part (d : Nat) (f : TgtTally → TgtTally) (s : State) : (modTgtTally d f s).part = s.part := rfl
@[simp] theorem modTgtTally_keeps_otp (d : Nat) (f : TgtTally → TgtTally) (s : State) : (modTgtTally d f s).otp = s.otp := rfl
@[simp] theorem modTgtTally_keeps_pins (d : Nat) (f : TgtTally → TgtTally) (s : State) : (modTgtTally d f s).pins = s.pins := rfl
@[simp] theorem modTgtTally_keeps_gbl (d : Nat) (f : TgtTally → TgtTally) (s : State) : (modTgtTally d f s).gbl = s.gbl := rfl
@[simp] theorem modTgtTally_keeps_alm (d : Nat) (f : TgtTally → TgtTally) (s : State) : (modTgtTally d f s).alm = s.alm := rfl
@[simp] theorem modTgtTally_keeps_pwr (d : Nat) (f : TgtTally → TgtTally) (s : State) : (modTgtTally d f s).pwr = s.pwr := rfl
@[simp] theorem modTgtTally_keeps_flt (d : Nat) (f : TgtTally → TgtTally) (s : State) : (modTgtTally d f s).flt = s.flt := rfl
@[simp] theorem modTgtTally_keeps_ree (d : Nat) (f : TgtTally → TgtTally) (s : State) : (modTgtTally d f s).ree = s.ree := rfl
@[simp] theorem modTgtTally_keeps_stw (d : Nat) (f : TgtTally → TgtTally) (s : State) : (modTgtTally d f s).stw = s.stw := rfl
@[simp] theorem modTgtTally_keeps_chn (d : Nat) (f : TgtTally → TgtTally) (s : State) : (modTgtTally d f s).chn = s.chn := rfl
@[simp] theorem modTgtTally_keeps_eng (d : Nat) (f : TgtTally → TgtTally) (s : State) : (modTgtTally d f s).eng = s.eng := rfl
@[simp] theorem modTgtTally_keeps_memp (d : Nat) (f : TgtTally → TgtTally) (s : State) : (modTgtTally d f s).memp = s.memp := rfl
@[simp] theorem modTgtTally_keeps_ter (d : Nat) (f : TgtTally → TgtTally) (s : State) : (modTgtTally d f s).ter = s.ter := rfl
@[simp] theorem modTgtTally_keeps_wins (d : Nat) (f : TgtTally → TgtTally) (s : State) : (modTgtTally d f s).wins = s.wins := rfl
@[simp] theorem modTgtTally_keeps_dap (d : Nat) (f : TgtTally → TgtTally) (s : State) : (modTgtTally d f s).dap = s.dap := rfl
@[simp] theorem modTgtTally_keeps_route (d : Nat) (f : TgtTally → TgtTally) (s : State) : (modTgtTally d f s).route = s.route := rfl
@[simp] theorem modTgtTally_keeps_tal_ctl (d : Nat) (f : TgtTally → TgtTally) (s : State) : (modTgtTally d f s).tal.ctl = s.tal.ctl := rfl
@[simp] theorem modTgtTally_keeps_tal_src (d : Nat) (f : TgtTally → TgtTally) (s : State) : (modTgtTally d f s).tal.src = s.tal.src := rfl
@[simp] theorem modTgtTally_keeps_tal_plan (d : Nat) (f : TgtTally → TgtTally) (s : State) : (modTgtTally d f s).tal.plan = s.tal.plan := rfl
@[simp] theorem modTgtTally_keeps_tal_slots (d : Nat) (f : TgtTally → TgtTally) (s : State) : (modTgtTally d f s).tal.slots = s.tal.slots := rfl
@[simp] theorem modTgtTally_keeps_tal_releases (d : Nat) (f : TgtTally → TgtTally) (s : State) : (modTgtTally d f s).tal.releases = s.tal.releases := rfl
@[simp] theorem modTgtTally_keeps_tal_rrNext (d : Nat) (f : TgtTally → TgtTally) (s : State) : (modTgtTally d f s).tal.rrNext = s.tal.rrNext := rfl
@[simp] theorem modTgtTally_keeps_tal_refreshAt (d : Nat) (f : TgtTally → TgtTally) (s : State) : (modTgtTally d f s).tal.refreshAt = s.tal.refreshAt := rfl
@[simp] theorem modTgtTally_keeps_tx (d : Nat) (f : TgtTally → TgtTally) (s : State) : (modTgtTally d f s).tx = s.tx := rfl
@[simp] theorem modTgtTally_keeps_brn (d : Nat) (f : TgtTally → TgtTally) (s : State) : (modTgtTally d f s).brn = s.brn := rfl
@[simp] theorem modTgtTally_keeps_sig (d : Nat) (f : TgtTally → TgtTally) (s : State) : (modTgtTally d f s).sig = s.sig := rfl
@[simp] theorem modTgtTally_keeps_groups (d : Nat) (f : TgtTally → TgtTally) (s : State) : (modTgtTally d f s).groups = s.groups := rfl
@[simp] theorem modTgtTally_keeps_lnk (d : Nat) (f : TgtTally → TgtTally) (s : State) : (modTgtTally d f s).lnk = s.lnk := rfl
@[simp] theorem modTgtTally_keeps_mil (d : Nat) (f : TgtTally → TgtTally) (s : State) : (modTgtTally d f s).mil = s.mil := rfl
@[simp] theorem modTgtTally_keeps_par (d : Nat) (f : TgtTally → TgtTally) (s : State) : (modTgtTally d f s).par = s.par := rfl
@[simp] theorem modTgtTally_keeps_obs (d : Nat) (f : TgtTally → TgtTally) (s : State) : (modTgtTally d f s).obs = s.obs := rfl
@[simp] theorem modTgtTally_keeps_cur (d : Nat) (f : TgtTally → TgtTally) (s : State) : (modTgtTally d f s).cur = s.cur := rfl
@[simp] theorem modTgtTally_keeps_mem (d : Nat) (f : TgtTally → TgtTally) (s : State) : (modTgtTally d f s).mem = s.mem := rfl
@[simp] theorem modTgtTally_keeps_free (d : Nat) (f : TgtTally → TgtTally) (s : State) : (modTgtTally d f s).free = s.free := rfl
@[simp] theorem modTgtTally_keeps_pending (d : Nat) (f : TgtTally → TgtTally) (s : State) : (modTgtTally d f s).pending = s.pending := rfl

/-! ## modFence -/

@[simp] theorem modFence_keeps_part (d : Nat) (f : Fence → Fence) (s : State) : (modFence d f s).part = s.part := rfl
@[simp] theorem modFence_keeps_otp (d : Nat) (f : Fence → Fence) (s : State) : (modFence d f s).otp = s.otp := rfl
@[simp] theorem modFence_keeps_pins (d : Nat) (f : Fence → Fence) (s : State) : (modFence d f s).pins = s.pins := rfl
@[simp] theorem modFence_keeps_gbl (d : Nat) (f : Fence → Fence) (s : State) : (modFence d f s).gbl = s.gbl := rfl
@[simp] theorem modFence_keeps_alm (d : Nat) (f : Fence → Fence) (s : State) : (modFence d f s).alm = s.alm := rfl
@[simp] theorem modFence_keeps_pwr (d : Nat) (f : Fence → Fence) (s : State) : (modFence d f s).pwr = s.pwr := rfl
@[simp] theorem modFence_keeps_flt (d : Nat) (f : Fence → Fence) (s : State) : (modFence d f s).flt = s.flt := rfl
@[simp] theorem modFence_keeps_ree (d : Nat) (f : Fence → Fence) (s : State) : (modFence d f s).ree = s.ree := rfl
@[simp] theorem modFence_keeps_stw (d : Nat) (f : Fence → Fence) (s : State) : (modFence d f s).stw = s.stw := rfl
@[simp] theorem modFence_keeps_chn (d : Nat) (f : Fence → Fence) (s : State) : (modFence d f s).chn = s.chn := rfl
@[simp] theorem modFence_keeps_eng (d : Nat) (f : Fence → Fence) (s : State) : (modFence d f s).eng = s.eng := rfl
@[simp] theorem modFence_keeps_memp (d : Nat) (f : Fence → Fence) (s : State) : (modFence d f s).memp = s.memp := rfl
@[simp] theorem modFence_keeps_ter (d : Nat) (f : Fence → Fence) (s : State) : (modFence d f s).ter = s.ter := rfl
@[simp] theorem modFence_keeps_wins (d : Nat) (f : Fence → Fence) (s : State) : (modFence d f s).wins = s.wins := rfl
@[simp] theorem modFence_keeps_dap (d : Nat) (f : Fence → Fence) (s : State) : (modFence d f s).dap = s.dap := rfl
@[simp] theorem modFence_keeps_route_ctl (d : Nat) (f : Fence → Fence) (s : State) : (modFence d f s).route.ctl = s.route.ctl := rfl
@[simp] theorem modFence_keeps_route_epoch (d : Nat) (f : Fence → Fence) (s : State) : (modFence d f s).route.epoch = s.route.epoch := rfl
@[simp] theorem modFence_keeps_route_bank0 (d : Nat) (f : Fence → Fence) (s : State) : (modFence d f s).route.bank0 = s.route.bank0 := rfl
@[simp] theorem modFence_keeps_route_bank1 (d : Nat) (f : Fence → Fence) (s : State) : (modFence d f s).route.bank1 = s.route.bank1 := rfl
@[simp] theorem modFence_keeps_route_loaded (d : Nat) (f : Fence → Fence) (s : State) : (modFence d f s).route.loaded = s.route.loaded := rfl
@[simp] theorem modFence_keeps_route_settled (d : Nat) (f : Fence → Fence) (s : State) : (modFence d f s).route.settled = s.route.settled := rfl
@[simp] theorem modFence_keeps_route_maps (d : Nat) (f : Fence → Fence) (s : State) : (modFence d f s).route.maps = s.route.maps := rfl
@[simp] theorem modFence_keeps_route_cursors (d : Nat) (f : Fence → Fence) (s : State) : (modFence d f s).route.cursors = s.route.cursors := rfl
@[simp] theorem modFence_keeps_route_linkUp (d : Nat) (f : Fence → Fence) (s : State) : (modFence d f s).route.linkUp = s.route.linkUp := rfl
@[simp] theorem modFence_keeps_route_drain (d : Nat) (f : Fence → Fence) (s : State) : (modFence d f s).route.drain = s.route.drain := rfl
@[simp] theorem modFence_keeps_route_calPause (d : Nat) (f : Fence → Fence) (s : State) : (modFence d f s).route.calPause = s.route.calPause := rfl
@[simp] theorem modFence_keeps_route_parkDrain (d : Nat) (f : Fence → Fence) (s : State) : (modFence d f s).route.parkDrain = s.route.parkDrain := rfl
@[simp] theorem modFence_keeps_route_drains (d : Nat) (f : Fence → Fence) (s : State) : (modFence d f s).route.drains = s.route.drains := rfl
@[simp] theorem modFence_keeps_tal (d : Nat) (f : Fence → Fence) (s : State) : (modFence d f s).tal = s.tal := rfl
@[simp] theorem modFence_keeps_tx (d : Nat) (f : Fence → Fence) (s : State) : (modFence d f s).tx = s.tx := rfl
@[simp] theorem modFence_keeps_brn (d : Nat) (f : Fence → Fence) (s : State) : (modFence d f s).brn = s.brn := rfl
@[simp] theorem modFence_keeps_sig (d : Nat) (f : Fence → Fence) (s : State) : (modFence d f s).sig = s.sig := rfl
@[simp] theorem modFence_keeps_groups (d : Nat) (f : Fence → Fence) (s : State) : (modFence d f s).groups = s.groups := rfl
@[simp] theorem modFence_keeps_lnk (d : Nat) (f : Fence → Fence) (s : State) : (modFence d f s).lnk = s.lnk := rfl
@[simp] theorem modFence_keeps_mil (d : Nat) (f : Fence → Fence) (s : State) : (modFence d f s).mil = s.mil := rfl
@[simp] theorem modFence_keeps_par (d : Nat) (f : Fence → Fence) (s : State) : (modFence d f s).par = s.par := rfl
@[simp] theorem modFence_keeps_obs (d : Nat) (f : Fence → Fence) (s : State) : (modFence d f s).obs = s.obs := rfl
@[simp] theorem modFence_keeps_cur (d : Nat) (f : Fence → Fence) (s : State) : (modFence d f s).cur = s.cur := rfl
@[simp] theorem modFence_keeps_mem (d : Nat) (f : Fence → Fence) (s : State) : (modFence d f s).mem = s.mem := rfl
@[simp] theorem modFence_keeps_free (d : Nat) (f : Fence → Fence) (s : State) : (modFence d f s).free = s.free := rfl
@[simp] theorem modFence_keeps_pending (d : Nat) (f : Fence → Fence) (s : State) : (modFence d f s).pending = s.pending := rfl

/-! ## modSlot -/

@[simp] theorem modSlot_keeps_part (n : Nat) (f : PairSlot → PairSlot) (s : State) : (modSlot n f s).part = s.part := rfl
@[simp] theorem modSlot_keeps_otp (n : Nat) (f : PairSlot → PairSlot) (s : State) : (modSlot n f s).otp = s.otp := rfl
@[simp] theorem modSlot_keeps_pins (n : Nat) (f : PairSlot → PairSlot) (s : State) : (modSlot n f s).pins = s.pins := rfl
@[simp] theorem modSlot_keeps_gbl (n : Nat) (f : PairSlot → PairSlot) (s : State) : (modSlot n f s).gbl = s.gbl := rfl
@[simp] theorem modSlot_keeps_alm (n : Nat) (f : PairSlot → PairSlot) (s : State) : (modSlot n f s).alm = s.alm := rfl
@[simp] theorem modSlot_keeps_pwr (n : Nat) (f : PairSlot → PairSlot) (s : State) : (modSlot n f s).pwr = s.pwr := rfl
@[simp] theorem modSlot_keeps_flt (n : Nat) (f : PairSlot → PairSlot) (s : State) : (modSlot n f s).flt = s.flt := rfl
@[simp] theorem modSlot_keeps_ree_boot (n : Nat) (f : PairSlot → PairSlot) (s : State) : (modSlot n f s).ree.boot = s.ree.boot := rfl
@[simp] theorem modSlot_keeps_ree_fwSvn (n : Nat) (f : PairSlot → PairSlot) (s : State) : (modSlot n f s).ree.fwSvn = s.ree.fwSvn := rfl
@[simp] theorem modSlot_keeps_ree_otpSvn (n : Nat) (f : PairSlot → PairSlot) (s : State) : (modSlot n f s).ree.otpSvn = s.ree.otpSvn := rfl
@[simp] theorem modSlot_keeps_ree_sealReady (n : Nat) (f : PairSlot → PairSlot) (s : State) : (modSlot n f s).ree.sealReady = s.ree.sealReady := rfl
@[simp] theorem modSlot_keeps_ree_sealMap (n : Nat) (f : PairSlot → PairSlot) (s : State) : (modSlot n f s).ree.sealMap = s.ree.sealMap := rfl
@[simp] theorem modSlot_keeps_ree_notes (n : Nat) (f : PairSlot → PairSlot) (s : State) : (modSlot n f s).ree.notes = s.ree.notes := rfl
@[simp] theorem modSlot_keeps_ree_noteSeq (n : Nat) (f : PairSlot → PairSlot) (s : State) : (modSlot n f s).ree.noteSeq = s.ree.noteSeq := rfl
@[simp] theorem modSlot_keeps_ree_noteLost (n : Nat) (f : PairSlot → PairSlot) (s : State) : (modSlot n f s).ree.noteLost = s.ree.noteLost := rfl
@[simp] theorem modSlot_keeps_ree_pwrFloor (n : Nat) (f : PairSlot → PairSlot) (s : State) : (modSlot n f s).ree.pwrFloor = s.ree.pwrFloor := rfl
@[simp] theorem modSlot_keeps_ree_pwrBrake (n : Nat) (f : PairSlot → PairSlot) (s : State) : (modSlot n f s).ree.pwrBrake = s.ree.pwrBrake := rfl
@[simp] theorem modSlot_keeps_ree_orphan (n : Nat) (f : PairSlot → PairSlot) (s : State) : (modSlot n f s).ree.orphan = s.ree.orphan := rfl
@[simp] theorem modSlot_keeps_ree_fltCtl (n : Nat) (f : PairSlot → PairSlot) (s : State) : (modSlot n f s).ree.fltCtl = s.ree.fltCtl := rfl
@[simp] theorem modSlot_keeps_ree_fltSafe (n : Nat) (f : PairSlot → PairSlot) (s : State) : (modSlot n f s).ree.fltSafe = s.ree.fltSafe := rfl
@[simp] theorem modSlot_keeps_ree_fltCount (n : Nat) (f : PairSlot → PairSlot) (s : State) : (modSlot n f s).ree.fltCount = s.ree.fltCount := rfl
@[simp] theorem modSlot_keeps_ree_fltImm (n : Nat) (f : PairSlot → PairSlot) (s : State) : (modSlot n f s).ree.fltImm = s.ree.fltImm := rfl
@[simp] theorem modSlot_keeps_ree_fltFatal (n : Nat) (f : PairSlot → PairSlot) (s : State) : (modSlot n f s).ree.fltFatal = s.ree.fltFatal := rfl
@[simp] theorem modSlot_keeps_ree_srcSel (n : Nat) (f : PairSlot → PairSlot) (s : State) : (modSlot n f s).ree.srcSel = s.ree.srcSel := rfl
@[simp] theorem modSlot_keeps_ree_srcProfile (n : Nat) (f : PairSlot → PairSlot) (s : State) : (modSlot n f s).ree.srcProfile = s.ree.srcProfile := rfl
@[simp] theorem modSlot_keeps_ree_profiles (n : Nat) (f : PairSlot → PairSlot) (s : State) : (modSlot n f s).ree.profiles = s.ree.profiles := rfl
@[simp] theorem modSlot_keeps_ree_jobs (n : Nat) (f : PairSlot → PairSlot) (s : State) : (modSlot n f s).ree.jobs = s.ree.jobs := rfl
@[simp] theorem modSlot_keeps_ree_created (n : Nat) (f : PairSlot → PairSlot) (s : State) : (modSlot n f s).ree.created = s.ree.created := rfl
@[simp] theorem modSlot_keeps_ree_work (n : Nat) (f : PairSlot → PairSlot) (s : State) : (modSlot n f s).ree.work = s.ree.work := rfl
@[simp] theorem modSlot_keeps_ree_sessions (n : Nat) (f : PairSlot → PairSlot) (s : State) : (modSlot n f s).ree.sessions = s.ree.sessions := rfl
@[simp] theorem modSlot_keeps_ree_sessionSeq (n : Nat) (f : PairSlot → PairSlot) (s : State) : (modSlot n f s).ree.sessionSeq = s.ree.sessionSeq := rfl
@[simp] theorem modSlot_keeps_ree_version (n : Nat) (f : PairSlot → PairSlot) (s : State) : (modSlot n f s).ree.version = s.ree.version := rfl
@[simp] theorem modSlot_keeps_ree_fwHead (n : Nat) (f : PairSlot → PairSlot) (s : State) : (modSlot n f s).ree.fwHead = s.ree.fwHead := rfl
@[simp] theorem modSlot_keeps_ree_fwCopied (n : Nat) (f : PairSlot → PairSlot) (s : State) : (modSlot n f s).ree.fwCopied = s.ree.fwCopied := rfl
@[simp] theorem modSlot_keeps_stw (n : Nat) (f : PairSlot → PairSlot) (s : State) : (modSlot n f s).stw = s.stw := rfl
@[simp] theorem modSlot_keeps_chn (n : Nat) (f : PairSlot → PairSlot) (s : State) : (modSlot n f s).chn = s.chn := rfl
@[simp] theorem modSlot_keeps_eng (n : Nat) (f : PairSlot → PairSlot) (s : State) : (modSlot n f s).eng = s.eng := rfl
@[simp] theorem modSlot_keeps_memp (n : Nat) (f : PairSlot → PairSlot) (s : State) : (modSlot n f s).memp = s.memp := rfl
@[simp] theorem modSlot_keeps_ter (n : Nat) (f : PairSlot → PairSlot) (s : State) : (modSlot n f s).ter = s.ter := rfl
@[simp] theorem modSlot_keeps_wins (n : Nat) (f : PairSlot → PairSlot) (s : State) : (modSlot n f s).wins = s.wins := rfl
@[simp] theorem modSlot_keeps_dap (n : Nat) (f : PairSlot → PairSlot) (s : State) : (modSlot n f s).dap = s.dap := rfl
@[simp] theorem modSlot_keeps_route (n : Nat) (f : PairSlot → PairSlot) (s : State) : (modSlot n f s).route = s.route := rfl
@[simp] theorem modSlot_keeps_tal (n : Nat) (f : PairSlot → PairSlot) (s : State) : (modSlot n f s).tal = s.tal := rfl
@[simp] theorem modSlot_keeps_tx (n : Nat) (f : PairSlot → PairSlot) (s : State) : (modSlot n f s).tx = s.tx := rfl
@[simp] theorem modSlot_keeps_brn (n : Nat) (f : PairSlot → PairSlot) (s : State) : (modSlot n f s).brn = s.brn := rfl
@[simp] theorem modSlot_keeps_sig (n : Nat) (f : PairSlot → PairSlot) (s : State) : (modSlot n f s).sig = s.sig := rfl
@[simp] theorem modSlot_keeps_groups (n : Nat) (f : PairSlot → PairSlot) (s : State) : (modSlot n f s).groups = s.groups := rfl
@[simp] theorem modSlot_keeps_lnk (n : Nat) (f : PairSlot → PairSlot) (s : State) : (modSlot n f s).lnk = s.lnk := rfl
@[simp] theorem modSlot_keeps_mil (n : Nat) (f : PairSlot → PairSlot) (s : State) : (modSlot n f s).mil = s.mil := rfl
@[simp] theorem modSlot_keeps_par (n : Nat) (f : PairSlot → PairSlot) (s : State) : (modSlot n f s).par = s.par := rfl
@[simp] theorem modSlot_keeps_obs (n : Nat) (f : PairSlot → PairSlot) (s : State) : (modSlot n f s).obs = s.obs := rfl
@[simp] theorem modSlot_keeps_cur (n : Nat) (f : PairSlot → PairSlot) (s : State) : (modSlot n f s).cur = s.cur := rfl
@[simp] theorem modSlot_keeps_mem (n : Nat) (f : PairSlot → PairSlot) (s : State) : (modSlot n f s).mem = s.mem := rfl
@[simp] theorem modSlot_keeps_free (n : Nat) (f : PairSlot → PairSlot) (s : State) : (modSlot n f s).free = s.free := rfl
@[simp] theorem modSlot_keeps_pending (n : Nat) (f : PairSlot → PairSlot) (s : State) : (modSlot n f s).pending = s.pending := rfl

/-! ## modCmd -/

@[simp] theorem modCmd_keeps_part (id : Nat) (f : Cmd → Cmd) (s : State) : (modCmd id f s).part = s.part := rfl
@[simp] theorem modCmd_keeps_otp (id : Nat) (f : Cmd → Cmd) (s : State) : (modCmd id f s).otp = s.otp := rfl
@[simp] theorem modCmd_keeps_pins (id : Nat) (f : Cmd → Cmd) (s : State) : (modCmd id f s).pins = s.pins := rfl
@[simp] theorem modCmd_keeps_gbl (id : Nat) (f : Cmd → Cmd) (s : State) : (modCmd id f s).gbl = s.gbl := rfl
@[simp] theorem modCmd_keeps_alm (id : Nat) (f : Cmd → Cmd) (s : State) : (modCmd id f s).alm = s.alm := rfl
@[simp] theorem modCmd_keeps_pwr (id : Nat) (f : Cmd → Cmd) (s : State) : (modCmd id f s).pwr = s.pwr := rfl
@[simp] theorem modCmd_keeps_flt (id : Nat) (f : Cmd → Cmd) (s : State) : (modCmd id f s).flt = s.flt := rfl
@[simp] theorem modCmd_keeps_ree (id : Nat) (f : Cmd → Cmd) (s : State) : (modCmd id f s).ree = s.ree := rfl
@[simp] theorem modCmd_keeps_stw (id : Nat) (f : Cmd → Cmd) (s : State) : (modCmd id f s).stw = s.stw := rfl
@[simp] theorem modCmd_keeps_chn (id : Nat) (f : Cmd → Cmd) (s : State) : (modCmd id f s).chn = s.chn := rfl
@[simp] theorem modCmd_keeps_eng_nextId (id : Nat) (f : Cmd → Cmd) (s : State) : (modCmd id f s).eng.nextId = s.eng.nextId := rfl
@[simp] theorem modCmd_keeps_eng_tagsUsed (id : Nat) (f : Cmd → Cmd) (s : State) : (modCmd id f s).eng.tagsUsed = s.eng.tagsUsed := rfl
@[simp] theorem modCmd_keeps_eng_tagWait (id : Nat) (f : Cmd → Cmd) (s : State) : (modCmd id f s).eng.tagWait = s.eng.tagWait := rfl
@[simp] theorem modCmd_keeps_eng_tagHold (id : Nat) (f : Cmd → Cmd) (s : State) : (modCmd id f s).eng.tagHold = s.eng.tagHold := rfl
@[simp] theorem modCmd_keeps_memp (id : Nat) (f : Cmd → Cmd) (s : State) : (modCmd id f s).memp = s.memp := rfl
@[simp] theorem modCmd_keeps_ter (id : Nat) (f : Cmd → Cmd) (s : State) : (modCmd id f s).ter = s.ter := rfl
@[simp] theorem modCmd_keeps_wins (id : Nat) (f : Cmd → Cmd) (s : State) : (modCmd id f s).wins = s.wins := rfl
@[simp] theorem modCmd_keeps_dap (id : Nat) (f : Cmd → Cmd) (s : State) : (modCmd id f s).dap = s.dap := rfl
@[simp] theorem modCmd_keeps_route (id : Nat) (f : Cmd → Cmd) (s : State) : (modCmd id f s).route = s.route := rfl
@[simp] theorem modCmd_keeps_tal (id : Nat) (f : Cmd → Cmd) (s : State) : (modCmd id f s).tal = s.tal := rfl
@[simp] theorem modCmd_keeps_tx (id : Nat) (f : Cmd → Cmd) (s : State) : (modCmd id f s).tx = s.tx := rfl
@[simp] theorem modCmd_keeps_brn (id : Nat) (f : Cmd → Cmd) (s : State) : (modCmd id f s).brn = s.brn := rfl
@[simp] theorem modCmd_keeps_sig (id : Nat) (f : Cmd → Cmd) (s : State) : (modCmd id f s).sig = s.sig := rfl
@[simp] theorem modCmd_keeps_groups (id : Nat) (f : Cmd → Cmd) (s : State) : (modCmd id f s).groups = s.groups := rfl
@[simp] theorem modCmd_keeps_lnk (id : Nat) (f : Cmd → Cmd) (s : State) : (modCmd id f s).lnk = s.lnk := rfl
@[simp] theorem modCmd_keeps_mil (id : Nat) (f : Cmd → Cmd) (s : State) : (modCmd id f s).mil = s.mil := rfl
@[simp] theorem modCmd_keeps_par (id : Nat) (f : Cmd → Cmd) (s : State) : (modCmd id f s).par = s.par := rfl
@[simp] theorem modCmd_keeps_obs (id : Nat) (f : Cmd → Cmd) (s : State) : (modCmd id f s).obs = s.obs := rfl
@[simp] theorem modCmd_keeps_cur (id : Nat) (f : Cmd → Cmd) (s : State) : (modCmd id f s).cur = s.cur := rfl
@[simp] theorem modCmd_keeps_mem (id : Nat) (f : Cmd → Cmd) (s : State) : (modCmd id f s).mem = s.mem := rfl
@[simp] theorem modCmd_keeps_free (id : Nat) (f : Cmd → Cmd) (s : State) : (modCmd id f s).free = s.free := rfl
@[simp] theorem modCmd_keeps_pending (id : Nat) (f : Cmd → Cmd) (s : State) : (modCmd id f s).pending = s.pending := rfl

/-! ## modArrival -/

@[simp] theorem modArrival_keeps_part (id : Nat) (f : Arrival → Arrival) (s : State) : (modArrival id f s).part = s.part := rfl
@[simp] theorem modArrival_keeps_otp (id : Nat) (f : Arrival → Arrival) (s : State) : (modArrival id f s).otp = s.otp := rfl
@[simp] theorem modArrival_keeps_pins (id : Nat) (f : Arrival → Arrival) (s : State) : (modArrival id f s).pins = s.pins := rfl
@[simp] theorem modArrival_keeps_gbl (id : Nat) (f : Arrival → Arrival) (s : State) : (modArrival id f s).gbl = s.gbl := rfl
@[simp] theorem modArrival_keeps_alm (id : Nat) (f : Arrival → Arrival) (s : State) : (modArrival id f s).alm = s.alm := rfl
@[simp] theorem modArrival_keeps_pwr (id : Nat) (f : Arrival → Arrival) (s : State) : (modArrival id f s).pwr = s.pwr := rfl
@[simp] theorem modArrival_keeps_flt (id : Nat) (f : Arrival → Arrival) (s : State) : (modArrival id f s).flt = s.flt := rfl
@[simp] theorem modArrival_keeps_ree (id : Nat) (f : Arrival → Arrival) (s : State) : (modArrival id f s).ree = s.ree := rfl
@[simp] theorem modArrival_keeps_stw (id : Nat) (f : Arrival → Arrival) (s : State) : (modArrival id f s).stw = s.stw := rfl
@[simp] theorem modArrival_keeps_chn (id : Nat) (f : Arrival → Arrival) (s : State) : (modArrival id f s).chn = s.chn := rfl
@[simp] theorem modArrival_keeps_eng (id : Nat) (f : Arrival → Arrival) (s : State) : (modArrival id f s).eng = s.eng := rfl
@[simp] theorem modArrival_keeps_memp (id : Nat) (f : Arrival → Arrival) (s : State) : (modArrival id f s).memp = s.memp := rfl
@[simp] theorem modArrival_keeps_ter (id : Nat) (f : Arrival → Arrival) (s : State) : (modArrival id f s).ter = s.ter := rfl
@[simp] theorem modArrival_keeps_wins (id : Nat) (f : Arrival → Arrival) (s : State) : (modArrival id f s).wins = s.wins := rfl
@[simp] theorem modArrival_keeps_dap (id : Nat) (f : Arrival → Arrival) (s : State) : (modArrival id f s).dap = s.dap := rfl
@[simp] theorem modArrival_keeps_route (id : Nat) (f : Arrival → Arrival) (s : State) : (modArrival id f s).route = s.route := rfl
@[simp] theorem modArrival_keeps_tal (id : Nat) (f : Arrival → Arrival) (s : State) : (modArrival id f s).tal = s.tal := rfl
@[simp] theorem modArrival_keeps_tx (id : Nat) (f : Arrival → Arrival) (s : State) : (modArrival id f s).tx = s.tx := rfl
@[simp] theorem modArrival_keeps_brn_nextId (id : Nat) (f : Arrival → Arrival) (s : State) : (modArrival id f s).brn.nextId = s.brn.nextId := rfl
@[simp] theorem modArrival_keeps_brn_partials (id : Nat) (f : Arrival → Arrival) (s : State) : (modArrival id f s).brn.partials = s.brn.partials := rfl
@[simp] theorem modArrival_keeps_brn_highWater (id : Nat) (f : Arrival → Arrival) (s : State) : (modArrival id f s).brn.highWater = s.brn.highWater := rfl
@[simp] theorem modArrival_keeps_brn_overruns (id : Nat) (f : Arrival → Arrival) (s : State) : (modArrival id f s).brn.overruns = s.brn.overruns := rfl
@[simp] theorem modArrival_keeps_brn_turns (id : Nat) (f : Arrival → Arrival) (s : State) : (modArrival id f s).brn.turns = s.brn.turns := rfl
@[simp] theorem modArrival_keeps_sig (id : Nat) (f : Arrival → Arrival) (s : State) : (modArrival id f s).sig = s.sig := rfl
@[simp] theorem modArrival_keeps_groups (id : Nat) (f : Arrival → Arrival) (s : State) : (modArrival id f s).groups = s.groups := rfl
@[simp] theorem modArrival_keeps_lnk (id : Nat) (f : Arrival → Arrival) (s : State) : (modArrival id f s).lnk = s.lnk := rfl
@[simp] theorem modArrival_keeps_mil (id : Nat) (f : Arrival → Arrival) (s : State) : (modArrival id f s).mil = s.mil := rfl
@[simp] theorem modArrival_keeps_par (id : Nat) (f : Arrival → Arrival) (s : State) : (modArrival id f s).par = s.par := rfl
@[simp] theorem modArrival_keeps_obs (id : Nat) (f : Arrival → Arrival) (s : State) : (modArrival id f s).obs = s.obs := rfl
@[simp] theorem modArrival_keeps_cur (id : Nat) (f : Arrival → Arrival) (s : State) : (modArrival id f s).cur = s.cur := rfl
@[simp] theorem modArrival_keeps_mem (id : Nat) (f : Arrival → Arrival) (s : State) : (modArrival id f s).mem = s.mem := rfl
@[simp] theorem modArrival_keeps_free (id : Nat) (f : Arrival → Arrival) (s : State) : (modArrival id f s).free = s.free := rfl
@[simp] theorem modArrival_keeps_pending (id : Nat) (f : Arrival → Arrival) (s : State) : (modArrival id f s).pending = s.pending := rfl

/-! ## modUnit -/

@[simp] theorem modUnit_keeps_part (id : Nat) (f : Xu → Xu) (s : State) : (modUnit id f s).part = s.part := rfl
@[simp] theorem modUnit_keeps_otp (id : Nat) (f : Xu → Xu) (s : State) : (modUnit id f s).otp = s.otp := rfl
@[simp] theorem modUnit_keeps_pins (id : Nat) (f : Xu → Xu) (s : State) : (modUnit id f s).pins = s.pins := rfl
@[simp] theorem modUnit_keeps_gbl (id : Nat) (f : Xu → Xu) (s : State) : (modUnit id f s).gbl = s.gbl := rfl
@[simp] theorem modUnit_keeps_alm (id : Nat) (f : Xu → Xu) (s : State) : (modUnit id f s).alm = s.alm := rfl
@[simp] theorem modUnit_keeps_pwr (id : Nat) (f : Xu → Xu) (s : State) : (modUnit id f s).pwr = s.pwr := rfl
@[simp] theorem modUnit_keeps_flt (id : Nat) (f : Xu → Xu) (s : State) : (modUnit id f s).flt = s.flt := rfl
@[simp] theorem modUnit_keeps_ree (id : Nat) (f : Xu → Xu) (s : State) : (modUnit id f s).ree = s.ree := rfl
@[simp] theorem modUnit_keeps_stw (id : Nat) (f : Xu → Xu) (s : State) : (modUnit id f s).stw = s.stw := rfl
@[simp] theorem modUnit_keeps_chn (id : Nat) (f : Xu → Xu) (s : State) : (modUnit id f s).chn = s.chn := rfl
@[simp] theorem modUnit_keeps_eng (id : Nat) (f : Xu → Xu) (s : State) : (modUnit id f s).eng = s.eng := rfl
@[simp] theorem modUnit_keeps_memp (id : Nat) (f : Xu → Xu) (s : State) : (modUnit id f s).memp = s.memp := rfl
@[simp] theorem modUnit_keeps_ter (id : Nat) (f : Xu → Xu) (s : State) : (modUnit id f s).ter = s.ter := rfl
@[simp] theorem modUnit_keeps_wins (id : Nat) (f : Xu → Xu) (s : State) : (modUnit id f s).wins = s.wins := rfl
@[simp] theorem modUnit_keeps_dap (id : Nat) (f : Xu → Xu) (s : State) : (modUnit id f s).dap = s.dap := rfl
@[simp] theorem modUnit_keeps_route (id : Nat) (f : Xu → Xu) (s : State) : (modUnit id f s).route = s.route := rfl
@[simp] theorem modUnit_keeps_tal (id : Nat) (f : Xu → Xu) (s : State) : (modUnit id f s).tal = s.tal := rfl
@[simp] theorem modUnit_keeps_tx_ghosts (id : Nat) (f : Xu → Xu) (s : State) : (modUnit id f s).tx.ghosts = s.tx.ghosts := rfl
@[simp] theorem modUnit_keeps_tx_nextId (id : Nat) (f : Xu → Xu) (s : State) : (modUnit id f s).tx.nextId = s.tx.nextId := rfl
@[simp] theorem modUnit_keeps_tx_queries (id : Nat) (f : Xu → Xu) (s : State) : (modUnit id f s).tx.queries = s.tx.queries := rfl
@[simp] theorem modUnit_keeps_tx_locals (id : Nat) (f : Xu → Xu) (s : State) : (modUnit id f s).tx.locals = s.tx.locals := rfl
@[simp] theorem modUnit_keeps_tx_stale (id : Nat) (f : Xu → Xu) (s : State) : (modUnit id f s).tx.stale = s.tx.stale := rfl
@[simp] theorem modUnit_keeps_brn (id : Nat) (f : Xu → Xu) (s : State) : (modUnit id f s).brn = s.brn := rfl
@[simp] theorem modUnit_keeps_sig (id : Nat) (f : Xu → Xu) (s : State) : (modUnit id f s).sig = s.sig := rfl
@[simp] theorem modUnit_keeps_groups (id : Nat) (f : Xu → Xu) (s : State) : (modUnit id f s).groups = s.groups := rfl
@[simp] theorem modUnit_keeps_lnk (id : Nat) (f : Xu → Xu) (s : State) : (modUnit id f s).lnk = s.lnk := rfl
@[simp] theorem modUnit_keeps_mil (id : Nat) (f : Xu → Xu) (s : State) : (modUnit id f s).mil = s.mil := rfl
@[simp] theorem modUnit_keeps_par (id : Nat) (f : Xu → Xu) (s : State) : (modUnit id f s).par = s.par := rfl
@[simp] theorem modUnit_keeps_obs (id : Nat) (f : Xu → Xu) (s : State) : (modUnit id f s).obs = s.obs := rfl
@[simp] theorem modUnit_keeps_cur (id : Nat) (f : Xu → Xu) (s : State) : (modUnit id f s).cur = s.cur := rfl
@[simp] theorem modUnit_keeps_mem (id : Nat) (f : Xu → Xu) (s : State) : (modUnit id f s).mem = s.mem := rfl
@[simp] theorem modUnit_keeps_free (id : Nat) (f : Xu → Xu) (s : State) : (modUnit id f s).free = s.free := rfl
@[simp] theorem modUnit_keeps_pending (id : Nat) (f : Xu → Xu) (s : State) : (modUnit id f s).pending = s.pending := rfl

/-! ## putChan -/

@[simp] theorem putChan_keeps_part (ch : BitVec 21) (c : Chan) (s : State) : (putChan ch c s).part = s.part := rfl
@[simp] theorem putChan_keeps_otp (ch : BitVec 21) (c : Chan) (s : State) : (putChan ch c s).otp = s.otp := rfl
@[simp] theorem putChan_keeps_pins (ch : BitVec 21) (c : Chan) (s : State) : (putChan ch c s).pins = s.pins := rfl
@[simp] theorem putChan_keeps_gbl (ch : BitVec 21) (c : Chan) (s : State) : (putChan ch c s).gbl = s.gbl := rfl
@[simp] theorem putChan_keeps_alm (ch : BitVec 21) (c : Chan) (s : State) : (putChan ch c s).alm = s.alm := rfl
@[simp] theorem putChan_keeps_pwr (ch : BitVec 21) (c : Chan) (s : State) : (putChan ch c s).pwr = s.pwr := rfl
@[simp] theorem putChan_keeps_flt (ch : BitVec 21) (c : Chan) (s : State) : (putChan ch c s).flt = s.flt := rfl
@[simp] theorem putChan_keeps_ree (ch : BitVec 21) (c : Chan) (s : State) : (putChan ch c s).ree = s.ree := rfl
@[simp] theorem putChan_keeps_stw (ch : BitVec 21) (c : Chan) (s : State) : (putChan ch c s).stw = s.stw := rfl
@[simp] theorem putChan_keeps_chn_bells (ch : BitVec 21) (c : Chan) (s : State) : (putChan ch c s).chn.bells = s.chn.bells := rfl
@[simp] theorem putChan_keeps_chn_ovf (ch : BitVec 21) (c : Chan) (s : State) : (putChan ch c s).chn.ovf = s.chn.ovf := rfl
@[simp] theorem putChan_keeps_chn_waits (ch : BitVec 21) (c : Chan) (s : State) : (putChan ch c s).chn.waits = s.chn.waits := rfl
@[simp] theorem putChan_keeps_chn_ovfTail (ch : BitVec 21) (c : Chan) (s : State) : (putChan ch c s).chn.ovfTail = s.chn.ovfTail := rfl
@[simp] theorem putChan_keeps_chn_order (ch : BitVec 21) (c : Chan) (s : State) : (putChan ch c s).chn.order = s.chn.order := rfl
@[simp] theorem putChan_keeps_chn_turns (ch : BitVec 21) (c : Chan) (s : State) : (putChan ch c s).chn.turns = s.chn.turns := rfl
@[simp] theorem putChan_keeps_chn_lastOf (ch : BitVec 21) (c : Chan) (s : State) : (putChan ch c s).chn.lastOf = s.chn.lastOf := rfl
@[simp] theorem putChan_keeps_eng (ch : BitVec 21) (c : Chan) (s : State) : (putChan ch c s).eng = s.eng := rfl
@[simp] theorem putChan_keeps_memp (ch : BitVec 21) (c : Chan) (s : State) : (putChan ch c s).memp = s.memp := rfl
@[simp] theorem putChan_keeps_ter (ch : BitVec 21) (c : Chan) (s : State) : (putChan ch c s).ter = s.ter := rfl
@[simp] theorem putChan_keeps_wins (ch : BitVec 21) (c : Chan) (s : State) : (putChan ch c s).wins = s.wins := rfl
@[simp] theorem putChan_keeps_dap (ch : BitVec 21) (c : Chan) (s : State) : (putChan ch c s).dap = s.dap := rfl
@[simp] theorem putChan_keeps_route (ch : BitVec 21) (c : Chan) (s : State) : (putChan ch c s).route = s.route := rfl
@[simp] theorem putChan_keeps_tal (ch : BitVec 21) (c : Chan) (s : State) : (putChan ch c s).tal = s.tal := rfl
@[simp] theorem putChan_keeps_tx (ch : BitVec 21) (c : Chan) (s : State) : (putChan ch c s).tx = s.tx := rfl
@[simp] theorem putChan_keeps_brn (ch : BitVec 21) (c : Chan) (s : State) : (putChan ch c s).brn = s.brn := rfl
@[simp] theorem putChan_keeps_sig (ch : BitVec 21) (c : Chan) (s : State) : (putChan ch c s).sig = s.sig := rfl
@[simp] theorem putChan_keeps_groups (ch : BitVec 21) (c : Chan) (s : State) : (putChan ch c s).groups = s.groups := rfl
@[simp] theorem putChan_keeps_lnk (ch : BitVec 21) (c : Chan) (s : State) : (putChan ch c s).lnk = s.lnk := rfl
@[simp] theorem putChan_keeps_mil (ch : BitVec 21) (c : Chan) (s : State) : (putChan ch c s).mil = s.mil := rfl
@[simp] theorem putChan_keeps_par (ch : BitVec 21) (c : Chan) (s : State) : (putChan ch c s).par = s.par := rfl
@[simp] theorem putChan_keeps_obs (ch : BitVec 21) (c : Chan) (s : State) : (putChan ch c s).obs = s.obs := rfl
@[simp] theorem putChan_keeps_cur (ch : BitVec 21) (c : Chan) (s : State) : (putChan ch c s).cur = s.cur := rfl
@[simp] theorem putChan_keeps_mem (ch : BitVec 21) (c : Chan) (s : State) : (putChan ch c s).mem = s.mem := rfl
@[simp] theorem putChan_keeps_free (ch : BitVec 21) (c : Chan) (s : State) : (putChan ch c s).free = s.free := rfl
@[simp] theorem putChan_keeps_pending (ch : BitVec 21) (c : Chan) (s : State) : (putChan ch c s).pending = s.pending := rfl

/-! ## modWaiter -/

@[simp] theorem modWaiter_keeps_part (ch : BitVec 21) (f : Waiter → Waiter) (s : State) : (modWaiter ch f s).part = s.part := rfl
@[simp] theorem modWaiter_keeps_otp (ch : BitVec 21) (f : Waiter → Waiter) (s : State) : (modWaiter ch f s).otp = s.otp := rfl
@[simp] theorem modWaiter_keeps_pins (ch : BitVec 21) (f : Waiter → Waiter) (s : State) : (modWaiter ch f s).pins = s.pins := rfl
@[simp] theorem modWaiter_keeps_gbl (ch : BitVec 21) (f : Waiter → Waiter) (s : State) : (modWaiter ch f s).gbl = s.gbl := rfl
@[simp] theorem modWaiter_keeps_alm (ch : BitVec 21) (f : Waiter → Waiter) (s : State) : (modWaiter ch f s).alm = s.alm := rfl
@[simp] theorem modWaiter_keeps_pwr (ch : BitVec 21) (f : Waiter → Waiter) (s : State) : (modWaiter ch f s).pwr = s.pwr := rfl
@[simp] theorem modWaiter_keeps_flt (ch : BitVec 21) (f : Waiter → Waiter) (s : State) : (modWaiter ch f s).flt = s.flt := rfl
@[simp] theorem modWaiter_keeps_ree (ch : BitVec 21) (f : Waiter → Waiter) (s : State) : (modWaiter ch f s).ree = s.ree := rfl
@[simp] theorem modWaiter_keeps_stw (ch : BitVec 21) (f : Waiter → Waiter) (s : State) : (modWaiter ch f s).stw = s.stw := rfl
@[simp] theorem modWaiter_keeps_chn_chans (ch : BitVec 21) (f : Waiter → Waiter) (s : State) : (modWaiter ch f s).chn.chans = s.chn.chans := rfl
@[simp] theorem modWaiter_keeps_chn_bells (ch : BitVec 21) (f : Waiter → Waiter) (s : State) : (modWaiter ch f s).chn.bells = s.chn.bells := rfl
@[simp] theorem modWaiter_keeps_chn_ovf (ch : BitVec 21) (f : Waiter → Waiter) (s : State) : (modWaiter ch f s).chn.ovf = s.chn.ovf := rfl
@[simp] theorem modWaiter_keeps_chn_ovfTail (ch : BitVec 21) (f : Waiter → Waiter) (s : State) : (modWaiter ch f s).chn.ovfTail = s.chn.ovfTail := rfl
@[simp] theorem modWaiter_keeps_chn_order (ch : BitVec 21) (f : Waiter → Waiter) (s : State) : (modWaiter ch f s).chn.order = s.chn.order := rfl
@[simp] theorem modWaiter_keeps_chn_turns (ch : BitVec 21) (f : Waiter → Waiter) (s : State) : (modWaiter ch f s).chn.turns = s.chn.turns := rfl
@[simp] theorem modWaiter_keeps_chn_lastOf (ch : BitVec 21) (f : Waiter → Waiter) (s : State) : (modWaiter ch f s).chn.lastOf = s.chn.lastOf := rfl
@[simp] theorem modWaiter_keeps_eng (ch : BitVec 21) (f : Waiter → Waiter) (s : State) : (modWaiter ch f s).eng = s.eng := rfl
@[simp] theorem modWaiter_keeps_memp (ch : BitVec 21) (f : Waiter → Waiter) (s : State) : (modWaiter ch f s).memp = s.memp := rfl
@[simp] theorem modWaiter_keeps_ter (ch : BitVec 21) (f : Waiter → Waiter) (s : State) : (modWaiter ch f s).ter = s.ter := rfl
@[simp] theorem modWaiter_keeps_wins (ch : BitVec 21) (f : Waiter → Waiter) (s : State) : (modWaiter ch f s).wins = s.wins := rfl
@[simp] theorem modWaiter_keeps_dap (ch : BitVec 21) (f : Waiter → Waiter) (s : State) : (modWaiter ch f s).dap = s.dap := rfl
@[simp] theorem modWaiter_keeps_route (ch : BitVec 21) (f : Waiter → Waiter) (s : State) : (modWaiter ch f s).route = s.route := rfl
@[simp] theorem modWaiter_keeps_tal (ch : BitVec 21) (f : Waiter → Waiter) (s : State) : (modWaiter ch f s).tal = s.tal := rfl
@[simp] theorem modWaiter_keeps_tx (ch : BitVec 21) (f : Waiter → Waiter) (s : State) : (modWaiter ch f s).tx = s.tx := rfl
@[simp] theorem modWaiter_keeps_brn (ch : BitVec 21) (f : Waiter → Waiter) (s : State) : (modWaiter ch f s).brn = s.brn := rfl
@[simp] theorem modWaiter_keeps_sig (ch : BitVec 21) (f : Waiter → Waiter) (s : State) : (modWaiter ch f s).sig = s.sig := rfl
@[simp] theorem modWaiter_keeps_groups (ch : BitVec 21) (f : Waiter → Waiter) (s : State) : (modWaiter ch f s).groups = s.groups := rfl
@[simp] theorem modWaiter_keeps_lnk (ch : BitVec 21) (f : Waiter → Waiter) (s : State) : (modWaiter ch f s).lnk = s.lnk := rfl
@[simp] theorem modWaiter_keeps_mil (ch : BitVec 21) (f : Waiter → Waiter) (s : State) : (modWaiter ch f s).mil = s.mil := rfl
@[simp] theorem modWaiter_keeps_par (ch : BitVec 21) (f : Waiter → Waiter) (s : State) : (modWaiter ch f s).par = s.par := rfl
@[simp] theorem modWaiter_keeps_obs (ch : BitVec 21) (f : Waiter → Waiter) (s : State) : (modWaiter ch f s).obs = s.obs := rfl
@[simp] theorem modWaiter_keeps_cur (ch : BitVec 21) (f : Waiter → Waiter) (s : State) : (modWaiter ch f s).cur = s.cur := rfl
@[simp] theorem modWaiter_keeps_mem (ch : BitVec 21) (f : Waiter → Waiter) (s : State) : (modWaiter ch f s).mem = s.mem := rfl
@[simp] theorem modWaiter_keeps_free (ch : BitVec 21) (f : Waiter → Waiter) (s : State) : (modWaiter ch f s).free = s.free := rfl
@[simp] theorem modWaiter_keeps_pending (ch : BitVec 21) (f : Waiter → Waiter) (s : State) : (modWaiter ch f s).pending = s.pending := rfl

/-! ## modTime -/

@[simp] theorem modTime_keeps_part (p : Nat) (f : TimeLink → TimeLink) (s : State) : (modTime p f s).part = s.part := rfl
@[simp] theorem modTime_keeps_otp (p : Nat) (f : TimeLink → TimeLink) (s : State) : (modTime p f s).otp = s.otp := rfl
@[simp] theorem modTime_keeps_pins (p : Nat) (f : TimeLink → TimeLink) (s : State) : (modTime p f s).pins = s.pins := rfl
@[simp] theorem modTime_keeps_gbl (p : Nat) (f : TimeLink → TimeLink) (s : State) : (modTime p f s).gbl = s.gbl := rfl
@[simp] theorem modTime_keeps_alm_now (p : Nat) (f : TimeLink → TimeLink) (s : State) : (modTime p f s).alm.now = s.alm.now := rfl
@[simp] theorem modTime_keeps_alm_frac (p : Nat) (f : TimeLink → TimeLink) (s : State) : (modTime p f s).alm.frac = s.alm.frac := rfl
@[simp] theorem modTime_keeps_alm_rate (p : Nat) (f : TimeLink → TimeLink) (s : State) : (modTime p f s).alm.rate = s.alm.rate := rfl
@[simp] theorem modTime_keeps_alm_state (p : Nat) (f : TimeLink → TimeLink) (s : State) : (modTime p f s).alm.state = s.alm.state := rfl
@[simp] theorem modTime_keeps_alm_everLocked (p : Nat) (f : TimeLink → TimeLink) (s : State) : (modTime p f s).alm.everLocked = s.alm.everLocked := rfl
@[simp] theorem modTime_keeps_alm_acquired (p : Nat) (f : TimeLink → TimeLink) (s : State) : (modTime p f s).alm.acquired = s.alm.acquired := rfl
@[simp] theorem modTime_keeps_alm_goodRun (p : Nat) (f : TimeLink → TimeLink) (s : State) : (modTime p f s).alm.goodRun = s.alm.goodRun := rfl
@[simp] theorem modTime_keeps_alm_lastGm (p : Nat) (f : TimeLink → TimeLink) (s : State) : (modTime p f s).alm.lastGm = s.alm.lastGm := rfl
@[simp] theorem modTime_keeps_alm_ctl (p : Nat) (f : TimeLink → TimeLink) (s : State) : (modTime p f s).alm.ctl = s.alm.ctl := rfl
@[simp] theorem modTime_keeps_alm_serdesLat (p : Nat) (f : TimeLink → TimeLink) (s : State) : (modTime p f s).alm.serdesLat = s.alm.serdesLat := rfl
@[simp] theorem modTime_keeps_alm_offset (p : Nat) (f : TimeLink → TimeLink) (s : State) : (modTime p f s).alm.offset = s.alm.offset := rfl
@[simp] theorem modTime_keeps_alm_steps (p : Nat) (f : TimeLink → TimeLink) (s : State) : (modTime p f s).alm.steps = s.alm.steps := rfl
@[simp] theorem modTime_keeps_alm_gmId (p : Nat) (f : TimeLink → TimeLink) (s : State) : (modTime p f s).alm.gmId = s.alm.gmId := rfl
@[simp] theorem modTime_keeps_alm_parent (p : Nat) (f : TimeLink → TimeLink) (s : State) : (modTime p f s).alm.parent = s.alm.parent := rfl
@[simp] theorem modTime_keeps_alm_fired (p : Nat) (f : TimeLink → TimeLink) (s : State) : (modTime p f s).alm.fired = s.alm.fired := rfl
@[simp] theorem modTime_keeps_alm_cmps (p : Nat) (f : TimeLink → TimeLink) (s : State) : (modTime p f s).alm.cmps = s.alm.cmps := rfl
@[simp] theorem modTime_keeps_pwr (p : Nat) (f : TimeLink → TimeLink) (s : State) : (modTime p f s).pwr = s.pwr := rfl
@[simp] theorem modTime_keeps_flt (p : Nat) (f : TimeLink → TimeLink) (s : State) : (modTime p f s).flt = s.flt := rfl
@[simp] theorem modTime_keeps_ree (p : Nat) (f : TimeLink → TimeLink) (s : State) : (modTime p f s).ree = s.ree := rfl
@[simp] theorem modTime_keeps_stw (p : Nat) (f : TimeLink → TimeLink) (s : State) : (modTime p f s).stw = s.stw := rfl
@[simp] theorem modTime_keeps_chn (p : Nat) (f : TimeLink → TimeLink) (s : State) : (modTime p f s).chn = s.chn := rfl
@[simp] theorem modTime_keeps_eng (p : Nat) (f : TimeLink → TimeLink) (s : State) : (modTime p f s).eng = s.eng := rfl
@[simp] theorem modTime_keeps_memp (p : Nat) (f : TimeLink → TimeLink) (s : State) : (modTime p f s).memp = s.memp := rfl
@[simp] theorem modTime_keeps_ter (p : Nat) (f : TimeLink → TimeLink) (s : State) : (modTime p f s).ter = s.ter := rfl
@[simp] theorem modTime_keeps_wins (p : Nat) (f : TimeLink → TimeLink) (s : State) : (modTime p f s).wins = s.wins := rfl
@[simp] theorem modTime_keeps_dap (p : Nat) (f : TimeLink → TimeLink) (s : State) : (modTime p f s).dap = s.dap := rfl
@[simp] theorem modTime_keeps_route (p : Nat) (f : TimeLink → TimeLink) (s : State) : (modTime p f s).route = s.route := rfl
@[simp] theorem modTime_keeps_tal (p : Nat) (f : TimeLink → TimeLink) (s : State) : (modTime p f s).tal = s.tal := rfl
@[simp] theorem modTime_keeps_tx (p : Nat) (f : TimeLink → TimeLink) (s : State) : (modTime p f s).tx = s.tx := rfl
@[simp] theorem modTime_keeps_brn (p : Nat) (f : TimeLink → TimeLink) (s : State) : (modTime p f s).brn = s.brn := rfl
@[simp] theorem modTime_keeps_sig (p : Nat) (f : TimeLink → TimeLink) (s : State) : (modTime p f s).sig = s.sig := rfl
@[simp] theorem modTime_keeps_groups (p : Nat) (f : TimeLink → TimeLink) (s : State) : (modTime p f s).groups = s.groups := rfl
@[simp] theorem modTime_keeps_lnk (p : Nat) (f : TimeLink → TimeLink) (s : State) : (modTime p f s).lnk = s.lnk := rfl
@[simp] theorem modTime_keeps_mil (p : Nat) (f : TimeLink → TimeLink) (s : State) : (modTime p f s).mil = s.mil := rfl
@[simp] theorem modTime_keeps_par (p : Nat) (f : TimeLink → TimeLink) (s : State) : (modTime p f s).par = s.par := rfl
@[simp] theorem modTime_keeps_obs (p : Nat) (f : TimeLink → TimeLink) (s : State) : (modTime p f s).obs = s.obs := rfl
@[simp] theorem modTime_keeps_cur (p : Nat) (f : TimeLink → TimeLink) (s : State) : (modTime p f s).cur = s.cur := rfl
@[simp] theorem modTime_keeps_mem (p : Nat) (f : TimeLink → TimeLink) (s : State) : (modTime p f s).mem = s.mem := rfl
@[simp] theorem modTime_keeps_free (p : Nat) (f : TimeLink → TimeLink) (s : State) : (modTime p f s).free = s.free := rfl
@[simp] theorem modTime_keeps_pending (p : Nat) (f : TimeLink → TimeLink) (s : State) : (modTime p f s).pending = s.pending := rfl

/-! ## modCmp -/

@[simp] theorem modCmp_keeps_part (n : Nat) (f : Cmp → Cmp) (s : State) : (modCmp n f s).part = s.part := rfl
@[simp] theorem modCmp_keeps_otp (n : Nat) (f : Cmp → Cmp) (s : State) : (modCmp n f s).otp = s.otp := rfl
@[simp] theorem modCmp_keeps_pins (n : Nat) (f : Cmp → Cmp) (s : State) : (modCmp n f s).pins = s.pins := rfl
@[simp] theorem modCmp_keeps_gbl (n : Nat) (f : Cmp → Cmp) (s : State) : (modCmp n f s).gbl = s.gbl := rfl
@[simp] theorem modCmp_keeps_alm_now (n : Nat) (f : Cmp → Cmp) (s : State) : (modCmp n f s).alm.now = s.alm.now := rfl
@[simp] theorem modCmp_keeps_alm_frac (n : Nat) (f : Cmp → Cmp) (s : State) : (modCmp n f s).alm.frac = s.alm.frac := rfl
@[simp] theorem modCmp_keeps_alm_rate (n : Nat) (f : Cmp → Cmp) (s : State) : (modCmp n f s).alm.rate = s.alm.rate := rfl
@[simp] theorem modCmp_keeps_alm_state (n : Nat) (f : Cmp → Cmp) (s : State) : (modCmp n f s).alm.state = s.alm.state := rfl
@[simp] theorem modCmp_keeps_alm_everLocked (n : Nat) (f : Cmp → Cmp) (s : State) : (modCmp n f s).alm.everLocked = s.alm.everLocked := rfl
@[simp] theorem modCmp_keeps_alm_acquired (n : Nat) (f : Cmp → Cmp) (s : State) : (modCmp n f s).alm.acquired = s.alm.acquired := rfl
@[simp] theorem modCmp_keeps_alm_goodRun (n : Nat) (f : Cmp → Cmp) (s : State) : (modCmp n f s).alm.goodRun = s.alm.goodRun := rfl
@[simp] theorem modCmp_keeps_alm_lastGm (n : Nat) (f : Cmp → Cmp) (s : State) : (modCmp n f s).alm.lastGm = s.alm.lastGm := rfl
@[simp] theorem modCmp_keeps_alm_ctl (n : Nat) (f : Cmp → Cmp) (s : State) : (modCmp n f s).alm.ctl = s.alm.ctl := rfl
@[simp] theorem modCmp_keeps_alm_serdesLat (n : Nat) (f : Cmp → Cmp) (s : State) : (modCmp n f s).alm.serdesLat = s.alm.serdesLat := rfl
@[simp] theorem modCmp_keeps_alm_offset (n : Nat) (f : Cmp → Cmp) (s : State) : (modCmp n f s).alm.offset = s.alm.offset := rfl
@[simp] theorem modCmp_keeps_alm_steps (n : Nat) (f : Cmp → Cmp) (s : State) : (modCmp n f s).alm.steps = s.alm.steps := rfl
@[simp] theorem modCmp_keeps_alm_gmId (n : Nat) (f : Cmp → Cmp) (s : State) : (modCmp n f s).alm.gmId = s.alm.gmId := rfl
@[simp] theorem modCmp_keeps_alm_parent (n : Nat) (f : Cmp → Cmp) (s : State) : (modCmp n f s).alm.parent = s.alm.parent := rfl
@[simp] theorem modCmp_keeps_alm_fired (n : Nat) (f : Cmp → Cmp) (s : State) : (modCmp n f s).alm.fired = s.alm.fired := rfl
@[simp] theorem modCmp_keeps_alm_links (n : Nat) (f : Cmp → Cmp) (s : State) : (modCmp n f s).alm.links = s.alm.links := rfl
@[simp] theorem modCmp_keeps_pwr (n : Nat) (f : Cmp → Cmp) (s : State) : (modCmp n f s).pwr = s.pwr := rfl
@[simp] theorem modCmp_keeps_flt (n : Nat) (f : Cmp → Cmp) (s : State) : (modCmp n f s).flt = s.flt := rfl
@[simp] theorem modCmp_keeps_ree (n : Nat) (f : Cmp → Cmp) (s : State) : (modCmp n f s).ree = s.ree := rfl
@[simp] theorem modCmp_keeps_stw (n : Nat) (f : Cmp → Cmp) (s : State) : (modCmp n f s).stw = s.stw := rfl
@[simp] theorem modCmp_keeps_chn (n : Nat) (f : Cmp → Cmp) (s : State) : (modCmp n f s).chn = s.chn := rfl
@[simp] theorem modCmp_keeps_eng (n : Nat) (f : Cmp → Cmp) (s : State) : (modCmp n f s).eng = s.eng := rfl
@[simp] theorem modCmp_keeps_memp (n : Nat) (f : Cmp → Cmp) (s : State) : (modCmp n f s).memp = s.memp := rfl
@[simp] theorem modCmp_keeps_ter (n : Nat) (f : Cmp → Cmp) (s : State) : (modCmp n f s).ter = s.ter := rfl
@[simp] theorem modCmp_keeps_wins (n : Nat) (f : Cmp → Cmp) (s : State) : (modCmp n f s).wins = s.wins := rfl
@[simp] theorem modCmp_keeps_dap (n : Nat) (f : Cmp → Cmp) (s : State) : (modCmp n f s).dap = s.dap := rfl
@[simp] theorem modCmp_keeps_route (n : Nat) (f : Cmp → Cmp) (s : State) : (modCmp n f s).route = s.route := rfl
@[simp] theorem modCmp_keeps_tal (n : Nat) (f : Cmp → Cmp) (s : State) : (modCmp n f s).tal = s.tal := rfl
@[simp] theorem modCmp_keeps_tx (n : Nat) (f : Cmp → Cmp) (s : State) : (modCmp n f s).tx = s.tx := rfl
@[simp] theorem modCmp_keeps_brn (n : Nat) (f : Cmp → Cmp) (s : State) : (modCmp n f s).brn = s.brn := rfl
@[simp] theorem modCmp_keeps_sig (n : Nat) (f : Cmp → Cmp) (s : State) : (modCmp n f s).sig = s.sig := rfl
@[simp] theorem modCmp_keeps_groups (n : Nat) (f : Cmp → Cmp) (s : State) : (modCmp n f s).groups = s.groups := rfl
@[simp] theorem modCmp_keeps_lnk (n : Nat) (f : Cmp → Cmp) (s : State) : (modCmp n f s).lnk = s.lnk := rfl
@[simp] theorem modCmp_keeps_mil (n : Nat) (f : Cmp → Cmp) (s : State) : (modCmp n f s).mil = s.mil := rfl
@[simp] theorem modCmp_keeps_par (n : Nat) (f : Cmp → Cmp) (s : State) : (modCmp n f s).par = s.par := rfl
@[simp] theorem modCmp_keeps_obs (n : Nat) (f : Cmp → Cmp) (s : State) : (modCmp n f s).obs = s.obs := rfl
@[simp] theorem modCmp_keeps_cur (n : Nat) (f : Cmp → Cmp) (s : State) : (modCmp n f s).cur = s.cur := rfl
@[simp] theorem modCmp_keeps_mem (n : Nat) (f : Cmp → Cmp) (s : State) : (modCmp n f s).mem = s.mem := rfl
@[simp] theorem modCmp_keeps_free (n : Nat) (f : Cmp → Cmp) (s : State) : (modCmp n f s).free = s.free := rfl
@[simp] theorem modCmp_keeps_pending (n : Nat) (f : Cmp → Cmp) (s : State) : (modCmp n f s).pending = s.pending := rfl

/-! ## modSource -/

@[simp] theorem modSource_keeps_part (n : Nat) (f : Source → Source) (s : State) : (modSource n f s).part = s.part := rfl
@[simp] theorem modSource_keeps_otp (n : Nat) (f : Source → Source) (s : State) : (modSource n f s).otp = s.otp := rfl
@[simp] theorem modSource_keeps_pins (n : Nat) (f : Source → Source) (s : State) : (modSource n f s).pins = s.pins := rfl
@[simp] theorem modSource_keeps_gbl (n : Nat) (f : Source → Source) (s : State) : (modSource n f s).gbl = s.gbl := rfl
@[simp] theorem modSource_keeps_alm (n : Nat) (f : Source → Source) (s : State) : (modSource n f s).alm = s.alm := rfl
@[simp] theorem modSource_keeps_pwr (n : Nat) (f : Source → Source) (s : State) : (modSource n f s).pwr = s.pwr := rfl
@[simp] theorem modSource_keeps_flt_msgs (n : Nat) (f : Source → Source) (s : State) : (modSource n f s).flt.msgs = s.flt.msgs := rfl
@[simp] theorem modSource_keeps_flt_nextSeq (n : Nat) (f : Source → Source) (s : State) : (modSource n f s).flt.nextSeq = s.flt.nextSeq := rfl
@[simp] theorem modSource_keeps_flt_safe (n : Nat) (f : Source → Source) (s : State) : (modSource n f s).flt.safe = s.flt.safe := rfl
@[simp] theorem modSource_keeps_flt_ringLost (n : Nat) (f : Source → Source) (s : State) : (modSource n f s).flt.ringLost = s.flt.ringLost := rfl
@[simp] theorem modSource_keeps_flt_overflow (n : Nat) (f : Source → Source) (s : State) : (modSource n f s).flt.overflow = s.flt.overflow := rfl
@[simp] theorem modSource_keeps_flt_first (n : Nat) (f : Source → Source) (s : State) : (modSource n f s).flt.first = s.flt.first := rfl
@[simp] theorem modSource_keeps_flt_firstWord (n : Nat) (f : Source → Source) (s : State) : (modSource n f s).flt.firstWord = s.flt.firstWord := rfl
@[simp] theorem modSource_keeps_flt_firstTime (n : Nat) (f : Source → Source) (s : State) : (modSource n f s).flt.firstTime = s.flt.firstTime := rfl
@[simp] theorem modSource_keeps_flt_ctl (n : Nat) (f : Source → Source) (s : State) : (modSource n f s).flt.ctl = s.flt.ctl := rfl
@[simp] theorem modSource_keeps_flt_base (n : Nat) (f : Source → Source) (s : State) : (modSource n f s).flt.base = s.flt.base := rfl
@[simp] theorem modSource_keeps_flt_ring (n : Nat) (f : Source → Source) (s : State) : (modSource n f s).flt.ring = s.flt.ring := rfl
@[simp] theorem modSource_keeps_flt_held (n : Nat) (f : Source → Source) (s : State) : (modSource n f s).flt.held = s.flt.held := rfl
@[simp] theorem modSource_keeps_flt_pulse (n : Nat) (f : Source → Source) (s : State) : (modSource n f s).flt.pulse = s.flt.pulse := rfl
@[simp] theorem modSource_keeps_ree (n : Nat) (f : Source → Source) (s : State) : (modSource n f s).ree = s.ree := rfl
@[simp] theorem modSource_keeps_stw (n : Nat) (f : Source → Source) (s : State) : (modSource n f s).stw = s.stw := rfl
@[simp] theorem modSource_keeps_chn (n : Nat) (f : Source → Source) (s : State) : (modSource n f s).chn = s.chn := rfl
@[simp] theorem modSource_keeps_eng (n : Nat) (f : Source → Source) (s : State) : (modSource n f s).eng = s.eng := rfl
@[simp] theorem modSource_keeps_memp (n : Nat) (f : Source → Source) (s : State) : (modSource n f s).memp = s.memp := rfl
@[simp] theorem modSource_keeps_ter (n : Nat) (f : Source → Source) (s : State) : (modSource n f s).ter = s.ter := rfl
@[simp] theorem modSource_keeps_wins (n : Nat) (f : Source → Source) (s : State) : (modSource n f s).wins = s.wins := rfl
@[simp] theorem modSource_keeps_dap (n : Nat) (f : Source → Source) (s : State) : (modSource n f s).dap = s.dap := rfl
@[simp] theorem modSource_keeps_route (n : Nat) (f : Source → Source) (s : State) : (modSource n f s).route = s.route := rfl
@[simp] theorem modSource_keeps_tal (n : Nat) (f : Source → Source) (s : State) : (modSource n f s).tal = s.tal := rfl
@[simp] theorem modSource_keeps_tx (n : Nat) (f : Source → Source) (s : State) : (modSource n f s).tx = s.tx := rfl
@[simp] theorem modSource_keeps_brn (n : Nat) (f : Source → Source) (s : State) : (modSource n f s).brn = s.brn := rfl
@[simp] theorem modSource_keeps_sig (n : Nat) (f : Source → Source) (s : State) : (modSource n f s).sig = s.sig := rfl
@[simp] theorem modSource_keeps_groups (n : Nat) (f : Source → Source) (s : State) : (modSource n f s).groups = s.groups := rfl
@[simp] theorem modSource_keeps_lnk (n : Nat) (f : Source → Source) (s : State) : (modSource n f s).lnk = s.lnk := rfl
@[simp] theorem modSource_keeps_mil (n : Nat) (f : Source → Source) (s : State) : (modSource n f s).mil = s.mil := rfl
@[simp] theorem modSource_keeps_par (n : Nat) (f : Source → Source) (s : State) : (modSource n f s).par = s.par := rfl
@[simp] theorem modSource_keeps_obs (n : Nat) (f : Source → Source) (s : State) : (modSource n f s).obs = s.obs := rfl
@[simp] theorem modSource_keeps_cur (n : Nat) (f : Source → Source) (s : State) : (modSource n f s).cur = s.cur := rfl
@[simp] theorem modSource_keeps_mem (n : Nat) (f : Source → Source) (s : State) : (modSource n f s).mem = s.mem := rfl
@[simp] theorem modSource_keeps_free (n : Nat) (f : Source → Source) (s : State) : (modSource n f s).free = s.free := rfl
@[simp] theorem modSource_keeps_pending (n : Nat) (f : Source → Source) (s : State) : (modSource n f s).pending = s.pending := rfl

/-! ## modEnt -/

@[simp] theorem modEnt_keeps_part (src : BitVec 9) (tag : BitVec 16) (f : SigEnt → SigEnt) (s : State) : (modEnt src tag f s).part = s.part := rfl
@[simp] theorem modEnt_keeps_otp (src : BitVec 9) (tag : BitVec 16) (f : SigEnt → SigEnt) (s : State) : (modEnt src tag f s).otp = s.otp := rfl
@[simp] theorem modEnt_keeps_pins (src : BitVec 9) (tag : BitVec 16) (f : SigEnt → SigEnt) (s : State) : (modEnt src tag f s).pins = s.pins := rfl
@[simp] theorem modEnt_keeps_gbl (src : BitVec 9) (tag : BitVec 16) (f : SigEnt → SigEnt) (s : State) : (modEnt src tag f s).gbl = s.gbl := rfl
@[simp] theorem modEnt_keeps_alm (src : BitVec 9) (tag : BitVec 16) (f : SigEnt → SigEnt) (s : State) : (modEnt src tag f s).alm = s.alm := rfl
@[simp] theorem modEnt_keeps_pwr (src : BitVec 9) (tag : BitVec 16) (f : SigEnt → SigEnt) (s : State) : (modEnt src tag f s).pwr = s.pwr := rfl
@[simp] theorem modEnt_keeps_flt (src : BitVec 9) (tag : BitVec 16) (f : SigEnt → SigEnt) (s : State) : (modEnt src tag f s).flt = s.flt := rfl
@[simp] theorem modEnt_keeps_ree (src : BitVec 9) (tag : BitVec 16) (f : SigEnt → SigEnt) (s : State) : (modEnt src tag f s).ree = s.ree := rfl
@[simp] theorem modEnt_keeps_stw (src : BitVec 9) (tag : BitVec 16) (f : SigEnt → SigEnt) (s : State) : (modEnt src tag f s).stw = s.stw := rfl
@[simp] theorem modEnt_keeps_chn (src : BitVec 9) (tag : BitVec 16) (f : SigEnt → SigEnt) (s : State) : (modEnt src tag f s).chn = s.chn := rfl
@[simp] theorem modEnt_keeps_eng (src : BitVec 9) (tag : BitVec 16) (f : SigEnt → SigEnt) (s : State) : (modEnt src tag f s).eng = s.eng := rfl
@[simp] theorem modEnt_keeps_memp (src : BitVec 9) (tag : BitVec 16) (f : SigEnt → SigEnt) (s : State) : (modEnt src tag f s).memp = s.memp := rfl
@[simp] theorem modEnt_keeps_ter (src : BitVec 9) (tag : BitVec 16) (f : SigEnt → SigEnt) (s : State) : (modEnt src tag f s).ter = s.ter := rfl
@[simp] theorem modEnt_keeps_wins (src : BitVec 9) (tag : BitVec 16) (f : SigEnt → SigEnt) (s : State) : (modEnt src tag f s).wins = s.wins := rfl
@[simp] theorem modEnt_keeps_dap (src : BitVec 9) (tag : BitVec 16) (f : SigEnt → SigEnt) (s : State) : (modEnt src tag f s).dap = s.dap := rfl
@[simp] theorem modEnt_keeps_route (src : BitVec 9) (tag : BitVec 16) (f : SigEnt → SigEnt) (s : State) : (modEnt src tag f s).route = s.route := rfl
@[simp] theorem modEnt_keeps_tal (src : BitVec 9) (tag : BitVec 16) (f : SigEnt → SigEnt) (s : State) : (modEnt src tag f s).tal = s.tal := rfl
@[simp] theorem modEnt_keeps_tx (src : BitVec 9) (tag : BitVec 16) (f : SigEnt → SigEnt) (s : State) : (modEnt src tag f s).tx = s.tx := rfl
@[simp] theorem modEnt_keeps_brn (src : BitVec 9) (tag : BitVec 16) (f : SigEnt → SigEnt) (s : State) : (modEnt src tag f s).brn = s.brn := rfl
@[simp] theorem modEnt_keeps_sig_ops (src : BitVec 9) (tag : BitVec 16) (f : SigEnt → SigEnt) (s : State) : (modEnt src tag f s).sig.ops = s.sig.ops := rfl
@[simp] theorem modEnt_keeps_sig_nextId (src : BitVec 9) (tag : BitVec 16) (f : SigEnt → SigEnt) (s : State) : (modEnt src tag f s).sig.nextId = s.sig.nextId := rfl
@[simp] theorem modEnt_keeps_groups (src : BitVec 9) (tag : BitVec 16) (f : SigEnt → SigEnt) (s : State) : (modEnt src tag f s).groups = s.groups := rfl
@[simp] theorem modEnt_keeps_lnk (src : BitVec 9) (tag : BitVec 16) (f : SigEnt → SigEnt) (s : State) : (modEnt src tag f s).lnk = s.lnk := rfl
@[simp] theorem modEnt_keeps_mil (src : BitVec 9) (tag : BitVec 16) (f : SigEnt → SigEnt) (s : State) : (modEnt src tag f s).mil = s.mil := rfl
@[simp] theorem modEnt_keeps_par (src : BitVec 9) (tag : BitVec 16) (f : SigEnt → SigEnt) (s : State) : (modEnt src tag f s).par = s.par := rfl
@[simp] theorem modEnt_keeps_obs (src : BitVec 9) (tag : BitVec 16) (f : SigEnt → SigEnt) (s : State) : (modEnt src tag f s).obs = s.obs := rfl
@[simp] theorem modEnt_keeps_cur (src : BitVec 9) (tag : BitVec 16) (f : SigEnt → SigEnt) (s : State) : (modEnt src tag f s).cur = s.cur := rfl
@[simp] theorem modEnt_keeps_mem (src : BitVec 9) (tag : BitVec 16) (f : SigEnt → SigEnt) (s : State) : (modEnt src tag f s).mem = s.mem := rfl
@[simp] theorem modEnt_keeps_free (src : BitVec 9) (tag : BitVec 16) (f : SigEnt → SigEnt) (s : State) : (modEnt src tag f s).free = s.free := rfl
@[simp] theorem modEnt_keeps_pending (src : BitVec 9) (tag : BitVec 16) (f : SigEnt → SigEnt) (s : State) : (modEnt src tag f s).pending = s.pending := rfl

/-! ## modOp -/

@[simp] theorem modOp_keeps_part (id : Nat) (f : AtomOp → AtomOp) (s : State) : (modOp id f s).part = s.part := rfl
@[simp] theorem modOp_keeps_otp (id : Nat) (f : AtomOp → AtomOp) (s : State) : (modOp id f s).otp = s.otp := rfl
@[simp] theorem modOp_keeps_pins (id : Nat) (f : AtomOp → AtomOp) (s : State) : (modOp id f s).pins = s.pins := rfl
@[simp] theorem modOp_keeps_gbl (id : Nat) (f : AtomOp → AtomOp) (s : State) : (modOp id f s).gbl = s.gbl := rfl
@[simp] theorem modOp_keeps_alm (id : Nat) (f : AtomOp → AtomOp) (s : State) : (modOp id f s).alm = s.alm := rfl
@[simp] theorem modOp_keeps_pwr (id : Nat) (f : AtomOp → AtomOp) (s : State) : (modOp id f s).pwr = s.pwr := rfl
@[simp] theorem modOp_keeps_flt (id : Nat) (f : AtomOp → AtomOp) (s : State) : (modOp id f s).flt = s.flt := rfl
@[simp] theorem modOp_keeps_ree (id : Nat) (f : AtomOp → AtomOp) (s : State) : (modOp id f s).ree = s.ree := rfl
@[simp] theorem modOp_keeps_stw (id : Nat) (f : AtomOp → AtomOp) (s : State) : (modOp id f s).stw = s.stw := rfl
@[simp] theorem modOp_keeps_chn (id : Nat) (f : AtomOp → AtomOp) (s : State) : (modOp id f s).chn = s.chn := rfl
@[simp] theorem modOp_keeps_eng (id : Nat) (f : AtomOp → AtomOp) (s : State) : (modOp id f s).eng = s.eng := rfl
@[simp] theorem modOp_keeps_memp (id : Nat) (f : AtomOp → AtomOp) (s : State) : (modOp id f s).memp = s.memp := rfl
@[simp] theorem modOp_keeps_ter (id : Nat) (f : AtomOp → AtomOp) (s : State) : (modOp id f s).ter = s.ter := rfl
@[simp] theorem modOp_keeps_wins (id : Nat) (f : AtomOp → AtomOp) (s : State) : (modOp id f s).wins = s.wins := rfl
@[simp] theorem modOp_keeps_dap (id : Nat) (f : AtomOp → AtomOp) (s : State) : (modOp id f s).dap = s.dap := rfl
@[simp] theorem modOp_keeps_route (id : Nat) (f : AtomOp → AtomOp) (s : State) : (modOp id f s).route = s.route := rfl
@[simp] theorem modOp_keeps_tal (id : Nat) (f : AtomOp → AtomOp) (s : State) : (modOp id f s).tal = s.tal := rfl
@[simp] theorem modOp_keeps_tx (id : Nat) (f : AtomOp → AtomOp) (s : State) : (modOp id f s).tx = s.tx := rfl
@[simp] theorem modOp_keeps_brn (id : Nat) (f : AtomOp → AtomOp) (s : State) : (modOp id f s).brn = s.brn := rfl
@[simp] theorem modOp_keeps_sig_ents (id : Nat) (f : AtomOp → AtomOp) (s : State) : (modOp id f s).sig.ents = s.sig.ents := rfl
@[simp] theorem modOp_keeps_sig_nextId (id : Nat) (f : AtomOp → AtomOp) (s : State) : (modOp id f s).sig.nextId = s.sig.nextId := rfl
@[simp] theorem modOp_keeps_groups (id : Nat) (f : AtomOp → AtomOp) (s : State) : (modOp id f s).groups = s.groups := rfl
@[simp] theorem modOp_keeps_lnk (id : Nat) (f : AtomOp → AtomOp) (s : State) : (modOp id f s).lnk = s.lnk := rfl
@[simp] theorem modOp_keeps_mil (id : Nat) (f : AtomOp → AtomOp) (s : State) : (modOp id f s).mil = s.mil := rfl
@[simp] theorem modOp_keeps_par (id : Nat) (f : AtomOp → AtomOp) (s : State) : (modOp id f s).par = s.par := rfl
@[simp] theorem modOp_keeps_obs (id : Nat) (f : AtomOp → AtomOp) (s : State) : (modOp id f s).obs = s.obs := rfl
@[simp] theorem modOp_keeps_cur (id : Nat) (f : AtomOp → AtomOp) (s : State) : (modOp id f s).cur = s.cur := rfl
@[simp] theorem modOp_keeps_mem (id : Nat) (f : AtomOp → AtomOp) (s : State) : (modOp id f s).mem = s.mem := rfl
@[simp] theorem modOp_keeps_free (id : Nat) (f : AtomOp → AtomOp) (s : State) : (modOp id f s).free = s.free := rfl
@[simp] theorem modOp_keeps_pending (id : Nat) (f : AtomOp → AtomOp) (s : State) : (modOp id f s).pending = s.pending := rfl

/-! ## modGroup -/

@[simp] theorem modGroup_keeps_part (x : Txn) (f : Group → Group) (s : State) : (modGroup x f s).part = s.part := rfl
@[simp] theorem modGroup_keeps_otp (x : Txn) (f : Group → Group) (s : State) : (modGroup x f s).otp = s.otp := rfl
@[simp] theorem modGroup_keeps_pins (x : Txn) (f : Group → Group) (s : State) : (modGroup x f s).pins = s.pins := rfl
@[simp] theorem modGroup_keeps_gbl (x : Txn) (f : Group → Group) (s : State) : (modGroup x f s).gbl = s.gbl := rfl
@[simp] theorem modGroup_keeps_alm (x : Txn) (f : Group → Group) (s : State) : (modGroup x f s).alm = s.alm := rfl
@[simp] theorem modGroup_keeps_pwr (x : Txn) (f : Group → Group) (s : State) : (modGroup x f s).pwr = s.pwr := rfl
@[simp] theorem modGroup_keeps_flt (x : Txn) (f : Group → Group) (s : State) : (modGroup x f s).flt = s.flt := rfl
@[simp] theorem modGroup_keeps_ree (x : Txn) (f : Group → Group) (s : State) : (modGroup x f s).ree = s.ree := rfl
@[simp] theorem modGroup_keeps_stw (x : Txn) (f : Group → Group) (s : State) : (modGroup x f s).stw = s.stw := rfl
@[simp] theorem modGroup_keeps_chn (x : Txn) (f : Group → Group) (s : State) : (modGroup x f s).chn = s.chn := rfl
@[simp] theorem modGroup_keeps_eng (x : Txn) (f : Group → Group) (s : State) : (modGroup x f s).eng = s.eng := rfl
@[simp] theorem modGroup_keeps_memp (x : Txn) (f : Group → Group) (s : State) : (modGroup x f s).memp = s.memp := rfl
@[simp] theorem modGroup_keeps_ter (x : Txn) (f : Group → Group) (s : State) : (modGroup x f s).ter = s.ter := rfl
@[simp] theorem modGroup_keeps_wins (x : Txn) (f : Group → Group) (s : State) : (modGroup x f s).wins = s.wins := rfl
@[simp] theorem modGroup_keeps_dap (x : Txn) (f : Group → Group) (s : State) : (modGroup x f s).dap = s.dap := rfl
@[simp] theorem modGroup_keeps_route (x : Txn) (f : Group → Group) (s : State) : (modGroup x f s).route = s.route := rfl
@[simp] theorem modGroup_keeps_tal (x : Txn) (f : Group → Group) (s : State) : (modGroup x f s).tal = s.tal := rfl
@[simp] theorem modGroup_keeps_tx (x : Txn) (f : Group → Group) (s : State) : (modGroup x f s).tx = s.tx := rfl
@[simp] theorem modGroup_keeps_brn (x : Txn) (f : Group → Group) (s : State) : (modGroup x f s).brn = s.brn := rfl
@[simp] theorem modGroup_keeps_sig (x : Txn) (f : Group → Group) (s : State) : (modGroup x f s).sig = s.sig := rfl
@[simp] theorem modGroup_keeps_lnk (x : Txn) (f : Group → Group) (s : State) : (modGroup x f s).lnk = s.lnk := rfl
@[simp] theorem modGroup_keeps_mil (x : Txn) (f : Group → Group) (s : State) : (modGroup x f s).mil = s.mil := rfl
@[simp] theorem modGroup_keeps_par (x : Txn) (f : Group → Group) (s : State) : (modGroup x f s).par = s.par := rfl
@[simp] theorem modGroup_keeps_obs (x : Txn) (f : Group → Group) (s : State) : (modGroup x f s).obs = s.obs := rfl
@[simp] theorem modGroup_keeps_cur (x : Txn) (f : Group → Group) (s : State) : (modGroup x f s).cur = s.cur := rfl
@[simp] theorem modGroup_keeps_mem (x : Txn) (f : Group → Group) (s : State) : (modGroup x f s).mem = s.mem := rfl
@[simp] theorem modGroup_keeps_free (x : Txn) (f : Group → Group) (s : State) : (modGroup x f s).free = s.free := rfl
@[simp] theorem modGroup_keeps_pending (x : Txn) (f : Group → Group) (s : State) : (modGroup x f s).pending = s.pending := rfl

end Sys2Proof.Laws
end

