-- ==== Sys2Proof/Machine/RegRead.lean ====
section
/-! DEFINITION. What the registers read as: the value of every register the control port has, and what a requestor gets of it (R12, R68,
R338, R462-R480). No row reads; these definitions say what each field of the state shows. -/

namespace Sys2Proof.Machine

/-! ## Codes and bitmaps -/

/-- GBL_BOOT.STAGE (R445). -/
def stageCode : Stage → Nat
  | .reset => 0 | .reeveRom => 1 | .fwLoad => 2 | .sramClear => 3 | .calibrating => 4 | .ready => 5 | .failed => 6

/-- ALM_STATUS.STATE (R391). -/
def almCode : AlmState → Nat
  | .freeRun => 0 | .acquiring => 1 | .locked => 2 | .holdover => 3 | .slewing => 4

/-- CUR_STATUS.STATE (R437). -/
def curCode : CurState → Nat
  | .idle => 0 | .armed => 1 | .stopped => 2 | .dumping => 3 | .releasing => 4

/-- PWR_STATUS.STATE (R391). -/
def pwrCode : PwrState → Nat
  | .active => 0 | .idle => 1 | .parked => 2

/-- Bit `lo + i` for each `i` below `n` that has a property. -/
def bitmap (n lo : Nat) (f : Nat → Bool) : Word := (List.range n).foldl (fun w i => w ||| flag (f i) (lo + i)) 0

/-- A ring's TAIL in bits [63:32], beside its HEAD. -/
def tailHigh (r : Ring) : Word := place r.tail.toNat 32 32

/-! ## The read-only fields of each page -/

/-- Destinations awaiting reconciliation (R250, R253). -/
def reconPending (s : State) : Nat := (s.tal.src.filter fun e => e.2.settle.isSome || e.2.hold || e.2.recon.isSome).length

/-- TAL_STATUS (R253). -/
def talStatus (s : State) : Word := place (exposureSum s) 32 20 ||| place (defaultGrant s) 10 20 ||| place (reconPending s) 0 10

/-- MIL_STATUS (R330). -/
def milStatus (s : State) : Word :=
  place s.pwr.ceiling.toNat 40 4 ||| place s.mil.autoOos.toNat 32 8 ||| bitmap 8 24 (fun n => (stone s n).work.isSome)
  ||| bitmap 8 16 (fun n => (stone s n).matrix.isSome && !(stone s n).loading) ||| bitmap 8 8 (fun n => (stone s n).running)

/-- ALM_STATUS (R391): the grandmaster is no hop from itself and has no parent (log entry 163). -/
def almStatus (s : State) : Word :=
  let a := s.alm
  let (steps, gm, parent) := if isMaster s then (0, s.gbl.fabricId.toNat, 0x7F) else (a.steps.toNat, a.gmId.toNat, a.parent.toNat)
  place a.offset.toNat 40 24 ||| place steps 32 8 ||| place gm 23 9 ||| place parent 16 7 ||| place (almCode a.state) 0 3

/-- ALM_CMP_STATUS.ARMED: comparator `n` waits for its time (R376). -/
def cmpArmed (s : State) (n : Nat) : Bool := (cmpOf s n).en

/-- CUR_STATUS (R437). -/
def curStatus (c : Cur) : Word :=
  place c.lateNs.toNat 48 16 ||| place c.ignored.toNat 40 8 ||| place c.refused.toNat 32 8 ||| place c.origin.toNat 23 9
  ||| place c.originKind.toNat 20 3 ||| flag c.done 3 ||| place (curCode c.state) 0 3

/-- PWR_STATUS (R391). -/
def pwrStatus (s : State) : Word :=
  place s.pwr.estimate.toNat 48 16 ||| place (effCap s) 32 16 ||| place s.pwr.narrowed.length 25 7 ||| place s.pwr.parked.length 18 7
  ||| place s.pwr.throttle.toNat 11 7 ||| place s.pwr.ceiling.toNat 7 4 ||| flag (s.pwr.belowFloor || s.pwr.leversSpent) 6 ||| flag s.pwr.orphan 5
  ||| flag s.pins.therm 4 ||| flag s.pins.brake 3 ||| place (pwrCode s.pwr.state) 0 2

/-- FLT_STATUS (R413). -/
def fltStatus (s : State) : Word :=
  place s.flt.nextSeq.toNat 32 32 ||| flag s.flt.safe 4 ||| flag s.flt.ringLost 3 ||| flag s.flt.overflow 2 ||| flag s.flt.first 1
  ||| flag (s.flt.sources.any fun e => e.2.severe) 0

/-- GBL_TXN_TIMEOUT.EFFECTIVE_US (R469). -/
def effectiveUs (s : State) : Nat := effTimeout s / usUnits

/-- What a register of the global page shows beside its writable fields. -/
def globalShows (s : State) (a : Nat) : Word :=
  if a = 0 then place 0x0C3A 48 16 ||| place 0x0E21 32 16 ||| place 1 24 8
  else if a = 0x8 then unitDir s.part
  else if a = 0x10 then place s.gbl.calibrated.toNat 16 32 ||| place (stageCode s.gbl.stage) 0 4
  else if a = 0x20 then flag s.gbl.fabricValid 15
  else if a = 0x28 then flag s.part.codePass 3 ||| place s.part.grain.toNat 0 3
  else if a = 0x30 then place (effectiveUs s) 32 20
  else if a = 0x1008 then place s.chn.chans.length 32 22
  else if a = 0x1030 then place s.gbl.notify.ring.tail.toNat 0 32
  else if a = 0x1050 then place s.gbl.terRing.tail.toNat 0 32
  else if a = 0x2000 then flag s.route.epoch 4
  else if a = 0x2010 then talStatus s
  else if a = 0x2018 then place (linesHeld s) 0 20
  else if a = 0x2020 then s.brn.overruns
  else if a = 0x2028 then (if s.part.m then place s.mil.pool.toNat 0 16 else 0)
  else if a = 0x2030 then (if s.part.m then milStatus s else 0)
  else if a = 0x2038 then (if s.part.m then place s.mil.unchecked.toNat 32 32 ||| place s.mil.mismatch.toNat 0 32 else 0)
  else if a = 0x2050 then bitmap 32 32 (fun c => (croft s c).calPending.isSome) ||| bitmap 32 0 (fun c => (croft s c).calActive)
  else if a = 0x3000 then s.gbl.eventStatus
  else if a = 0x3010 then s.gbl.linkEvent0
  else if a = 0x3018 then s.gbl.linkEvent1
  else if a = 0x3030 then tailHigh s.stw.ring
  else if a = 0x4000 then s.alm.now
  else if a = 0x4018 then almStatus s
  else if a = 0x4020 then bitmap 16 16 (cmpArmed s) ||| place s.alm.fired.toNat 0 16
  else if a = 0x5008 then curStatus s.cur
  else if a = 0x5010 then s.cur.stopTime
  else if a = 0x6008 then pwrStatus s
  else if a = 0x7000 then fltStatus s
  else if a = 0x7008 then s.flt.firstWord
  else if a = 0x7010 then s.flt.firstTime
  else if a = 0x7028 then tailHigh s.flt.ring
  else if 0x7080 ≤ a ∧ a < 0x7100 then bitmap 64 0 (fun b => (Tab.get {} s.flt.sources (64 * ((a - 0x7080) / 8) + b)).severe)
  else if a = 0x8000 then place (if diagMode s then 2 else 1) 3 2
  else if 0x8200 ≤ a ∧ a < 0x8400 then (Tab.get {} s.obs.watches ((a - 0x8200) / 8)).count
  else if 0x10000 ≤ a ∧ a < 0x10000 + 8 * 0xB68 then Tab.get 0 s.obs.cnt ((a - 0x10000) / 8)
  else 0

/-- What a register of croft c's page shows beside its writable fields (R228). -/
def croftShows (s : State) (c a : Nat) : Word :=
  let l := link s (3 * c + a / 0x1000 - 1)
  if a / 0x1000 = 0 then (if a = 8 && hasCroft s c then flag (croft s c).pllLock 0 else 0)
  else if !(hasLink s (3 * c + a / 0x1000 - 1)) then 0
  else if a % 0x1000 = 0x08 then lnkStatus l
  else if a % 0x1000 = 0x18 then l.csym0
  else if a % 0x1000 = 0x20 then l.csym1
  else if a % 0x1000 = 0x28 then place l.retimer0.toNat 0 32
  else if a % 0x1000 = 0x30 then place l.retimer1.toNat 0 32
  else 0

/-- What a register of parish q's page shows beside its writable fields (R337, R428, R475-R477). -/
def parishShows (s : State) (q : BitVec 6) (a : Nat) : Word :=
  let p := parish s q.toNat
  if a = 0x00 then place p.tag.toNat 32 16 ||| flag p.sealed 8 ||| place (parCode p.state) 0 2
  else if a = 0x08 then place p.share.toNat 40 8 ||| place p.maxPrio.toNat 32 3 ||| place p.reserve.toNat 16 11 ||| place p.maxInflight.toNat 0 11
  else if a = 0x10 then place p.windowQuota.toNat 32 21 ||| place (winHeld s q) 0 21
  else if a = 0x18 then place ((mgmtCmds s).filter fun c => c.parish == some q).length 16 5 ||| place (parInflight s q) 0 11
  else if a = 0x20 then flag p.soft 1 ||| flag p.ovf 0
  else if a = 0x40 then place p.notify.ring.tail.toNat 0 32
  else if a = 0x70 then (if s.part.t then tailHigh p.trace else 0)
  else if 0x200 ≤ a ∧ a < 0x400 then
    let w : Watch := Tab.get {} s.obs.watches ((a - 0x200) / 8)
    if w.owner = some q then w.count else 0
  else if 0x1000 ≤ a ∧ a < 0x1000 + 8 * 0x30 then Tab.get 0 s.obs.parCnt (64 * q.toNat + (a - 0x1000) / 8)
  else 0

/-- What a register of the Reeve page shows beside the fields Reeve writes (R340, R413, R462). -/
def reeveShows (s : State) (a : Nat) : Word :=
  if a = 0 then
    place s.ree.fwSvn.toNat 48 16 ||| place s.ree.otpSvn.toNat 32 16 ||| place (s.ree.slots.filter fun e => e.2.state != .free).length 16 16
    ||| flag s.ree.noteLost 9 ||| flag (!s.ree.notes.isEmpty) 8 ||| flag s.ree.sealReady 4 ||| place s.ree.boot.toNat 0 4
  else if a = 8 then s.ree.sealMap
  else if a = 0x228 then place s.ree.srcSel.toNat 32 10 ||| place (profileNo s s.ree.srcSel.toNat) 0 4
  else 0

/-- The read view of a doorbell (R68): a channel that the controller does not hold shows what memory holds of its descriptor. -/
def bellShows (s : State) (ch : BitVec 21) : Word :=
  let (w3, w5) := match chan? s ch with
    | some c => ((chanWords c).getD 0 0, (chanWords c).getD 2 0)
    | none => (descWord s ch 3, descWord s ch 5)
  place (bits w5 8 8) 40 8 ||| place (bits w5 4 2) 36 2 ||| (if bitAt s.gbl.chnCtl 5 then place (bits w5 0 3) 32 3 else 0) ||| place (bits w3 32 32) 0 32

/-! ## A read -/

/-- The value of a register: its writable fields and what else it shows; none where no register lies. -/
def regValue (s : State) (a : Nat) : Option Word :=
  if isBell a then (if a % 8 = 0 then some (bellShows s (BitVec.ofNat 21 ((a - 0x1000000) / 8))) else none)
  else if 0x100000 ≤ a ∧ a < 0x200000 then
    if reevePage (a - 0x100000) then some (((reeveReg s (a - 0x100000)).elim 0 RegSpec.old) ||| reeveShows s (a - 0x100000)) else none
  else (regAt s false a).map fun r => r.old |||
    (if a < 0x100000 then globalShows s a
     else if a < 0x400000 then croftShows s ((a - 0x200000) / 0x10000) (a % 0x10000)
     else parishShows s (BitVec.ofNat 6 ((a - 0x400000) / 0x10000)) (a % 0x10000))

/-- What a read answers at once (R456, R466): none while it is not served or is held, zero where it is dropped. -/
def readNow (who : Who) (a size : Nat) (s : State) : Option Word :=
  let served := some (if size = 8 && a % 8 == 0 && mayRead s who a then (regValue s a).getD 0 else 0)
  if !s.pins.pwrOk || s.pins.aonReset then none
  else if who = .reeve || s.flt.safe then served
  else if stoppedByCurfew s && !(curOrAlm a) then none
  else if !(ctrlpOpen s) then (if bootReads a then served else some 0)
  else if s.pwr.state == .parked && !(parkedServes a) && who != .internal then none
  else served

end Sys2Proof.Machine
end

