-- ==== Sys2Proof/WellFormed.lean ====
section
/-! DEFINITION. The checks that make a command's operands well formed: packets are 64 B or 128 B (R65, R67), links and planes are
numbered 0-95 (R3), flits have 256 B (R190), an access has a size the ports have, a transaction's lists have the sizes its kind
allows. -/

namespace Sys2Proof.WellFormed

/-- A command packet is 64 B or 128 B: 8 or 16 words, the long form exactly when EXT is set (R67). -/
def packetWf (pkt : List Word) : Bool :=
  match pkt with
  | [] => false
  | w0 :: _ => if w0.getLsbD 15 then pkt.length == 16 else pkt.length == 8

/-- A link or plane number of the largest part (R3). -/
def linkWf (p : BitVec 7) : Bool := decide (p.toNat < 96)

/-- An operand source: a packet where it is one. -/
def cmdSrcWf : CmdSrc → Bool
  | .ring _ pkt => packetWf pkt
  | .reeve _ _ => true

/-- An arrival's way in. -/
def viaWf : Via → Bool
  | .link p => linkWf p
  | .self => true

/-- A flit on the wire has 256 B (R190). -/
def flitWf (raw : List Byte) : Bool := raw.length == 256

/-- Bytes of the chip's memory lie below 2^52 (R65). -/
def seenWf (seen : List (Nat × Byte)) : Bool := seen.all fun c => decide (c.1 < 2 ^ 52)

/-- The sizes of an access of the direct access port (R147). -/
def sizeWf (n : Nat) : Bool := [1, 2, 4, 8, 16, 32, 64].contains n

/-- The sizes of a control-port access: 1 to 8 bytes (R460, R462). -/
def accessWf (n : Nat) : Bool := decide (1 ≤ n) && decide (n ≤ 8)

/-- A transaction has at least a header slot and at most the slots its length field counts (R193); weights come eight to a slot
(R119). -/
def txnWf (t : Txn) : Bool := decide (1 ≤ t.len) && decide (t.len < 1024) && t.weights.length % 8 == 0

/-- A patrol-scrub word. -/
def sramWf : SramWord → Bool
  | .replayCopy p => linkWf p
  | _ => true

/-- What a fault message comes from. -/
def faultWf : FaultFrom → Bool
  | .word w _ => sramWf w
  | .read _ _ size => accessWf size.toNat
  | _ => true

/-- What wakes a PARKED block. -/
def wakeWf : WakeCause → Bool
  | .registerRead _ _ size => accessWf size.toNat
  | _ => true

/-- A command is well formed. -/
def instr : Instr → Bool
  | .nop _ pkt => packetWf pkt
  | .put _ pkt => packetWf pkt
  | .get _ pkt => packetWf pkt
  | .copy _ pkt => packetWf pkt
  | .rput _ pkt => packetWf pkt
  | .mput _ pkt => packetWf pkt
  | .iput _ pkt => packetWf pkt
  | .iget _ pkt => packetWf pkt
  | .amo _ pkt => packetWf pkt
  | .amof _ pkt => packetWf pkt
  | .wait _ pkt => packetWf pkt
  | .sync _ pkt => packetWf pkt
  | .mark _ pkt => packetWf pkt
  | .xform _ pkt => packetWf pkt
  | .winOpen _ pkt => packetWf pkt
  | .winClose _ pkt => packetWf pkt
  | .winCloseDrained _ => true
  | .profileSet _ pkt => packetWf pkt
  | .tableSet _ pkt => packetWf pkt
  | .matrixSet _ pkt => packetWf pkt
  | .matrixSetClear _ pkt => packetWf pkt
  | .milRelease _ pkt => packetWf pkt
  | .watchSet _ pkt => packetWf pkt
  | .watchSetClear _ pkt => packetWf pkt
  | .traceCtl _ pkt => packetWf pkt
  | .parishCreate _ pkt => packetWf pkt
  | .parishSet _ pkt => packetWf pkt
  | .parishRetire src => cmdSrcWf src
  | .parishQuiescent _ => true
  | .parishCleared _ => true
  | .blockScrub src => cmdSrcWf src
  | .blockScrubCleared => true
  | .routeLoad _ pkt => packetWf pkt
  | .routeCommit _ pkt => packetWf pkt
  | .stripeMapSet _ pkt => packetWf pkt
  | .planeDrain _ pkt => packetWf pkt
  | .planeUndrain _ pkt => packetWf pkt
  | .fence src => cmdSrcWf src
  | .unfence src => cmdSrcWf src
  | .tallyPlan _ pkt => packetWf pkt
  | .tallyPlanClear _ pkt => packetWf pkt
  | .keyPair _ pkt => packetWf pkt
  | .keyPairRekey _ pkt => packetWf pkt
  | .keyPairTimeout _ _ => true
  | .reeveMsgRequest _ pkt => packetWf pkt
  | .reeveMsgPull _ pkt => packetWf pkt
  | .reeveMsgPush _ pkt => packetWf pkt
  | .reeveMsgNotes _ pkt => packetWf pkt
  | .pairSlotDrainEnd _ => true
  | .timeSet _ pkt => packetWf pkt
  | .powerSet _ pkt => packetWf pkt
  | .blockWake cause => wakeWf cause
  | .terInvalidate _ pkt => packetWf pkt
  | .invalidateAck _ => true
  | .invalidateLate => true
  | .terResolveRetry _ pkt => packetWf pkt
  | .terResolveAbort _ pkt => packetWf pkt
  | .terFaultTimeout _ => true
  | .apertureSet _ pkt => packetWf pkt
  | .curfew _ pkt => packetWf pkt
  | .hangReportGraph _ pkt => packetWf pkt
  | .hangReportSnapshot _ pkt => packetWf pkt
  | .selftestRemove _ pkt => packetWf pkt
  | .selftestTest _ pkt => packetWf pkt
  | .selftestDone _ => true
  | .selftestRestore _ pkt => packetWf pkt
  | .calibrate _ pkt => packetWf pkt
  | .calibrationForce _ => true
  | .croftCalibrationDone _ => true
  | .doorbellTail _ _ _ => true
  | .doorbellCplHead _ _ _ => true
  | .doorbellPark _ _ => true
  | .doorbellResume _ _ => true
  | .channelParked _ => true
  | .overflowDequeue => true
  | .recordPost _ => true
  | .waitReevaluate _ => true
  | .tagGrant => true
  | .stripeIssue _ => true
  | .creditWaitTimeout _ => true
  | .txnTimeout _ => true
  | .signalSlotRelease _ => true
  | .putData via t => viaWf via && txnWf t
  | .rputSum via t => viaWf via && txnWf t
  | .rputMax via t => viaWf via && txnWf t
  | .rputMin via t => viaWf via && txnWf t
  | .rputWsum via t => viaWf via && txnWf t
  | .getRequest via t => viaWf via && txnWf t
  | .getResponse via t => viaWf via && txnWf t
  | .amoRequest via t => viaWf via && txnWf t
  | .amofRequest via t => viaWf via && txnWf t
  | .signal via t => viaWf via && txnWf t
  | .load via t => viaWf via && txnWf t
  | .store via t => viaWf via && txnWf t
  | .loadData via t => viaWf via && txnWf t
  | .amofResult via t => viaWf via && txnWf t
  | .ack via t => viaWf via && txnWf t
  | .refuse via t => viaWf via && txnWf t
  | .amoDone via t => viaWf via && txnWf t
  | .signalDone via t => viaWf via && txnWf t
  | .query via t => viaWf via && txnWf t
  | .queryReply via t => viaWf via && txnWf t
  | .storeDone via t => viaWf via && txnWf t
  | .signalHoldExpiry _ _ => true
  | .orderedStageTimeout _ => true
  | .orderedBrokenFree _ _ _ => true
  | .windowQuarantineEnd _ => true
  | .dapLoad _ size => sizeWf size.toNat
  | .dapStore _ data => sizeWf data.length
  | .mempReadResponse _ seen => seenWf seen
  | .mempWriteAck _ => true
  | .mempErrorResponse _ _ => true
  | .flitSend link => linkWf link
  | .flitReceive link raw => linkWf link && flitWf raw
  | .nack link _ => linkWf link
  | .nackHoldoffExpiry link => linkWf link
  | .replayTimerExpiry link => linkWf link
  | .trainFlit link => linkWf link
  | .linkTrained link _ _ _ _ => linkWf link
  | .linkId link _ => linkWf link
  | .widthReq link _ => linkWf link
  | .widthAck link _ _ => linkWf link
  | .widthChangeDone link => linkWf link
  | .speedReq link _ => linkWf link
  | .speedAck link _ _ => linkWf link
  | .speedChangeDone _ => true
  | .pauseLimitExpiry link => linkWf link
  | .parkReq link => linkWf link
  | .parkAck link _ => linkWf link
  | .planeNotice link plane _ _ => linkWf link && linkWf plane
  | .laneLockChange link _ _ => linkWf link
  | .linkDownDeclare link => linkWf link
  | .lpiEnter link => linkWf link
  | .lpiWakeTimeout link => linkWf link
  | .grant link _ => linkWf link
  | .release link _ => linkWf link
  | .reconcile link _ => linkWf link
  | .reconAck link _ => linkWf link
  | .grantUpdateDue _ => true
  | .tallyRefresh => true
  | .reconcileSettleExpiry _ => true
  | .reconcileSend _ => true
  | .reconcileResend _ => true
  | .timeFlit link _ _ _ _ => linkWf link
  | .timePps => true
  | .capMessage _ _ => true
  | .powerEstimate _ => true
  | .leverRelease _ => true
  | .brakeAssert _ => true
  | .brakeRelease => true
  | .routeSettleExpiry => true
  | .capHeartbeat => true
  | .calibrationWindowStart => true
  | .parkWakeTime => true
  | .telemetrySnapshot => true
  | .hangCheck => true
  | .patrolScrub word _ => sramWf word
  | .operatorComparatorFire _ => true
  | .ageingMonitorSample _ _ _ => true
  | .gangAllocate => true
  | .stoneLoadDone _ => true
  | .millGangTimeout _ => true
  | .stoneQuiet _ => true
  | .stoneWake _ => true
  | .faultMessage origin => faultWf origin
  | .collectorSelfFault => true
  | .faultPulseEnd => true
  | .fltForce _ _ => true
  | .fltClearSource _ _ => true
  | .fltFirstClear _ _ => true
  | .curfewIn => true
  | .curfewFlit link _ _ => linkWf link
  | .curfewStop => true
  | .curfewDumpDone => true
  | .curfewReleaseContinue _ _ => true
  | .curfewReleaseHalt _ _ => true
  | .curfewRestart => true
  | .jtagDumpShift _ _ => true
  | .notifyHoldoffExpiry _ => true
  | .parIrqForce _ _ _ => true
  | .crfCtlRate _ _ _ => true
  | .lnkCtlWidth _ link _ => linkWf link
  | .lnkCtlEn _ link _ => linkWf link
  | .pwrCtlMaxRate _ _ => true
  | .milPool _ _ => true
  | .almCmpArm _ _ _ => true
  | .registerWrite _ _ size _ => accessWf size.toNat
  | .aonReset => true
  | .pwrOkLow => true
  | .blockReset => true
  | .blockResetRelease => true
  | .fwVerifyDone _ => true
  | .sramClearDone => true
  | .startupCalibrationDone _ _ _ => true
  | .stewardMailboxRequest _ => true
  | .miswiredRetrain link => linkWf link
  | .traceSample _ => true
  | .diagHoldExpiry => true
  | .wakeRejoinDeadline => true
  | .forcedCalibrationSpacing => true
  | .calibrationAgeDue _ => true
  | .pwrOkHigh => true
  | .aonResetRelease => true
  | .croftPllUnlock _ => true
  | .stewardWatchdog _ => true
  | .terFaultEnClear _ _ => true

end Sys2Proof.WellFormed
end

