-- ==== Sys2Proof/Tests/Slice0.lean ====
section
/-! SUPPORT. The model's own tests: each check of well-formedness refuses a command that breaks it, the spec's worked examples, and for
every statement the states and operands that meet its hypotheses, together, for each of its clauses. -/

namespace Sys2Proof.Tests

open Sys2Proof Sys2Proof.Machine Sys2Proof.Safety

set_option maxRecDepth 100000
set_option exponentiation.threshold 5000
set_option Elab.async false

/-! ## Small states -/

/-- A packet of 64 B, and one of 128 B with EXT set. -/
def pk (w0 : Word) (ws : List Word) : List Word := (w0 :: ws ++ List.replicate 8 0).take 8
def pkx (w0 : Word) (ws : List Word) : List Word := ((w0 ||| 0x8000) :: ws ++ List.replicate 16 0).take 16

/-- A running block, time well past 0, no channel yet: device 5, parish 1 ACTIVE. -/
def up : State :=
  { State.reset with
    pins := { aonReset := false, pwrOk := true, blockReset := false }
    gbl := { stage := .ready, calibrated := 0xFFFFFFFF, calFinished := 0xFFFFFFFF, fabricValid := true, fabricId := 5, chnCtl := 0x2A, winCtl := 0x2A }
    stw := { running := true }
    alm := { now := 0x10000000000000, state := .locked }
    par := [(1, { state := .active, tag := 7, share := 16, maxPrio := 3, maxInflight := 256, windowQuota := 16384, terMode := 1, terRoot := 0x800 })] }

/-- A channel with sixteen fetched entries to start. -/
def ready (q : BitVec 6) : Chan := { parish := q, ringBase := 0x10000, cplBase := 0x20000, tail := 16, fetched := 16, state := .running }

/-- With the operator's channel 0, or with channel 5 of parish 1. -/
def op0 : State := { up with chn := { chans := [(0, ready 0)] } }
def par5 : State := { up with chn := { chans := [(5, ready 1)] } }

/-- A PUT or GET of one run of 64 B to the device itself, by opcode, and the same with 128-B packets. -/
def run64 (op : Word) : List Word := pk op [0x1000, 0x30005, 0, 0x100000040]
def run64x (op : Word) (w8 w13 : Word) : List Word := pkx op [0x1000, 0x30005, 0, 0x100000040, 0, 0, 0, w8, 0, 0, 0, 0, w13]

/-- par5 with virtual page 5 of parish 1 RESIDENT at physical page 9 in the range cache. -/
def cached5 : State := { par5 with ter := { cache := [{ parish := 1, va := 0x5000, len := 0x1000, pa := 0x9000, state := .resident }] } }

/-- A window of parish 1. -/
def win1 : Win := { state := .opened, tag := 7, parish := 1, classes := 15, vaBase := 0x5000, length := 0x1000 }

/-- With window 3 of parish 1 open, closing, or in quarantine; the window table enabled. -/
def open3 : State := { par5 with wins := { entries := [(3, win1)], cached := [3] } }
def closing3 : State := { up with wins := { entries := [(3, { win1 with state := .closing })], closing := [(3, none)] } }
def quarantine3 : State := { up with wins := { entries := [(3, { win1 with state := .quarantine, qEnd := 16 })] } }

/-- With matrix 9 of parish 1 registered; with watchpoint 3 of parish 1 set, hit twice. -/
def matrix9 : State := { par5 with mil := { regs := [{ parish := 1, ident := 9, va := 0x5000, k := 64, n := 64, format := 1 }] } }
def watch3 : State := { par5 with obs := { watches := [(3, { owner := some 1, length := 64, classes := 1, actions := 1, count := 2 })] } }

/-- At system level, with the other bank loaded. -/
def system0 : State := { op0 with route := { ctl := 0xC80001#64 } }

/-- A route entry for device 9 on links 0 to 2, which are up; a sealed parish 2. -/
def entry9 : BitVec 128 := 0x80000000000000000000000000000007
def routed : State := { up with
  route := { bank0 := [(9, entry9)], linkUp := 7 }
  lnk := { links := [(0, { state := .up, lanes := 3, lock0 := true, lock1 := true, joined := true, en := true }), (1, { state := .up, lanes := 3, joined := true, en := true }),
                     (2, { state := .up, lanes := 3, joined := true, en := true })], crofts := [(0, { pllLock := true })] } }
def keyed0 : State := { routed with chn := { chans := [(0, ready 0)] }, par := (2, { state := .active, tag := 8, sealed := true }) :: up.par }

/-- With a key job whose message is ready, and one past 10 s; a note; a DRAINING pair slot past its time. -/
def told0 : State := { keyed0 with ree := { jobs := [{ parish := 2, peer := 9, rekey := false, start := 0, ready := true }],
                                            notes := [{ w0 := 1, w1 := 0, w2 := 0, w3 := 0 }], slots := [(6, { peer := 9, parish := 2, state := .draining })] } }

/-- As grandmaster. -/
def master0 : State := { op0 with alm := { op0.alm with ctl := 1 } }

/-- With aperture 4 of parish 1 enabled. -/
def ap4 : Aperture := { enabled := true, base := 0x10000, size := 0x1000, dest := 5, window := 3, parish := 1, store := true, load := true }
def aperture0 : State := { op0 with dap := { aps := [(4, ap4)] } }

/-- routed, with channel 0. -/
def routed0 : State := { routed with chn := { chans := [(0, ready 0)] } }

/-- With an invalidation of parish 1 under way, started long ago; `n` agents have acknowledged it for command 3. -/
def mgmt3 (op : BitVec 8) : Cmd := { id := 3, ch := 0, parish := none, op := op, pkt := pk (op.setWidth 64) [], ringIx := 0, recIx := 0, phase := .mgmt }
def inv (n : Nat) : Inval := { cmd := 3, parish := 1, lo := 0, hi := 0x1000, start := 16, acked := (List.range n).map (BitVec.ofNat 6), removed := 2, mark := 0, late := false }
def inval (n : Nat) : State := { up with
  eng := { cmds := [mgmt3 0x90], nextId := 4 }
  ter := { inval := some (inv n) } }

/-- With record 7 of parish 1 open, for nothing, and for the parked command 3. -/
def rec7 (ws : List Requester) : TerRec := { seq := 7, kind := 1, parish := 1, granule := 0, firstVa := 0x5000, layer := 0, time := 16, waiters := ws }
def parked3 : Cmd := { id := 3, ch := 5, parish := some 1, op := 1, pkt := run64 1, ringIx := 0, recIx := 0, engine := some 0, phase := .parked }
def recorded0 : State := { op0 with ter := { recs := [rec7 []], cache := [{ parish := 1, va := 0x5000, len := 0x1000, pa := 0x9000, state := .away }] } }
def faulted0 : State := { op0 with eng := { cmds := [parked3], nextId := 4 }, ter := { recs := [rec7 [.cmd 3]] } }

/-- Parish 1 with a stopped, quiet channel 5, ACTIVE, RETIRING, CLEARING; the whole block with a scrub remembered. -/
def parIs (st : ParState) : State := { par5 with par := [(1, { state := st, tag := 7 })] }
def retire0 : State := { op0 with chn := { chans := [(0, ready 0), (5, { ready 1 with fetched := 0 })] } }
def scrubbed : State := { up with stw := { running := true, scrub := some (2, true) } }

/-- Engine 3 and croft 1 removed and passed; a test of engine 3 that command 3 waits for. -/
def removed0 : State := { op0 with stw := { running := true, engines := [(3, { removed := true })], crofts := [(1, { removed := true })] } }
def tested3 : State := { up with eng := { cmds := [mgmt3 0x96], nextId := 4 }, stw := { running := true, engines := [(3, { removed := true, passed := false })], test := some (0, 3, 3) } }

/-- Channel 5 PARKING; parked and held by memory alone; in the overflow ring. -/
def chParking : Chan := { ready 1 with state := .parking, fetched := 0 }
def chOvf : Chan := { ready 1 with cached := false, ovfQueued := true }
def parking5 : State := { up with chn := { chans := [(5, chParking)] } }
def memory5 : State := { up with gbl := { up.gbl with chnBase := 0x100000 } }
def overflow5 : State := { up with chn := { chans := [(5, chOvf)], ovf := [5] } }

/-- A command of channel 5 that is done; a WAIT of channel 5 to read again; a signalled PUT that waits for a tag. -/
def done3 : Cmd := { parked3 with phase := .done, status := 0 }
def recordable : State := { par5 with eng := { cmds := [done3], nextId := 4 } }
def wait5 : Waiter := { ch := 5, va := 0x5008, mask := 0xFF, val := 3, op := 0, pkt := pk 0xC [0x5008, 0xFF, 3], table := true, pa := some 0x9008, due := 16 }
def waiting5 : State := { par5 with chn := { chans := [(5, { ready 1 with state := .blocked, blockCause := 2 })]
                                             waits := [wait5] } }
def sealer0 : State := { op0 with ree := { sealReady := true } }

/-- A signalled PUT of 64 B to device 9 that waits for its tag. -/
def put9 : List Word := pk 1 [0x1000, 0x30009, 0, 0x100000040, 0, 0x1000000000000000]
def tagged3 : Cmd := { id := 3, ch := 5, parish := some 1, op := 1, pkt := put9, ringIx := 0, recIx := 0, engine := some 0, phase := .tags, needTags := [9],
                       targets := [{ dev := 9, tag := 0 }], spans := [⟨0x1000, 64⟩], ranges := [{ va := 0x1000, len := 0x1000, pa := 0x9000 }] }
def tagging : State := { routed with eng := { cmds := [tagged3], nextId := 4, tagWait := [3] } }

/-- A command whose one transaction is outstanding, with or without a signal: its packet, its device. -/
def out3 (ws : List Word) (n : Nat) : Cmd := { parked3 with phase := .active, pkt := ws, op := BitVec.ofNat 8 (ws.headD 0).toNat, next := n, targets := [] }
def plain9 (op : Word) : List Word := pk op [0x1000, 0x30009, 0, 0x100000040]

/-- A transaction of 64 B, and an answer to it, by kind, between two devices. -/
def txn (k : Nat) (src dest : BitVec 9) : Txn := { kind := BitVec.ofNat 5 k, len := 3, src := src, dest := dest, ptag := 7, window := 3, bytes := 63, payload := List.replicate 64 0x11 }
def reply (k : Nat) (src dest : BitVec 9) : Txn := { txn k src dest with len := 1, status := 0x41, payload := [] }

/-- A unit for command 3, for a core's access, or for an answer, at the check for room or in flight, long ago. -/
def unit1 (use : UnitFor) (k : Nat) (d : BitVec 9) (gone : Bool) : Xu :=
  { id := 1, use := use, dests := [d], owed := if gone then [d] else [], txn := txn k 5 d, lines := 2, charged := gone, sent := gone, waitEnd := 16, deadline := 16, parish := some 1 }
def tallied : State := { routed with tal := { src := [(9, { seen := 64 })], tgt := [(9, { issued := 64 })] } }
def put5u : Xu := unit1 (.cmd 3) kPutData 5 false
def put9u (gone : Bool) : Xu := unit1 (.cmd 3) kPutData 9 gone
def get9u (gone : Bool) : Xu := unit1 (.answer 9) kGetResponse 9 gone
def store9u (gone : Bool) : Xu := unit1 (.dap 3) kStore 9 gone
def unitIn (c : Cmd) (u : Xu) : State := { tallied with eng := { cmds := [c], nextId := 4 }, tx := { units := [u], nextId := 2 } }
def acc3 : DapAcc := { id := 3, aperture := 4, dest := 9, isStore := true, pa := 0x10040 }
def dapIn (u : Xu) : State := { tallied with dap := { accs := [acc3] }, tx := { units := [u], nextId := 2 } }

def reading3 : Cmd := { out3 (run64 1) 1 with reading := true }
def local3 : Cmd := out3 (run64 1) 1
def put3 : Cmd := out3 (plain9 1) 1
def amo3 (op : Word) : Cmd := out3 (plain9 op) 1

/-- A signalled command: its signal sent and not answered; its fate asked for. -/
def sigTo (f : SigFate) : Target := { dev := 9, tag := 4, planned := 1, sig := f }
def signal3 (f : SigFate) : Cmd := { out3 put9 1 with targets := [sigTo f], lost := if f = .querying then [0x50] else [] }
def sigUnit : Xu := { unit1 (.cmd 3) kSignal 9 true with owed := [], await := true }
def signalled9 : State := { unitIn (signal3 .sent) sigUnit with route := { tallied.route with ctl := 0 } }
def query4 : QueryOut := { id := 2, cmd := 3, dev := 9, tag := 4, deadline := 0x10000000000010 }
def asked9 : State := { tallied with eng := { cmds := [signal3 .querying], nextId := 4 }, tx := { queries := [query4], nextId := 3 } }
def signalDone9 : Txn := { reply kSignalDone 9 5 with tag := 4 }
def queryReply9 : Txn := { reply kQueryReply 9 5 with tag := 4, status := 0 }

/-- A target: window 3 of parish 1 open on virtual page 5, RESIDENT; its entry at hand or not; with a transaction of its own to take. -/
def request (k : Nat) (src : BitVec 9) : Txn :=
  { txn k src 5 with format := if 2 ≤ k ∧ k ≤ 5 then 3 else 0, tag := 4, sigCtl := 0x30000000000, len := if k = 8 ∨ k = 9 ∨ k = 10 then 2 else if k = 5 then 4 else 3 }
def target (near : Bool) (x : Txn) : State :=
  { tallied with chn := par5.chn, ter := cached5.ter, wins := { entries := [(3, win1)], cached := if near then [3] else [] }, tx := { locals := [x] } }
def shut (x : Txn) : State := { target true x with wins := { entries := [(3, { win1 with classes := 0 })], cached := [3] } }
def signalEnd : Txn := { request kSignal 5 with expected := 1 }
def question : Txn := { reply kQuery 5 5 with tag := 4 }
def entry4 (st : SigState) : SigEnt := { src := 5, tag := 4, state := st, holdEnd := 16, window := 3, parish := 1 }
def entered (st : SigState) : State := { target true question with sig := { ents := [entry4 st] } }

/-- An ORDERED stripe staged too long, and its group; a broken group. -/
def stripe3 : Txn := { request kRputSum 9 with count := 2, rank := 1 }
def group3 (b : Bool) : Group := { window := 3, offset := 0, stripe := 0, count := 2, next := 0, broken := b, freeAt := 16 }
def staged3 : Arrival := { id := 6, via := .link 0, txn := stripe3, lines := 3, state := .staged, parish := 1, waitEnd := 16 }
def stagedIn : State := { target true question with brn := { arrivals := [staged3], nextId := 7 }, groups := [group3 false] }
def brokenIn : State := { target true question with groups := [group3 true] }

/-- Apertures with no channel; requests outstanding at the memory ports. -/
def ap9 : Aperture := { ap4 with dest := 9 }
def apertured : State := { tallied with dap := { aps := [(4, ap9)] } }
def safeNow : State := { up with flt := { safe := true } }
def ringRead : ReadReq := { id := 8, use := .ring 5 16 4, parts := [(0x10400, 256)], cls := 0, at_ := 0 }
def behind5 : Chan := { ready 1 with head := 12, tail := 32 }
def ringed5 : State := { par5 with chn := { chans := [(5, behind5)] }, memp := { reads := [ringRead], nextId := 9 } }
def background : WriteReq := { id := 8, use := .background, cells := [(0x10400, 0x55)], cls := 0, at_ := 0 }
def written0 : State := { up with memp := { writes := [background], nextId := 9 } }
def committed6 : Arrival := { id := 6, via := .self, txn := request kPutData 5, lines := 0, state := .writing, parish := 1 }
def commitReq : WriteReq := { id := 8, use := .commit 6, cells := [(0x9000, 0x11)], cls := 0, at_ := 0 }
def committing : State := { target true question with brn := { arrivals := [committed6], nextId := 7 }, memp := { writes := [commitReq], nextId := 9 } }

/-- routed with link 0 changed. -/
def up0 : Link := { state := .up, lanes := 3, lock0 := true, lock1 := true, joined := true, en := true, timeAt := some 0x10000000000000 }
def linked (l : Link) : State := { routed with lnk := { routed.lnk with links := [(0, l), (1, up0), (2, up0)] } }
def isolated : State := { linked up0 with flt := { safe := true } }
def talking (sub : BitVec 8) (w1 : Word) : Link := { up0 with ctrlq := [(sub, w1, 0, 0)] }
def ctrl (n : BitVec 16) : Flit := { type := 7, body := [1], seq := n }
def flitOf (head tail : List Nat) : List Byte := (head ++ List.replicate (256 - head.length - tail.length) 0 ++ tail).map fun n => BitVec.ofNat 8 n

/-- CTRL flit 0 with its CRC and its parity, and a TALLY flit; with a CRC of zeros and the parity of that; nine bytes that are wrong. -/
def raw0 : List Byte := flitOf [0, 0, 255, 255, 7, 0, 0, 0, 1]
  [18, 207, 55, 175, 10, 242, 179, 52, 239, 191, 33, 168, 231, 230, 132, 127, 160, 41, 172, 190, 115, 195, 252, 200]
def badCrc : List Byte := flitOf [0, 0, 255, 255, 7, 0, 0, 0, 1] [82, 49, 244, 252, 199, 153, 191, 183, 119, 103, 191, 209, 117, 8, 125, 69]
def tally0 : List Byte := flitOf [0, 0, 255, 255, 3]
  [65, 101, 247, 19, 131, 69, 229, 38, 30, 37, 23, 80, 127, 178, 209, 238, 46, 100, 181, 162, 25, 151, 45, 182]
def noise : List Byte := flitOf [1, 2, 3, 4, 5, 6, 7, 8, 9] []
def past0 : Link := { up0 with expected := 25536 }
def gap0 : Link := { up0 with expected := 65535 }
def retraining0 : Link := { up0 with state := .retraining }
def confirmed0 (st : LinkState) : Link := { up0 with state := st, confirmed := true, joined := decide (st = .retraining), lanes := 0 }
def due0 : Link := { retraining0 with phase := .confirm, idDue := true }
def aligning0 : Link := { retraining0 with phase := .align }
def unacked0 : Link := { up0 with replay := [ctrl 0, ctrl 1], nextSeq := 2, nackHold := some (0, 16), timer := some 16 }
def spedDown : Link := { up0 with speedReq := true }
def pause0 (k : Pause) : Link := { up0 with pause := some (k, 16), widthTo := some 1, widthReq := some 1 }
def waking0 : Link := { up0 with state := .lpi, lpiWake := some 16 }
def training0 : Link := { state := .training, en := true }
def unjoined0 : Link := { up0 with joined := false }
def confirm0 : Link := { unjoined0 with state := .training, phase := .confirm }
def equal0 : Link := { unjoined0 with state := .training, phase := .equalise }
def miswired0 : Link := { unjoined0 with miswiredAt := some 16, state := .training }
def widening0 : Link := { up0 with widthReq := some 1 }
def parking0 : Link := { up0 with parkReq := true, parkSent := true }
def quiet0 : Link := { up0 with quietAt := some 16 }
def idle0 : State := { linked quiet0 with pwr := { state := .idle } }
def speeding (l : Link) : State := { linked l with lnk := { (linked l).lnk with crofts := [(0, { rateTo := some 1, pllLock := true })] } }
def spedAll : State := { speeding { up0 with speedAck := true } with lnk := { links := [(0, { up0 with speedAck := true })], crofts := [(0, { rateTo := some 1, pllLock := true })] } }
def resumed0 : Link := { up0 with pause := some (.speed, 16), phase := .confirm, replay := [ctrl 0] , nextSeq := 1 }
def down0 : Link := { up0 with noLock := some 16, lock0 := false, lock1 := false }
def oneLane : Link := { up0 with lock1 := false }
def badLane0 : Link := { up0 with badLane0 := true }
def laneOne : Link := { up0 with lock0 := false }

/-- Pairs with device 9: held, with or without a loss meanwhile, asked; settling; a grant unsent; a bank left long ago. -/
def pair9 (x : SrcTally) : State := { tallied with tal := { src := [(9, x)] } }
def held9 : SrcTally := { seen := 64, hold := true }
def lost9 : SrcTally := { held9 with lossInHold := true }
def asked9s : SrcTally := { held9 with recon := some 16 }
def settling9 : SrcTally := { seen := 64, settle := some 16 }
def unsent9 : State := { tallied with tal := { tgt := [(9, { freed := 200, issued := 200, unsentAt := some 16 })] } }
def left0 : State := { tallied with route := { tallied.route with settled := false }, alm := { up.alm with cmps := [(0, { compare := 16, en := true })] } }
def grantTxn (g : BitVec 32) : Txn := { request kPutData 9 with gv := true, grant := g }
def entry (v : BitVec 32) (k : Nat) (dest : BitVec 9) : Word := tallyEntry v k 9 dest

/-- Time: a follower in each state, seven good exchanges behind it; a grandmaster; comparators. -/
def timed (st : AlmState) : State := { linked up0 with alm := { up.alm with state := st, goodRun := 7, links := [] } }
def freerun : State := { timed .freeRun with lnk := { links := [(0, up0)], crofts := [] } }
def alone (st : AlmState) : State := { timed st with lnk := { links := [(0, up0)], crofts := [] } }
def master : State := { linked up0 with alm := { up.alm with ctl := 3 } }
def nowW : Word := 0x10000000000000
def due : Cmp := { compare := 16, en := true }
def due10 : Cmp := { due with period := 10, wake := true }
def withCmp (n : Nat) (c : Cmp) (s : State) : State := { s with alm := { s.alm with cmps := [(n, c)] } }

/-- Power: an overshoot episode; each lever next to be released; parked, with what wakes it. -/
def powered (p : Pwr) : State := { routed with pwr := p }
def episode0 : Pwr := { episode := some (16, 5, 0), throttle := 40, throttleTo := 60 }
def released (p : Pwr) : State := { powered p with pwr := { p with belowSince := some 16 } }
def parkedLink : Link := { up0 with state := .parked, lanes := 0 }
def parkedBlock (h : List (Who × BitVec 29 × BitVec 4 × Option Word)) (r : Bool) : State :=
  { linked parkedLink with pwr := { state := .parked, before := .idle, gated := true }, cur := { heldAccesses := h }, pins := { up.pins with blockReset := r }, alm := { up.alm with cmps := [(4, due)] } }
def woken : State := { up with pwr := { coreAt := some 16 } }

/-- Crofts: old; waiting for calibration; in it; the calibration window. -/
def wants : Croft := { pllLock := true, calPending := some 16 }
def crofted (c : Croft) : State := { routed with lnk := { routed.lnk with crofts := [(0, c)] } }
def forcedNext : State := { crofted wants with lnk := { (crofted wants).lnk with forcedWait := [0] } }
def windowOpen : State := { crofted { pllLock := true } with lnk := { (crofted { pllLock := true }).lnk with windowEnd := some (later up.alm.now 16000000) } }
def windowAt : Cmp := { compare := 0xFFFFFFFFFFFF0, en := true }
def calibrating0 : Croft := { wants with calActive := true }
def calLink : Link := { up0 with pause := some (.calibration, 16) }
def calibratingIn : State := { linked calLink with lnk := { links := [(0, calLink)], crofts := [(0, calibrating0)] } }

/-- Observation: counters enabled, or not; a trace of channel 5; a command past the limit; the diagnostic hold. -/
def counting (on : Bool) : State := { op0 with obs := { ctl := if on then 0x3E8000000000480 else 0x3E8000000000400, snapBase := 0x40000 } }
def traced5 : State := { par5 with par := [(1, { state := .active, tag := 7, traceOn := true, traceFirst := 5, traceCount := 1, traceBase := 0x80000, traceCtl := 0x26 })] }
def late5 : State := unitIn put3 (put9u true)
def held0 : State := { up with obs := { diagUntil := some 16 } }
def sealed2 : State := keyed0
def fence9 : Fence := { device := true, parishes := 6, reeveDevice := true, reeveParishes := 4 }
def fenced9 : State := { keyed0 with route := { keyed0.route with fences := [(9, fence9)] } }

/-- The Mill: command 3 waits for a gang for matrix 9; stones that load; stones at work or idle. -/
def coded3 : Cmd := { out3 (plain9 1) 1 with phase := .gang, profile := 0x9000009, ranges := [{ va := 0x5000, len := 0x2000, pa := 0x9000 }] }
def task9i : MillTask := { q := 1, va := 0x5000, k := 64, n := 64, fmt := 1, ident := 9, inverse := true }
def gangWait : MillWait := { id := 2, work := .egress 3, gang := 0, waitEnd := 16 }
def milled : State := { matrix9 with eng := { cmds := [coded3], nextId := 4 }, mil := { matrix9.mil with waiting := [gangWait], nextId := 3 } }
def task9 : MillTask := { q := 1, va := 0x5000, k := 64, n := 64, fmt := 1, ident := 9, inverse := false }
def matrixIs9 : Matrix := { parish := 1, pa := 0x9000, va := 0x5000, k := 64, n := 64, format := 1, gang := 0, ident := 9 }
def gangIn (x : Stone) : State := { milled with mil := { milled.mil with stones := [(0, x)], loads := if x.loading then [0] else [] } }
def loading (w : Option MillWork) : Stone := { running := true, loading := true, work := w, matrix := some matrixIs9 }

/-- A stripe at the ingress waits for a gang for matrix 9, whose pages no cached range covers, or an AWAY one; a job that waits. -/
def coded6 (cmd : Option Nat) : Arrival :=
  { id := 6, via := .self, txn := { request kPutData 5 with coded := true, coding := 0x9000009 }, lines := 0, state := .gang, parish := 1, cmd := cmd }
def stripeWait : MillWait := { gangWait with work := .ingress 6 }
def ingress6 (cmd : Option Nat) (c : List CacheEnt) : State := { matrix9 with
  brn := { arrivals := [coded6 cmd], nextId := 7 }, mil := { matrix9.mil with waiting := [stripeWait], nextId := 3 }, ter := { cache := c } }
def away9 : CacheEnt := { parish := 1, va := 0x5000, len := 0x1000, pa := 0, state := .away }
def jobWait : MillWait := { gangWait with work := .job 3 }
def jobWaits : State := { milled with mil := { milled.mil with waiting := [jobWait] } }
def stones (ss : List (Nat × Stone)) (ceil : BitVec 4) : State := { up with mil := { stones := ss }, pwr := { ceiling := ceil } }
def busy (on : Bool) (took : Nat) : Stone := { running := on, work := some (.egress 3), took := took }
def frozen0 (on : Bool) : Stone := { busy on 3 with frozen := true }

/-- A fault message of link 0, by kind (rank 0, 1, 2, 3), with the source at a count, FIRST clear or set. -/
def msg0 (k : BitVec 6) : FaultMsg := { src := 0xC0, kind := k, addr := 0 }
def messaged (k : BitVec 6) (n : Nat) (safe first : Bool) : State := { up with flt := { msgs := [msg0 k], sources := [(0xC0, { count := n, start := nowW })], safe := safe, first := first } }
def pulsing : State := { up with flt := { pulse := some 16 } }
def forcing : State := { up with ree := { fltCtl := 1 } }
def windowKept : State := { open3 with chn := {} }

/-- Curfew in each state. -/
def curfew (c : Cur) : State := { linked up0 with cur := c }
def wide : Word := 0xFA001000000000A
def remote : Word := 0xFA001000000000C
def halting (h : Bool) : State := { linked up0 with
  cur := { state := .releasing, restart := 16, halt := h, stoppedAt := 16 }, eng := { cmds := if h then [parked3] else [], nextId := 4 }, chn := par5.chn, ter := { recs := [rec7 [.cmd 3]] } }

/-- Registers; the open record of a parked command, with GBL_TER_FAULT_CTL enabled or not; a notification held back; start-up by stage. -/
def notified : State := { up with gbl := { up.gbl with notify := { since := some 16 } } }
def terOn (rs : List TerRec) : State := { par5 with gbl := { up.gbl with terCtl := 0x6400000026 }, eng := { cmds := [parked3], nextId := 4 }, ter := { recs := rs } }
def atStage (g : Stage) (r : Bool) : State := { State.reset with pins := { aonReset := false, pwrOk := true, blockReset := r }, gbl := { stage := g } }
def imaged (g : Stage) : State := { atStage g false with
  stw := { fwPages := 0x20000000040000, code := [(0, 0x13)] }, otp := { svn := 1 }
  ree := { fwCopied := true, fwHead := [(0, 0x45), (1, 0x5A), (2, 0x4E), (3, 0x4B), (4, 2), (6, 1), (9, 0x10), (17, 0x10)] } }
def enabled0 : Link := { en := true }

def queued : State := { par5 with pending := [.put 5 (run64 1)] }

/-- Ill-formed transactions: no slot, weights not in eights. -/
def noSlots : Txn := { txn kPutData 5 5 with len := 0 }
def oneWeight : Txn := { txn kRputWsum 5 5 with weights := [1] }

/-- Counters, a parish counter, a link event, a comparator with WAKE. -/
def investigated : State := { up with
  gbl := { up.gbl with linkEvent0 := setBit 0 50 true }
  obs := { cnt := [(507, 3), (0x622, 7)], parCnt := [(64 * 9 + 2, 9)] }, alm := { up.alm with cmps := [(11, { wake := true })] } }

/-- Device 0x1C5 of a system, with 96 planes up to device 0x023; the state after an outcome. -/
def wide96 : State := { linked up0 with
  gbl := { up.gbl with fabricMode := true, fabricId := 0x1C5 }
  route := { ctl := 0xC80001#64, linkUp := ~~~0, bank0 := [(0x23, (1#128 <<< 127) ||| (96#128 <<< 97) ||| (~~~(0 : BitVec 96)).setWidth 128)] } }
def after (o : Host.Outcome State Fault Refusal) : Option State := match o with
  | .next t => some t
  | _ => none

/-- A pair slot with the counters 3,977 to 5,000 received but 4,998, and after 5,003. -/
def window5000 : PairSlot := { rxTop := 5000, rxMap := setBit (~~~0) (4998 % 1024) false }
def window5003 : PairSlot := (rxAccept window5000 5003).getD {}
def pair9u (sent : BitVec 32) : State := pair9 { seen := 2, sent := sent }
def named0 : Link := { unjoined0 with partnerId := some 0x2004000 }
def job2 : KeyJob := { parish := 2, peer := 9, rekey := false, start := 0 }

/-- Channel 5 with a command in flight; with an error mark. -/
def busy5 : State := { par5 with eng := { cmds := [local3], nextId := 4 } }
def marked : Chan := { ready 1 with errMark := true }
def marked5 : State := { up with chn := { chans := [(5, marked)] } }

/-- A command that waits for its array, whose bytes others write. -/
def arrayCmd (q : Option (BitVec 6)) (p : List Word) : Cmd := { mgmt3 (BitVec.ofNat 8 (pkOp p)) with ch := 5, parish := q, pkt := p }
def arrayReq (n : Nat) : ReadReq := { id := 8, use := .mgmt 3, parts := [(0x3000, n)], cls := 3, at_ := nowW }
def arrayIn (q : Option (BitVec 6)) (p : List Word) (n : Nat) : State :=
  { par5 with eng := { cmds := [arrayCmd q p], nextId := 4 }, memp := { reads := [arrayReq n], nextId := 9 } }
def mapNamed : State := { arrayIn none (pk 0x86 [7]) 128 with route := { bank0 := [(9, (3#128 <<< 126) ||| (7#128 <<< 114))] } }
def bytesFrom (a : Nat) (bs : List Nat) : List (Nat × Byte) := bs.zipIdx.map fun x => (a + x.2, BitVec.ofNat 8 x.1)

/-- The image's read; links and crofts in changes. -/
def imageReq : ReadReq := { id := 8, use := .image, parts := [(0x40000, 4096)], cls := 3, at_ := 16 }
def imageIn : State := { imaged .fwLoad with memp := { reads := [imageReq], nextId := 9 } }
def olderImage : State := { imaged .fwLoad with otp := { svn := 3 } }
def longImage : State := { imaged .fwLoad with stw := { fwPages := 0x30000000040000 } }
def stopped0 : Link := { retraining0 with phase := .stopped }
def calState : State := { linked { up0 with state := .calibrating } with gbl := { up.gbl with calibrated := 1 } }
def unfabric : State := { linked up0 with gbl := { up.gbl with fabricValid := false } }
def align0 (st : LinkState) : Link := { confirmed0 st with phase := .align, lanes := 3 }
def unconfirmed0 : Link := { align0 .training with confirmed := false }
def paused0 (ok : Bool) : Link := { calLink with phase := .align, confirmed := ok }
def agreed0 : Link := { up0 with parkAgree := true }
def spedIn : State := { spedAll with lnk := { spedAll.lnk with links := [(0, { up0 with speedAck := true, pause := some (.speed, 16) })] } }
def finishing : State := { calibratingIn with lnk := { calibratingIn.lnk with links := [(0, up0)] } }
def changing0 : State := speeding up0
def oneLink (l : Link) : State := { linked l with lnk := { (linked l).lnk with links := [(0, l)] } }

/-- Parish 1 with a notification ring of its own size. -/
def notified1 : State := { up with par := [(1, { state := .active, tag := 7, notify := { ctl := 10 } })] }

/-- Power: braked, and let go long ago. -/
def letGo : State := powered { braked := true, brakeEnd := some 16 }

/-- A fault elsewhere waits; a comparator of the controller's own armed or due. -/
def heldRead : State := parkedBlock [(.operator, 0x100, 8, none)] false
def patrolled (n : Time) (s : State) : State := withCmp 7 { compare := n, en := true } s
def armedIn : State := withCmp 1 due (curfew { state := .armed, stopTime := 16 })

/-- A packet of each row of packetRows, in order, with a reserved bit set. -/
def rejected : List (List Word) :=
  (([0x83F, 0x801, 0x802, 0x803, 0x804, 0x805, 0x806, 0x807, 0x808, 0x809, 0x810, 0x80D, 0x80E, 0x840, 0x841, 0x844, 0x845, 0x846, 0x10846, 0x847, 0x848, 0x10848,
    0x849] ++ [0x880, 0x881, 0x882, 0x883, 0x884, 0x885, 0x886, 0x887, 0x10887, 0x888, 0x889, 0x88A, 0x1088A, 0x88B, 0x1088B, 0x88C, 0x1088C, 0x2088C, 0x3088C,
    0x88D, 0x88E, 0x890, 0x891, 0x10891, 0x892, 0x894, 0x896, 0x20896, 0x897] : List Word)).map fun w => pk w []

/-- Values that the rows of WritesAreJudgedWhole take, and that they ignore, for a register whose enable is clear and for one whose enable is set. -/
def takes (s : State) (a : Nat) (v : Word) : Bool := (regAt s false a).any fun r => r.rw && r.ok (merge r.old v r.mask) v

/-! ## Well-formedness: each check refuses a command that breaks it -/

theorem test_packet_length : WellFormed.instr (.put 5 (run64 1)) = true ∧ WellFormed.instr (.put 5 (0x8001 :: List.replicate 7 0)) = false ∧
    WellFormed.instr (.put 5 []) = false := by decide

theorem test_packet_source : WellFormed.instr (.blockScrub (.ring 0 (pk 0x83 []))) = true ∧ WellFormed.instr (.fence (.ring 0 [0x85])) = false := by decide

theorem test_fault_origin : WellFormed.instr (.faultMessage (.word (.replayCopy 96) .single)) = false ∧
    WellFormed.instr (.faultMessage (.read .operator 0x30 0)) = false ∧ WellFormed.instr (.faultMessage (.read .operator 0x30 8)) = true := by decide

theorem test_waking_read : WellFormed.instr (.blockWake (.registerRead .operator 0x100 9)) = false ∧ WellFormed.instr (.blockWake .doorbell) = true := by decide

theorem test_link_number : WellFormed.instr (.flitSend 95) = true ∧ WellFormed.instr (.flitSend 96) = false ∧
    WellFormed.instr (.patrolScrub (.replayCopy 96) .clean) = false := by decide

theorem test_flit_length : WellFormed.instr (.flitReceive 0 (List.replicate 256 0)) = true ∧ WellFormed.instr (.flitReceive 0 (List.replicate 255 0)) = false := by
  decide +kernel

theorem test_seen_addresses : WellFormed.instr (.mempReadResponse 0 [(2 ^ 52 - 1, 1)]) = true ∧ WellFormed.instr (.mempReadResponse 0 [(2 ^ 52, 1)]) = false := by
  decide +kernel

theorem test_port_sizes : WellFormed.instr (.dapLoad 0 64) = true ∧ WellFormed.instr (.dapLoad 0 3) = false ∧ WellFormed.instr (.dapStore 0 []) = false ∧
    WellFormed.instr (.registerWrite .operator 0x30 8 5) = true ∧ WellFormed.instr (.registerWrite .operator 0x30 9 5) = false := by decide

theorem test_transaction_slots : WellFormed.instr (.putData .self (txn kPutData 5 5)) = true ∧ WellFormed.instr (.ack (.link 96) (reply kAck 9 5)) = false ∧
    WellFormed.instr (.putData .self noSlots) = false ∧ WellFormed.instr (.rputWsum .self oneWeight) = false := by decide

/-! ## The spec's worked examples -/

/-- R480's example: the addresses of one investigation. -/
theorem test_addresses_of_an_investigation :
    regValue investigated 0x10FD8 = some 3 ∧ regValue investigated 0x491010 = some 9 ∧ regValue investigated 0x13110 = some 7 ∧
    regValue investigated 0x100298 = some 0x3E808 ∧ regValue investigated 0x4138 = some 2 ∧ regValue investigated 0x3010 = some 0x4000000000000 := by decide +kernel

/-- The example below R177: the window of device 0x1C5 towards 0x023 with all planes, and after a notice removes plane 40. -/
theorem test_window_before_the_notice : rotation wide96 [0x23] (activeMask wide96 0x23) = (List.range 15).map (75 + ·) := by decide +kernel

theorem test_window_after_the_notice :
    (after (exec (.planeNotice 0 40 1 (2 ^ 35)) wide96)).any (fun t => decide (rotation t [0x23] (activeMask t 0x23) = (List.range 15).map (51 + ·))) = true := by
  decide +kernel

/-- The example below R238: credit near the wrap, a stale grant, and one 512 ahead. -/
theorem test_credit_near_the_wrap : credit (pair9u 0xFFFFFE00) 9 = 514 ∧ credit (pair9u 0xFFFFFFC7) 9 = 59 := by decide

theorem test_grants_near_the_wrap :
    (after (exec (.grant 0 (entry 2 1 5)) (pair9u 0xFFFFFFC7))).map (fun t => credit t 9) = some 59 ∧
    (after (exec (.grant 0 (entry 0x202 1 5)) (pair9u 0xFFFFFFC7))).map (fun t => credit t 9) = some 571 := by decide +kernel

/-- The example below R360: a replay window at work. -/
theorem test_replay_window_at_work :
    (rxAccept window5000 5003).map (fun p => p.rxTop) = some 5003 ∧ (rxAccept window5003 4998).map (fun p => p.rxTop) = some 5003 ∧
    rxAccept window5003 5003 = none ∧ rxAccept window5003 3970 = none := by decide +kernel

/-! ## The statements' hypotheses are met -/

theorem test_meets_EngineCommandsStart :
    (pickEngine par5 = some 0 ∧
     pkOp (run64 1) = opPut ∧
     pkOp (run64 2) = opGet ∧
     pkOp (pk 3 [4096, 8192, 0, 0x100000040]) = opCopy ∧
     pkOp (run64 0x1000004) = opRput ∧
     pkOp (pkx 5 [4096, 0x30000, 0, 0x100000040, 0, 0, 0, 0x100000001, 0, 0, 0, 0, 32]) = opMput ∧
     pkOp (pkx 6 [4096, 0x30000, 0, 0x100000040, 0, 0, 0, 8192]) = opIput ∧
     pkOp (pkx 7 [4096, 0x30000, 0, 0x100000040, 0, 0, 0, 8192]) = opIget ∧
     pkOp (pk 8 [0, 0x30005, 0, 1]) = opAmo ∧
     pkOp (pk 9 [4096, 0x30005, 0, 1]) = opAmof ∧
     pkOp (pkx 0x1000010 [4096, 8192, 12288, 0x100100010]) = opXform) ∧
    starts par5 5 (ready 1) (run64 1) ∧
    starts par5 5 (ready 1) (run64 2) ∧
    starts par5 5 (ready 1) (pk 3 [4096, 8192, 0, 0x100000040]) ∧
    starts par5 5 (ready 1) (run64 0x1000004) ∧
    starts par5 5 (ready 1) (pkx 5 [4096, 0x30000, 0, 0x100000040, 0, 0, 0, 0x100000001, 0, 0, 0, 0, 32]) ∧
    starts par5 5 (ready 1) (pkx 6 [4096, 0x30000, 0, 0x100000040, 0, 0, 0, 8192]) ∧
    starts par5 5 (ready 1) (pkx 7 [4096, 0x30000, 0, 0x100000040, 0, 0, 0, 8192]) ∧
    starts par5 5 (ready 1) (pk 8 [0, 0x30005, 0, 1]) ∧
    starts par5 5 (ready 1) (pk 9 [4096, 0x30005, 0, 1]) ∧
    starts par5 5 (ready 1) (pkx 0x1000010 [4096, 8192, 12288, 0x100100010]) := by
  repeat' apply And.intro
  all_goals first
    | decide +kernel
    | (unfold fresh; decide +kernel)
    | (simp; done)

theorem test_meets_RejectedCommandsEnd :
    (chan? par5 5 = some (ready 1) ∧
     mayStart par5 5 (pk 2049 []) = true ∧
     early par5 ((5 : BitVec 21) == (0 : BitVec 21)) (ready 1).parish (pk 2049 []) = some 2 ∧
     pkOp (pk 2049 []) = opPut ∧
     mayStart par5 5 (pk 16 []) = true ∧
     early par5 ((5 : BitVec 21) == (0 : BitVec 21)) (ready 1).parish (pk 16 []) = some 2 ∧
     pkOp (pk 16 []) = opXform ∧
     mayStart par5 5 (pk 63 []) = true ∧
     early par5 ((5 : BitVec 21) == (0 : BitVec 21)) (ready 1).parish (pk 63 []) = some 2 ∧
     unassigned (pkOp (pk 63 [])) = true ∧
     mayStart par5 5 (pk 320 []) = true ∧
     early par5 ((5 : BitVec 21) == (0 : BitVec 21)) (ready 1).parish (pk 320 []) = some 2) ∧
    pkOp (pk 320 []) = 64 ∧
    fresh par5 := by
  repeat' apply And.intro
  all_goals first
    | decide +kernel
    | (unfold fresh; decide +kernel)
    | (simp; done)

theorem test_meets_RejectedCommandsEnd_2 :
    chan? op0 0 = some (ready 0) ∧
    mayStart op0 0 (pk 2060 []) = true ∧
    early op0 ((0 : BitVec 21) == (0 : BitVec 21)) (ready (0 : BitVec 6)).parish (pk (2060 : Word) []) = some (2 : BitVec 8) ∧
    fresh op0 ∧
    pkOp (pk 2060 []) = 12 ∧
    waiter? op0 0 = none ∧
    mayStart op0 0 (pk 67734 []) = true ∧
    early op0 ((0 : BitVec 21) == (0 : BitVec 21)) (ready (0 : BitVec 6)).parish (pk (67734 : Word) []) = some (2 : BitVec 8) ∧
    pkOp (pk 67734 []) = 150 ∧
    testAct (pk 67734 []) = 1 ∧
    op0.stw.test = none ∧
    mayStart op0 0 (pk 2197 []) = true ∧
    early op0 ((0 : BitVec 21) == (0 : BitVec 21)) (ready (0 : BitVec 6)).parish (pk (2197 : Word) []) = some (2 : BitVec 8) ∧
    pkOp (pk 2197 []) = 149 ∧
    op0.cur.state = CurState.idle ∧
    bitAt (pw (pk 2197 []) 0) 16 = false ∧
    mayStart op0 0 (pk 67733 []) = true ∧
    early op0 ((0 : BitVec 21) == (0 : BitVec 21)) (ready (0 : BitVec 6)).parish (pk (67733 : Word) []) = some (2 : BitVec 8) ∧
    pkOp (pk 67733 []) = 149 ∧
    bitAt (pw (pk 67733 []) 0) 16 = true := by
  repeat' apply And.intro
  all_goals first
    | decide +kernel
    | (unfold fresh; decide +kernel)
    | (simp; done)

theorem test_meets_RejectedCommandsEnd_rows :
    packetRows.length = rejected.length ∧ (packetRows.zip rejected).foldr (fun x rest => x.1.2 x.2 ∧ rest) True ∧
    (∀ p ∈ rejected, mayStart op0 0 p = true ∧ early op0 true 0 p = some 2) := by
  refine ⟨rfl, ?_, by decide +kernel⟩
  unfold packetRows rejected
  dsimp only [List.map, List.cons_append, List.nil_append, List.zip, List.zipWith, List.foldr]
  repeat' apply And.intro
  all_goals decide +kernel

theorem test_meets_QueueCommandsEnd :
    pkOp (pk 0 []) = 0 ∧
    pkOp (pk 14 [119]) = 14 ∧
    pkOp (pk 13 []) = 13 ∧
    incomplete par5 5 = false ∧
    (pkFlag0 (pk 13 []) && (ready 1).errMark) = false ∧
    pkOp (pk 12 [4096, 255, 3]) = 12 ∧
    waiter? op0 0 = none ∧
    joined op0 (Requester.wait 0) = [] ∧
    waitsRecord op0 (Requester.wait 0) = false ∧
    (0x1000 : BitVec 52) = (pw (pk 12 [0x1000, 255, 3]) 1).extractLsb' 0 52 ∧
    pkOp (pk 12 [20488, 255, 3]) = 12 ∧
    waiter? cached5 5 = none ∧
    joined cached5 (Requester.wait 5) = [] ∧
    waitsRecord cached5 (Requester.wait 5) = false ∧
    lookup cached5 1 0x5008 = Found.resident 0x9008 0x6000 ∧
    (0x9008 : BitVec 52) = BitVec.ofNat 52 0x9008 ∧
    starts par5 5 (ready 1) (pk 0 []) ∧
    starts op0 0 (ready 0) (pk 14 [119]) ∧
    starts par5 5 (ready 1) (pk 13 []) ∧
    atHead busy5 5 (ready 1) (pk 13 []) ∧
    incomplete busy5 5 = true ∧
    atHead marked5 5 marked (pk 269 []) ∧
    pkOp (pk 269 []) = 13 ∧
    incomplete marked5 5 = false ∧
    pkFlag0 (pk 269 []) = true ∧
    marked.errMark = true ∧
    atHead op0 0 (ready 0) (pk 12 [4096, 255, 3]) ∧
    (0x1000 : BitVec 52) = BitVec.extractLsb' 0 52 (pw (pk 12 [4096, 255, 3]) 1) ∧
    atHead par5 5 (ready 1) (pk 12 [20488, 255, 3]) ∧
    waiter? par5 5 = none ∧
    joined par5 (Requester.wait 5) = [] ∧
    waitsRecord par5 (Requester.wait 5) = false ∧
    (5 : BitVec 21) ≠ (0 : BitVec 21) ∧
    lookup par5 (ready 1).parish (BitVec.toNat (pw (pk 12 [20488, 255, 3]) 1)) = Found.miss := by
  repeat' apply And.intro
  all_goals first
    | decide +kernel
    | (unfold fresh; decide +kernel)
    | (simp; done)

theorem test_meets_WindowsOpenAndClose :
    (pkOp (pk 64 [20480, 4096, 15]) = 64 ∧
     (parish par5 (ownParish 5 (ready 1)).toNat).state = ParState.active ∧
     winOpenOk (pk 64 [20480, 4096, 15]) = true ∧
     winEn par5 = true ∧
     winHeld par5 (ownParish 5 (ready 1)) < (parish par5 (ownParish 5 (ready 1)).toNat).windowQuota.toNat ∧
     (firstBelow (winCount par5) fun h => (win par5 h).state == WinState.free) = some 0 ∧
     pkOp (pk 65 [3]) = 65 ∧
     winEn open3 = true ∧
     bits (pw (pk 65 [3]) 1) 0 20 < winCount open3 ∧
     (win open3 (bits (pw (pk 65 [3]) 1) 0 20)).state = WinState.opened ∧
     (win open3 (bits (pw (pk 65 [3]) 1) 0 20)).parish = ownParish 5 (ready 1) ∧
     running closing3 = true) ∧
    (List.find? (fun y => y.fst == 3) closing3.wins.closing = some (3, none) ∧
     winDrained closing3 3 = true ∧
     (win closing3 3).state = WinState.closing ∧
     running quarantine3 = true ∧
     (win quarantine3 3).state = WinState.quarantine ∧
     reached quarantine3 (win quarantine3 3).qEnd = true) ∧
    starts par5 5 (ready 1) (pk 64 [20480, 4096, 15]) ∧
    starts open3 5 (ready 1) (pk 65 [3]) := by
  repeat' apply And.intro
  all_goals first
    | decide +kernel
    | (unfold fresh; decide +kernel)
    | (simp; done)

theorem test_meets_CodingIsRegistered :
    ((parish par5 (ownParish 5 (ready 1)).toNat).state = ParState.active ∧
     pkOp (pk 68 [2, 2048]) = 68 ∧
     bits (pw (pk 68 [2, 2048]) 1) 0 4 ≠ 0 ∧
     profileOk (pw (pk 68 [2, 2048]) 2) = true ∧
     (profNeedsC (pw (pk 68 [2, 2048]) 2) && !par5.part.c) = false ∧
     (profNeedsM (pw (pk 68 [2, 2048]) 2) && !par5.part.m) = false ∧
     pkOp (pk 69 [2, 0x4444444444444444]) = 69 ∧
     lTableOk (pw (pk 69 [2, 0x4444444444444444]) 2) = true ∧
     pkOp (pk 0x1000046 [9, 20480, 0x400040]) = 70 ∧
     bitAt (pw (pk 0x1000046 [9, 20480, 0x400040]) 0) 16 = false ∧
     matrixOk (pk 0x1000046 [9, 20480, 0x400040]) = true ∧
     regOf par5 (ownParish 5 (ready 1)) (bits (pw (pk 0x1000046 [9, 20480, 0x400040]) 1) 0 8) = none) ∧
    (par5.mil.regs.length < 1024 ∧
     pkOp (pk 0x1010046 [9]) = 70 ∧
     bitAt (pw (pk 0x1010046 [9]) 0) 16 = true ∧
     pw (pk 0x1010046 [9]) 2 = 0 ∧
     pw (pk 0x1010046 [9]) 3 = 0 ∧
     bits (pw (pk 0x1010046 [9]) 1) 0 8 ≠ 0 ∧
     (regOf matrix9 (ownParish 5 (ready 1)) (bits (pw (pk 0x1010046 [9]) 1) 0 8)).isSome = true ∧
     matrix9.mil.clears = [] ∧
     matrixUsed matrix9 (ownParish 5 (ready 1)) (BitVec.ofNat 8 (bits (pw (pk 0x1010046 [9]) 1) 0 8)) = false ∧
     pkOp (pk 71 [20480, 4096]) = 71 ∧
     bits (pw (pk 71 [20480, 4096]) 1) 0 57 % 4096 = 0 ∧
     bits (pw (pk 71 [20480, 4096]) 2) 0 57 % 4096 = 0) ∧
    starts par5 5 (ready 1) (pk 68 [2, 2048]) ∧
    starts par5 5 (ready 1) (pk 69 [2, 0x4444444444444444]) ∧
    starts par5 5 (ready 1) (pk 0x1000046 [9, 20480, 0x400040]) ∧
    starts matrix9 5 (ready 1) (pk 0x1010046 [9]) ∧
    starts par5 5 (ready 1) (pk 71 [20480, 4096]) := by
  repeat' apply And.intro
  all_goals first
    | decide +kernel
    | (unfold fresh; decide +kernel)
    | (simp; done)

theorem test_meets_WatchesAreSet :
    (pkOp (pk 72 [3, 20480, 64, 257]) = 72 ∧
     watchTaken watch3 (ownParish 5 (ready 1)) (pk 72 [3, 20480, 64, 257]) (bits (pw (pk 72 [3, 20480, 64, 257]) 1) 0 6) = false ∧
     bitAt (pw (pk 72 [3, 20480, 64, 257]) 0) 16 = false ∧
     watchOk watch3 (ownParish 5 (ready 1)) false (pk 72 [3, 20480, 64, 257]) = true ∧
     (bitAt (pw (pk 72 [3, 20480, 64, 257]) 4) 1 && !watch3.part.t) = false ∧
     pkOp (pk 0x10048 [3]) = 72 ∧
     watchTaken watch3 (ownParish 5 (ready 1)) (pk 0x10048 [3]) (bits (pw (pk 0x10048 [3]) 1) 0 6) = false ∧
     bitAt (pw (pk 0x10048 [3]) 0) 16 = true ∧
     watchOk watch3 (ownParish 5 (ready 1)) true (pk 0x10048 [3]) = true ∧
     (bitAt (pw (pk 0x10048 [3]) 4) 1 && !watch3.part.t) = false) ∧
    starts watch3 5 (ready 1) (pk 72 [3, 20480, 64, 257]) ∧
    starts watch3 5 (ready 1) (pk 0x10048 [3]) := by
  repeat' apply And.intro
  all_goals first
    | decide +kernel
    | (unfold fresh; decide +kernel)
    | (simp; done)

theorem test_meets_ArrayCommandsReadAndAct :
    (pkOp (pk 73 [10, 5, 1]) = 73 ∧
     10 ≤ bits (pw (pk 73 [10, 5, 1]) 1) 0 5 ∧
     bits (pw (pk 73 [10, 5, 1]) 1) 0 5 ≤ 24 ∧
     1 ≤ bits (pw (pk 73 [10, 5, 1]) 3) 0 7 ∧
     bits (pw (pk 73 [10, 5, 1]) 3) 0 7 ≤ 64 ∧
     bits (pw (pk 73 [10, 5, 1]) 2) 0 21 + bits (pw (pk 73 [10, 5, 1]) 3) 0 7 ≤ chnCount par5 ∧
     chnEn par5 = true ∧
     pkOp (pk 0x10049 [24, 960, 64]) = 73 ∧
     10 ≤ bits (pw (pk 0x10049 [24, 960, 64]) 1) 0 5 ∧
     bits (pw (pk 0x10049 [24, 960, 64]) 1) 0 5 ≤ 24 ∧
     1 ≤ bits (pw (pk 0x10049 [24, 960, 64]) 3) 0 7 ∧
     bits (pw (pk 0x10049 [24, 960, 64]) 3) 0 7 ≤ 64) ∧
    (bits (pw (pk 0x10049 [24, 960, 64]) 2) 0 21 + bits (pw (pk 0x10049 [24, 960, 64]) 3) 0 7 ≤ chnCount par5 ∧
     pkOp (pk 132 [0x10000, 12288]) = 132 ∧
     1 ≤ bits (pw (pk 132 [0x10000, 12288]) 1) 16 10 ∧
     bits (pw (pk 132 [0x10000, 12288]) 1) 16 10 ≤ 512 ∧
     bits (pw (pk 132 [0x10000, 12288]) 1) 0 9 + bits (pw (pk 132 [0x10000, 12288]) 1) 16 10 ≤ 512 ∧
     bits (pw (pk 132 [0x10000, 12288]) 2) 0 52 % 16 = 0 ∧
     (systemLevel op0 = false ∧ bitAt (pw (pk 132 [0x10000, 12288]) 1) 32 = false ∨ systemLevel op0 = true ∧ bitAt (pw (pk 132 [0x10000, 12288]) 1) 32 = !op0.route.epoch ∧ op0.route.settled = true) ∧
     pkOp (pk 132 [0x102000000, 12288]) = 132 ∧
     1 ≤ bits (pw (pk 132 [0x102000000, 12288]) 1) 16 10 ∧
     bits (pw (pk 132 [0x102000000, 12288]) 1) 16 10 ≤ 512 ∧
     bits (pw (pk 132 [0x102000000, 12288]) 1) 0 9 + bits (pw (pk 132 [0x102000000, 12288]) 1) 16 10 ≤ 512 ∧
     bits (pw (pk 132 [0x102000000, 12288]) 2) 0 52 % 16 = 0) ∧
    ((systemLevel system0 = false ∧ bitAt (pw (pk 132 [0x102000000, 12288]) 1) 32 = false ∨ systemLevel system0 = true ∧ bitAt (pw (pk 132 [0x102000000, 12288]) 1) 32 = !system0.route.epoch ∧ system0.route.settled = true) ∧
     pkOp (pk 134 [4095, 12288]) = 134 ∧
     bits (pw (pk 134 [4095, 12288]) 2) 0 52 % 64 = 0 ∧
     pkOp (pk 138 [12288]) = 138 ∧
     bitAt (pw (pk 138 [12288]) 0) 16 = false ∧
     bits (pw (pk 138 [12288]) 1) 0 52 % 64 = 0 ∧
     pkOp (pk 140 [12288, 16384]) = 140 ∧
     pkSubop (pk 140 [12288, 16384]) = 0 ∧
     msgLen (pk 140 [12288, 16384]) ≤ 16384 ∧
     pkOp (pk 0x2008C [12288, 0]) = 140 ∧
     pkSubop (pk 0x2008C [12288, 0]) = 2 ∧
     msgLen (pk 0x2008C [12288, 0]) ≤ 16384) ∧
    starts par5 5 (ready 1) (pk 73 [10, 5, 1]) ∧
    starts par5 5 (ready 1) (pk 0x10049 [24, 960, 64]) ∧
    starts op0 0 (ready 0) (pk 132 [0x10000, 12288]) ∧
    starts system0 0 (ready 0) (pk 132 [0x102000000, 12288]) ∧
    starts op0 0 (ready 0) (pk 134 [4095, 12288]) ∧
    starts op0 0 (ready 0) (pk 138 [12288]) ∧
    starts op0 0 (ready 0) (pk 140 [12288, 16384]) ∧
    starts op0 0 (ready 0) (pk 0x2008C [12288, 0]) := by
  repeat' apply And.intro
  all_goals first
    | decide +kernel
    | (unfold fresh; decide +kernel)
    | (simp; done)

theorem test_meets_ArrayCommandsReadAndAct_2 :
    portsLive (arrayIn none (pk 132 [65536, 12288]) 16) = true ∧
    (arrayIn none (pk 132 [65536, 12288]) 16).flt.safe = false ∧
    read? (arrayIn none (pk 132 [65536, 12288]) 16) 8 = some (arrayReq 16) ∧
    (arrayReq 16).use = ReadFor.mgmt 3 ∧
    elapsed (arrayIn none (pk 132 [65536, 12288]) 16) (arrayReq 16).at_ ≤ usUnits ∧
    cmd? (arrayIn none (pk 132 [65536, 12288]) 16) 3 = some (arrayCmd none (pk 132 [65536, 12288])) ∧
    (arrayCmd none (pk 132 [65536, 12288])).phase = Phase.mgmt ∧
    pkOp (arrayCmd none (pk 132 [65536, 12288])).pkt = 132 ∧
    [1#128 <<< 96] = List.map (fun b => BitVec.ofNat 128 (ofLE b)) (chunks 16 (bits (pw (arrayCmd none (pk 132 [65536, 12288])).pkt 1) 16 10) (readBytes (otherWrites (arrayReq 16) (bytesFrom 12300 [1]) (arrayIn none (pk 132 [65536, 12288]) 16)) (arrayReq 16))) ∧
    (∃ i, i < [1#128 <<< 96].length ∧ routeOk (dropRead (arrayReq 16) (otherWrites (arrayReq 16) (bytesFrom 12300 [1]) (arrayIn none (pk 132 [65536, 12288]) 16))) (bits (pw (arrayCmd none (pk 132 [65536, 12288])).pkt 1) 0 9 + i) ([1#128 <<< 96].getD i 0) = false) ∧
    portsLive (arrayIn none (pk 132 [65545, 12288]) 16) = true ∧
    (arrayIn none (pk 132 [65545, 12288]) 16).flt.safe = false ∧
    read? (arrayIn none (pk 132 [65545, 12288]) 16) 8 = some (arrayReq 16) ∧
    elapsed (arrayIn none (pk 132 [65545, 12288]) 16) (arrayReq 16).at_ ≤ usUnits ∧
    cmd? (arrayIn none (pk 132 [65545, 12288]) 16) 3 = some (arrayCmd none (pk 132 [65545, 12288])) ∧
    (arrayCmd none (pk 132 [65545, 12288])).phase = Phase.mgmt ∧
    pkOp (arrayCmd none (pk 132 [65545, 12288])).pkt = 132 ∧
    [170141556149745698831131343746626486279#128] = List.map (fun b => BitVec.ofNat 128 (ofLE b)) (chunks 16 (bits (pw (arrayCmd none (pk 132 [65545, 12288])).pkt 1) 16 10) (readBytes (otherWrites (arrayReq 16) (bytesFrom 12288 [7, 0, 0, 0, 0, 0, 0, 0, 0, 0, 0, 0, 96, 18, 0, 128]) (arrayIn none (pk 132 [65545, 12288]) 16)) (arrayReq 16))) ∧
    (∀ (i : Nat), i < [170141556149745698831131343746626486279#128].length → routeOk (dropRead (arrayReq 16) (otherWrites (arrayReq 16) (bytesFrom 12288 [7, 0, 0, 0, 0, 0, 0, 0, 0, 0, 0, 0, 96, 18, 0, 128]) (arrayIn none (pk 132 [65545, 12288]) 16))) (bits (pw (arrayCmd none (pk 132 [65545, 12288])).pkt 1) 0 9 + i) ([170141556149745698831131343746626486279#128].getD i 0) = true) ∧
    portsLive (arrayIn none (pk 134 [7]) 128) = true ∧
    (arrayIn none (pk 134 [7]) 128).flt.safe = false ∧
    read? (arrayIn none (pk 134 [7]) 128) 8 = some (arrayReq 128) ∧
    (arrayReq 128).use = ReadFor.mgmt 3 ∧
    elapsed (arrayIn none (pk 134 [7]) 128) (arrayReq 128).at_ ≤ usUnits ∧
    cmd? (arrayIn none (pk 134 [7]) 128) 3 = some (arrayCmd none (pk 134 [7])) ∧
    (arrayCmd none (pk 134 [7])).phase = Phase.mgmt ∧
    pkOp (arrayCmd none (pk 134 [7])).pkt = 134 ∧
    false = ((arrayIn none (pk 134 [7]) 128).route.bank0 ++ (arrayIn none (pk 134 [7]) 128).route.bank1).any fun e => reValid e.snd && reMapEn e.snd && e.fst != (ownId (arrayIn none (pk 134 [7]) 128)).toNat && reMapIndex e.snd == bits (pw (arrayCmd none (pk 134 [7])).pkt 1) 0 12 ∧
    mapOk (readBytes (otherWrites (arrayReq 128) [] (arrayIn none (pk 134 [7]) 128)) (arrayReq 128)) = false ∧
    portsLive mapNamed = true ∧
    mapNamed.flt.safe = false ∧
    read? mapNamed 8 = some (arrayReq 128) ∧
    elapsed mapNamed (arrayReq 128).at_ ≤ usUnits ∧
    cmd? mapNamed 3 = some (arrayCmd none (pk 134 [7])) ∧
    true = (mapNamed.route.bank0 ++ mapNamed.route.bank1).any fun e => reValid e.snd && reMapEn e.snd && e.fst != (ownId mapNamed).toNat && reMapIndex e.snd == bits (pw (arrayCmd none (pk 134 [7])).pkt 1) 0 12 ∧
    mapOk (readBytes (otherWrites (arrayReq 128) (bytesFrom 12288 [2, 3]) mapNamed) (arrayReq 128)) = true ∧
    mapOk (readBytes (otherWrites (arrayReq 128) (bytesFrom 12288 [2, 3]) (arrayIn none (pk 134 [7]) 128)) (arrayReq 128)) = true ∧
    portsLive (arrayIn none (pk 138 []) 4096) = true ∧
    (arrayIn none (pk 138 []) 4096).flt.safe = false ∧
    read? (arrayIn none (pk 138 []) 4096) 8 = some (arrayReq 4096) ∧
    (arrayReq 4096).use = ReadFor.mgmt 3 ∧
    elapsed (arrayIn none (pk 138 []) 4096) (arrayReq 4096).at_ ≤ usUnits ∧
    cmd? (arrayIn none (pk 138 []) 4096) 3 = some (arrayCmd none (pk 138 [])) ∧
    (arrayCmd none (pk 138 [])).phase = Phase.mgmt ∧
    pkOp (arrayCmd none (pk 138 [])).pkt = 138 ∧
    false = (((List.map (fun i => (i, (bytesWords 512 (readBytes (otherWrites (arrayReq 4096) (bytesFrom 12291 [1]) (arrayIn none (pk 138 []) 4096)) (arrayReq 4096))).getD i 0)) (List.range 512)).all fun x => planOk (dropRead (arrayReq 4096) (otherWrites (arrayReq 4096) (bytesFrom 12291 [1]) (arrayIn none (pk 138 []) 4096))) x.fst x.snd) && decide (List.foldl (fun x1 x2 => x1 + x2) 0 (List.map (fun x => if planPlanned x.snd = true then planGrant x.snd else 0) (List.map (fun i => (i, (bytesWords 512 (readBytes (otherWrites (arrayReq 4096) (bytesFrom 12291 [1]) (arrayIn none (pk 138 []) 4096)) (arrayReq 4096))).getD i 0)) (List.range 512))) ≤ barnLines)) ∧
    true = (((List.map (fun i => (i, (bytesWords 512 (readBytes (otherWrites (arrayReq 4096) (bytesFrom 12360 [64, 0, 0, 0, 0, 0, 0, 128]) (arrayIn none (pk 138 []) 4096)) (arrayReq 4096))).getD i 0)) (List.range 512)).all fun x => planOk (dropRead (arrayReq 4096) (otherWrites (arrayReq 4096) (bytesFrom 12360 [64, 0, 0, 0, 0, 0, 0, 128]) (arrayIn none (pk 138 []) 4096))) x.fst x.snd) && decide (List.foldl (fun x1 x2 => x1 + x2) 0 (List.map (fun x => if planPlanned x.snd = true then planGrant x.snd else 0) (List.map (fun i => (i, (bytesWords 512 (readBytes (otherWrites (arrayReq 4096) (bytesFrom 12360 [64, 0, 0, 0, 0, 0, 0, 128]) (arrayIn none (pk 138 []) 4096)) (arrayReq 4096))).getD i 0)) (List.range 512))) ≤ barnLines)) ∧
    portsLive (arrayIn (some 1) (pk 73 [10, 6, 1]) 8) = true ∧
    (arrayIn (some 1) (pk 73 [10, 6, 1]) 8).flt.safe = false ∧
    read? (arrayIn (some 1) (pk 73 [10, 6, 1]) 8) 8 = some (arrayReq 8) ∧
    (arrayReq 8).use = ReadFor.mgmt 3 ∧
    elapsed (arrayIn (some 1) (pk 73 [10, 6, 1]) 8) (arrayReq 8).at_ ≤ usUnits ∧
    cmd? (arrayIn (some 1) (pk 73 [10, 6, 1]) 8) 3 = some (arrayCmd (some 1) (pk 73 [10, 6, 1])) ∧
    (arrayCmd (some 1) (pk 73 [10, 6, 1])).phase = Phase.mgmt ∧
    pkOp (arrayCmd (some 1) (pk 73 [10, 6, 1])).pkt = 73 ∧
    false = ((traceChans (arrayCmd (some 1) (pk 73 [10, 6, 1])).pkt).zip (bytesWords (traceChans (arrayCmd (some 1) (pk 73 [10, 6, 1])).pkt).length (readBytes (otherWrites (arrayReq 8) (bytesFrom 12288 [33]) (arrayIn (some 1) (pk 73 [10, 6, 1]) 8)) (arrayReq 8)))).all fun x => channelOf (dropRead (arrayReq 8) (otherWrites (arrayReq 8) (bytesFrom 12288 [33]) (arrayIn (some 1) (pk 73 [10, 6, 1]) 8))) x.fst x.snd == some (arrayCmd (some 1) (pk 73 [10, 6, 1])).q ∧
    true = ((traceChans (arrayCmd (some 1) (pk 73 [10, 6, 1])).pkt).zip (bytesWords (traceChans (arrayCmd (some 1) (pk 73 [10, 6, 1])).pkt).length (readBytes (otherWrites (arrayReq 8) (bytesFrom 12288 [17]) (arrayIn (some 1) (pk 73 [10, 6, 1]) 8)) (arrayReq 8)))).all fun x => channelOf (dropRead (arrayReq 8) (otherWrites (arrayReq 8) (bytesFrom 12288 [17]) (arrayIn (some 1) (pk 73 [10, 6, 1]) 8))) x.fst x.snd == some (arrayCmd (some 1) (pk 73 [10, 6, 1])).q ∧
    portsLive (arrayIn none (pk 140 [12288, 4]) 4) = true ∧
    (arrayIn none (pk 140 [12288, 4]) 4).flt.safe = false ∧
    read? (arrayIn none (pk 140 [12288, 4]) 4) 8 = some (arrayReq 4) ∧
    (arrayReq 4).use = ReadFor.mgmt 3 ∧
    elapsed (arrayIn none (pk 140 [12288, 4]) 4) (arrayReq 4).at_ ≤ usUnits ∧
    cmd? (arrayIn none (pk 140 [12288, 4]) 4) 3 = some (arrayCmd none (pk 140 [12288, 4])) ∧
    (arrayCmd none (pk 140 [12288, 4])).phase = Phase.mgmt ∧
    pkOp (arrayCmd none (pk 140 [12288, 4])).pkt = 140 ∧
    pkSubop (arrayCmd none (pk 140 [12288, 4])).pkt = 0 ∧
    portsLive (arrayIn none (pk 131212 [12288, 4]) 4) = true ∧
    (arrayIn none (pk 131212 [12288, 4]) 4).flt.safe = false ∧
    read? (arrayIn none (pk 131212 [12288, 4]) 4) 8 = some (arrayReq 4) ∧
    elapsed (arrayIn none (pk 131212 [12288, 4]) 4) (arrayReq 4).at_ ≤ usUnits ∧
    cmd? (arrayIn none (pk 131212 [12288, 4]) 4) 3 = some (arrayCmd none (pk 131212 [12288, 4])) ∧
    (arrayCmd none (pk 131212 [12288, 4])).phase = Phase.mgmt ∧
    pkOp (arrayCmd none (pk 131212 [12288, 4])).pkt = 140 ∧
    pkSubop (arrayCmd none (pk 131212 [12288, 4])).pkt = 2 := by
  repeat' apply And.intro
  all_goals first
    | decide +kernel
    | (unfold fresh; decide +kernel)
    | (simp; done)

theorem test_meets_RoutesAndFencesAreSet :
    (pkOp (pk 133 []) = 133 ∧
     systemLevel system0 = true ∧
     (system0.route.loaded && !system0.route.settled) = false ∧
     pkOp (pk 135 [95]) = 135 ∧
     bitAt (pw (pk 135 [95]) 0) 16 = false ∧
     hasLink op0 (bits (pw (pk 135 [95]) 1) 0 7) = true ∧
     pkOp (pk 0x10087 [0]) = 135 ∧
     bitAt (pw (pk 0x10087 [0]) 0) 16 = true ∧
     hasLink op0 (bits (pw (pk 0x10087 [0]) 1) 0 7) = true ∧
     pkOp (pk 0x10088 [511, 1]) = 136 ∧
     pkOp (pk 0x10089 [511, 1]) = 137 ∧
     running up = true) ∧
    starts system0 0 (ready 0) (pk 133 []) ∧
    starts op0 0 (ready 0) (pk 135 [95]) ∧
    starts op0 0 (ready 0) (pk 0x10087 [0]) ∧
    starts op0 0 (ready 0) (pk 0x10088 [511, 1]) ∧
    starts op0 0 (ready 0) (pk 0x10089 [511, 1]) := by
  repeat' apply And.intro
  all_goals first
    | decide +kernel
    | (unfold fresh; decide +kernel)
    | (simp; done)

theorem test_meets_WholeBlockCommandsTakeEffect :
    (pkOp (pk 0x1008A []) = 138 ∧
     bitAt (pw (pk 0x1008A []) 0) 16 = true ∧
     pw (pk 0x1008A []) 1 = 0 ∧
     pkOp (pk 141 [256]) = 141 ∧
     isMaster master0 = true ∧
     (earlier (pw (pk 141 [256]) 1) (now master0) = false ∨ master0.route.linkUp = (0 : BitVec 96)) ∧
     pkOp (pk 0x1008E []) = 142 ∧
     pkSubop (pk 0x1008E []) % 4 < 2 ∧
     pw (pk 0x1008E []) 1 = 0 ∧
     pkOp (pk 0x2008E [0x20000000000000]) = 142 ∧
     pkSubop (pk 0x2008E [0x20000000000000]) % 4 = 2 ∧
     mayPark routed0 routed0.eng.nextId = true) ∧
    (pkOp (pk 0x10094 []) = 148 ∧
     (op0.cur.state = CurState.idle ∨ op0.cur.state = CurState.armed) ∧
     (pw (pk 0x10094 []) 1 = 0 ∨ earlier (pw (pk 0x10094 []) 1) (later (now op0) (curLead op0 (pkSubop (pk 0x10094 []) % 2 == 1))) = false) ∧
     pkOp (pk 148 [0x20000000000000]) = 148 ∧
     (pw (pk 148 [0x20000000000000]) 1 = 0 ∨ earlier (pw (pk 148 [0x20000000000000]) 1) (later (now op0) (curLead op0 (pkSubop (pk 148 [0x20000000000000]) % 2 == 1))) = false)) ∧
    starts op0 0 (ready 0) (pk 0x1008A []) ∧
    starts master0 0 (ready 0) (pk 141 [256]) ∧
    starts op0 0 (ready 0) (pk 0x1008E []) ∧
    starts routed0 0 (ready 0) (pk 0x2008E [0x20000000000000]) ∧
    starts op0 0 (ready 0) (pk 0x10094 []) ∧
    starts op0 0 (ready 0) (pk 148 [0x20000000000000]) := by
  repeat' apply And.intro
  all_goals first
    | decide +kernel
    | (unfold fresh; decide +kernel)
    | (simp; done)

theorem test_meets_KeyJobsRun :
    (pkOp (pk 139 [0x20009]) = 139 ∧
     bitAt (pw (pk 139 [0x20009]) 0) 16 = false ∧
     sealedNow keyed0 (BitVec.extractLsb' 16 6 (pw (pk 139 [0x20009]) 1)) = true ∧
     reValid (routeEntry keyed0 (BitVec.extractLsb' 0 9 (pw (pk 139 [0x20009]) 1))) = true ∧
     keyed0.ree.jobs.any (isJob (BitVec.extractLsb' 16 6 (pw (pk 139 [0x20009]) 1)) (BitVec.extractLsb' 0 9 (pw (pk 139 [0x20009]) 1))) = false ∧
     pkOp (pk 0x1008B [0x20009]) = 139 ∧
     bitAt (pw (pk 0x1008B [0x20009]) 0) 16 = true ∧
     sealedNow keyed0 (BitVec.extractLsb' 16 6 (pw (pk 0x1008B [0x20009]) 1)) = true ∧
     reValid (routeEntry keyed0 (BitVec.extractLsb' 0 9 (pw (pk 0x1008B [0x20009]) 1))) = true ∧
     keyed0.ree.jobs.any (isJob (BitVec.extractLsb' 16 6 (pw (pk 0x1008B [0x20009]) 1)) (BitVec.extractLsb' 0 9 (pw (pk 0x1008B [0x20009]) 1))) = false ∧
     pkOp (pk 0x1008C [12288, 4096]) = 140 ∧
     pkSubop (pk 0x1008C [12288, 4096]) = 1) ∧
    ((keyed0.ree.jobs.any fun j => j.ready) = false ∧
     List.find? (fun j => j.ready) told0.ree.jobs = some job2 ∧
     pkOp (pk 0x3008C [12288, 4096]) = 140 ∧
     pkSubop (pk 0x3008C [12288, 4096]) = 3 ∧
     stoppedByCurfew told0 = false ∧
     List.find? (isJob 2 9) told0.ree.jobs = some job2 ∧
     job2.step < 4 ∧
     reached told0 (later job2.start keyLimit) = true ∧
     (slot told0 6).state = SlotState.draining ∧
     slotQuiet told0 (slot told0 6) = true ∧
     reached told0 (slot told0 6).due = true) ∧
    starts keyed0 0 (ready 0) (pk 139 [0x20009]) ∧
    starts keyed0 0 (ready 0) (pk 0x1008B [0x20009]) ∧
    starts keyed0 0 (ready 0) (pk 0x1008C [12288, 4096]) ∧
    starts told0 0 (ready 0) (pk 0x1008C [12288, 4096]) ∧
    starts told0 0 (ready 0) (pk 0x3008C [12288, 4096]) := by
  repeat' apply And.intro
  all_goals first
    | decide +kernel
    | (unfold fresh; decide +kernel)
    | (simp; done)

theorem test_meets_ApertureSetAndHangReport :
    (pkOp (pk 146 [0x10000, 4096, 0x30005, 0, 0x40503]) = 146 ∧
     apOk op0 (bits (pw (pk 146 [0x10000, 4096, 0x30005, 0, 0x40503]) 5) 16 12) (apOf (pk 146 [0x10000, 4096, 0x30005, 0, 0x40503])) = true ∧
     (apOf (pk 146 [0x10000, 4096, 0x30005, 0, 0x40503])).enabled = true ∧
     pkOp (pk 146 [0x10000, 4096, 0x30005, 0, 0x40403]) = 146 ∧
     apOk aperture0 (bits (pw (pk 146 [0x10000, 4096, 0x30005, 0, 0x40403]) 5) 16 12) (apOf (pk 146 [0x10000, 4096, 0x30005, 0, 0x40403])) = true ∧
     (apOf (pk 146 [0x10000, 4096, 0x30005, 0, 0x40403])).enabled = false ∧
     pkOp (pk 149 [12288, 4096]) = 149 ∧
     bitAt (pw (pk 149 [12288, 4096]) 0) 16 = false ∧
     op0.cur.state = CurState.idle ∧
     bits (pw (pk 149 [12288, 4096]) 1) 0 52 % 4096 = 0 ∧
     bits (pw (pk 149 [12288, 4096]) 2) 0 32 % 4096 = 0 ∧
     pkOp (pk 0x10095 [12288, 0x200000]) = 149) ∧
    (bitAt (pw (pk 0x10095 [12288, 0x200000]) 0) 16 = true ∧
     bits (pw (pk 0x10095 [12288, 0x200000]) 1) 0 52 % 4096 = 0 ∧
     bits (pw (pk 0x10095 [12288, 0x200000]) 2) 0 32 % 4096 = 0) ∧
    starts op0 0 (ready 0) (pk 146 [0x10000, 4096, 0x30005, 0, 0x40503]) ∧
    starts aperture0 0 (ready 0) (pk 146 [0x10000, 4096, 0x30005, 0, 0x40403]) ∧
    starts op0 0 (ready 0) (pk 149 [12288, 4096]) ∧
    starts op0 0 (ready 0) (pk 0x10095 [12288, 0x200000]) := by
  repeat' apply And.intro
  all_goals first
    | decide +kernel
    | (unfold fresh; decide +kernel)
    | (simp; done)

theorem test_meets_TerrierEventsEnd :
    (pkOp (pk 144 [20480, 4096, 1]) = 144 ∧
     invalOk (pk 144 [20480, 4096, 1]) = true ∧
     (1 : BitVec 6) = BitVec.extractLsb' 0 6 (pw (pk 144 [20480, 4096, 1]) 3) ∧
     (20480 = if bitAt (pw (pk 144 [20480, 4096, 1]) 0) 16 = true then 0 else bits (pw (pk 144 [20480, 4096, 1]) 1) 0 57) ∧
     (24576 = if bitAt (pw (pk 144 [20480, 4096, 1]) 0) 16 = true then 2 ^ 57 else 20480 + bits (pw (pk 144 [20480, 4096, 1]) 2) 0 57) ∧
     (∀ x ∈ op0.eng.cmds, x.parish ≠ some 1) ∧
     op0.brn.arrivals = [] ∧
     op0.sig.ents = [] ∧
     pkOp (pk 0x10090 [0, 0, 1]) = 144 ∧
     invalOk (pk 0x10090 [0, 0, 1]) = true ∧
     (1 : BitVec 6) = BitVec.extractLsb' 0 6 (pw (pk 0x10090 [0, 0, 1]) 3) ∧
     (0 = if bitAt (pw (pk 0x10090 [0, 0, 1]) 0) 16 = true then 0 else bits (pw (pk 0x10090 [0, 0, 1]) 1) 0 57)) ∧
    ((2 ^ 57 = if bitAt (pw (pk 0x10090 [0, 0, 1]) 0) 16 = true then 2 ^ 57 else 0 + bits (pw (pk 0x10090 [0, 0, 1]) 2) 0 57) ∧
     (∀ x ∈ recorded0.eng.cmds, x.parish ≠ some 1) ∧
     recorded0.brn.arrivals = [] ∧
     recorded0.sig.ents = [] ∧
     running (inval 5) = true ∧
     (inval 5).ter.inval = some (inv 5) ∧
     52 < agentCount ∧
     (inv 5).acked.contains 52 = false ∧
     agentBusy (inval 5) (inv 5) 52 = false ∧
     (inv 5).acked.length + 1 ≠ agentCount ∧
     running (inval 52) = true ∧
     (inval 52).ter.inval = some (inv 52)) ∧
    ((inv 52).acked.contains 52 = false ∧
     agentBusy (inval 52) (inv 52) 52 = false ∧
     (inv 52).acked.length + 1 = agentCount ∧
     running (inval 0) = true ∧
     (inval 0).ter.inval = some (inv 0) ∧
     (inv 0).late = false ∧
     reached (inval 0) (later (inv 0).start (4 * usUnits)) = true ∧
     pkOp (pk 145 [8]) = 145 ∧
     bitAt (pw (pk 145 [8]) 0) 16 = false ∧
     (recorded0.ter.recs.any fun r => r.seq == BitVec.extractLsb' 0 32 (pw (pk 145 [8]) 1)) = false ∧
     pkOp (pk 0x10091 [8]) = 145 ∧
     bitAt (pw (pk 0x10091 [8]) 0) 16 = true) ∧
    ((recorded0.ter.recs.any fun r => r.seq == BitVec.extractLsb' 0 32 (pw (pk 0x10091 [8]) 1)) = false ∧
     pkOp (pk 145 [7]) = 145 ∧
     bitAt (pw (pk 145 [7]) 0) 16 = false ∧
     List.find? (fun r => r.seq == BitVec.extractLsb' 0 32 (pw (pk 145 [7]) 1)) recorded0.ter.recs = some (rec7 []) ∧
     (rec7 []).waiters = [] ∧
     recorded0.ter.noRec = [] ∧
     pkOp (pk 0x10091 [7]) = 145 ∧
     bitAt (pw (pk 0x10091 [7]) 0) 16 = true ∧
     List.find? (fun r => r.seq == BitVec.extractLsb' 0 32 (pw (pk 0x10091 [7]) 1)) faulted0.ter.recs = some (rec7 [Requester.cmd 3]) ∧
     (rec7 [Requester.cmd 3]).waiters = [Requester.cmd 3] ∧
     faulted0.ter.noRec = [] ∧
     cmd? faulted0 3 = some parked3) ∧
    (parked3.phase = Phase.parked ∧
     parked3.admitted = false ∧
     parked3.targets = [] ∧
     ownWrites faulted0 3 = false ∧
     running faulted0 = true ∧
     List.find? (fun r => r.seq == (7 : BitVec 32)) faulted0.ter.recs = some (rec7 [Requester.cmd 3]) ∧
     reached faulted0 (later (rec7 [Requester.cmd 3]).time (bits faulted0.gbl.terCtl 32 14 * msUnits)) = true) ∧
    starts op0 0 (ready 0) (pk 144 [20480, 4096, 1]) ∧
    starts recorded0 0 (ready 0) (pk 0x10090 [0, 0, 1]) ∧
    starts recorded0 0 (ready 0) (pk 145 [8]) ∧
    starts recorded0 0 (ready 0) (pk 0x10091 [8]) ∧
    starts recorded0 0 (ready 0) (pk 145 [7]) ∧
    starts faulted0 0 (ready 0) (pk 0x10091 [7]) := by
  repeat' apply And.intro
  all_goals first
    | decide +kernel
    | (unfold fresh; decide +kernel)
    | (simp; done)

theorem test_meets_TerrierEventsEnd_2 :
    (∀ (a : Arrival), a ∈ faulted0.brn.arrivals → a.cmd ≠ some 3) := by
  repeat' apply And.intro
  all_goals first
    | decide +kernel
    | (unfold fresh; decide +kernel)
    | (simp; done)

theorem test_meets_ParishesComeAndGo :
    ((63 : BitVec 6) = BitVec.extractLsb' 0 6 (pw (pk 128 [0x80003F]) 1) ∧
     (128 : BitVec 16) = BitVec.extractLsb' 16 16 (pw (pk 128 [0x80003F]) 1) ∧
     pkOp (pk 128 [0x80003F]) = 128 ∧
     (parish op0 63).state = ParState.free ∧
     (128 : BitVec 16) ≠ (0 : BitVec 16) ∧
     (op0.par.any fun e => e.fst != 63 && e.snd.state != ParState.free && e.snd.tag == (128 : BitVec 16)) = false ∧
     (bitAt (pw (pk 128 [0x80003F]) 1) 32 = true → op0.part.s = true ∧ op0.ree.sealReady = true) ∧
     (2 : BitVec 6) = BitVec.extractLsb' 0 6 (pw (pk 128 [0x100800002]) 1) ∧
     (128 : BitVec 16) = BitVec.extractLsb' 16 16 (pw (pk 128 [0x100800002]) 1) ∧
     pkOp (pk 128 [0x100800002]) = 128 ∧
     (parish sealer0 2).state = ParState.free ∧
     (sealer0.par.any fun e => e.fst != 2 && e.snd.state != ParState.free && e.snd.tag == (128 : BitVec 16)) = false) ∧
    ((bitAt (pw (pk 128 [0x100800002]) 1) 32 = true → sealer0.part.s = true ∧ sealer0.ree.sealReady = true) ∧
     1 = bits (pw (pk 129 [1, 0x10306000600, 0x100000]) 1) 0 6 ∧
     pkOp (pk 129 [1, 0x10306000600, 0x100000]) = 129 ∧
     parishSetOk op0 1 (pk 129 [1, 0x10306000600, 0x100000]) = true ∧
     (parish retire0 1).state = ParState.active ∧
     (∀ e ∈ retire0.wins.entries, e.snd.parish = (1 : BitVec 6) → e.snd.state ≠ WinState.opened) ∧
     (∀ r ∈ retire0.ter.recs, r.parish ≠ (1 : BitVec 6)) ∧
     pkOp (pk 130 [1]) = 130 ∧
     (1 : BitVec 6) = BitVec.extractLsb' 0 6 (pw (pk 130 [1]) 1) ∧
     running retire0 = true ∧
     (1 : BitVec 6) = BitVec.extractLsb' 0 6 1#64 ∧
     running (parIs ParState.retiring) = true) ∧
    ((parish (parIs ParState.retiring) 1).state = ParState.retiring ∧
     quiet (parIs ParState.retiring) 1 = true ∧
     (∀ a ∈ (parIs ParState.retiring).brn.arrivals, a.state ≠ ArrState.unit) ∧
     running (parIs ParState.clearing) = true ∧
     (parish (parIs ParState.clearing) 1).state = ParState.clearing ∧
     cleared (parIs ParState.clearing) 1 = true) ∧
    starts op0 0 (ready 0) (pk 128 [0x80003F]) ∧
    starts sealer0 0 (ready 0) (pk 128 [0x100800002]) ∧
    starts op0 0 (ready 0) (pk 129 [1, 0x10306000600, 0x100000]) ∧
    starts retire0 0 (ready 0) (pk 130 [1]) := by
  repeat' apply And.intro
  all_goals first
    | decide +kernel
    | (unfold fresh; decide +kernel)
    | (simp; done)

theorem test_meets_ParishesComeAndGo_2 :
    (1 : BitVec 6) = BitVec.extractLsb' 0 6 (1 : Word) := by
  repeat' apply And.intro
  all_goals first
    | decide +kernel
    | (unfold fresh; decide +kernel)
    | (simp; done)

theorem test_meets_BlockScrubClearsTheBlock :
    ((∀ e ∈ retire0.wins.entries, e.snd.state ≠ WinState.opened) ∧
     retire0.ter.recs = [] ∧
     retire0.stw.scrub = none ∧
     pkOp (pk 131 []) = 131 ∧
     (∀ e ∈ up.wins.entries, e.snd.state ≠ WinState.opened) ∧
     up.ter.recs = [] ∧
     up.stw.scrub = none ∧
     running up = true ∧
     running scrubbed = true ∧
     scrubbed.stw.scrub = some ((2 : BitVec 64), true)) ∧
    starts retire0 0 (ready 0) (pk 131 []) ∧
    (∀ (q : Nat), BitVec.getLsbD 2#64 q = true → (parish scrubbed q).state = ParState.free ∨ (parish scrubbed q).state = ParState.active) := by
  refine ⟨?_, ?_, (by
      intro q hq
      by_cases hl : q < 64
      · have hh : ∀ q < 64, (2#64).getLsbD q = true → (parish scrubbed q).state = .free ∨ (parish scrubbed q).state = .active := by decide +kernel
        exact hh q hl hq
      · rw [BitVec.getLsbD_of_ge _ _ (Nat.le_of_not_lt hl)] at hq; cases hq)⟩
  all_goals first
    | decide +kernel
    | (unfold starts fresh; decide +kernel)
    | (unfold fresh; decide +kernel)

theorem test_meets_UnitsAreTested :
    (pkOp (pk 150 [47]) = 150 ∧
     testAct (pk 150 [47]) = 0 ∧
     testBad op0 (pk 150 [47]) = false ∧
     (testKind (pk 150 [47]) == 0 && lastEngine op0 (testUnit (pk 150 [47]))) = false ∧
     (testKind (pk 150 [47]) == 2 && (linksOf (testUnit (pk 150 [47]))).any fun p => (link op0 p).en) = false ∧
     pkOp (pk 0x80096 [31]) = 150 ∧
     testAct (pk 0x80096 [31]) = 0 ∧
     testBad op0 (pk 0x80096 [31]) = false ∧
     (testKind (pk 0x80096 [31]) == 0 && lastEngine op0 (testUnit (pk 0x80096 [31]))) = false ∧
     (testKind (pk 0x80096 [31]) == 2 && (linksOf (testUnit (pk 0x80096 [31]))).any fun p => (link op0 p).en) = false ∧
     pkOp (pk 0x10096 [3]) = 150 ∧
     testAct (pk 0x10096 [3]) = 1) ∧
    (removed0.stw.test = none ∧
     testBad removed0 (pk 0x10096 [3]) = false ∧
     inService removed0 (testKind (pk 0x10096 [3])) (testUnit (pk 0x10096 [3])) = false ∧
     (testKind (pk 0x10096 [3]) = 0 → engineLoad removed0 (testUnit (pk 0x10096 [3])) = 0) ∧
     pkOp (pk 0x90096 [1]) = 150 ∧
     testAct (pk 0x90096 [1]) = 1 ∧
     testBad removed0 (pk 0x90096 [1]) = false ∧
     inService removed0 (testKind (pk 0x90096 [1])) (testUnit (pk 0x90096 [1])) = false ∧
     (testKind (pk 0x90096 [1]) = 0 → engineLoad removed0 (testUnit (pk 0x90096 [1])) = 0) ∧
     pkOp (pk 0x20096 [3]) = 150 ∧
     testAct (pk 0x20096 [3]) = 2 ∧
     testBad removed0 (pk 0x20096 [3]) = false) ∧
    ((source removed0 (unitSource (testKind (pk 0x20096 [3])) (testUnit (pk 0x20096 [3])))).severe = false ∧
     (service removed0 (testKind (pk 0x20096 [3])) (testUnit (pk 0x20096 [3]))).passed = true ∧
     removed0.lnk.forcedWait = [] ∧
     pkOp (pk 0xA0096 [1]) = 150 ∧
     testAct (pk 0xA0096 [1]) = 2 ∧
     testBad removed0 (pk 0xA0096 [1]) = false ∧
     (source removed0 (unitSource (testKind (pk 0xA0096 [1])) (testUnit (pk 0xA0096 [1])))).severe = false ∧
     (service removed0 (testKind (pk 0xA0096 [1])) (testUnit (pk 0xA0096 [1]))).passed = true ∧
     pkOp (pk 151 [0x80000001]) = 151 ∧
     pkSubop (pk 151 [0x80000001]) % 2 = 0 ∧
     (∀ k < 32, (BitVec.extractLsb' 0 32 (pw (pk 151 [0x80000001]) 1)).getLsbD k = true → hasCroft op0 k = true) ∧
     running tested3 = true) ∧
    (tested3.stw.test = some (0, 3, 3) ∧
     cmd? tested3 3 = some (mgmt3 150) ∧
     (mgmt3 150).phase ≠ Phase.done) ∧
    starts op0 0 (ready 0) (pk 150 [47]) ∧
    starts op0 0 (ready 0) (pk 0x80096 [31]) ∧
    starts removed0 0 (ready 0) (pk 0x10096 [3]) ∧
    starts removed0 0 (ready 0) (pk 0x90096 [1]) ∧
    starts removed0 0 (ready 0) (pk 0x20096 [3]) ∧
    starts removed0 0 (ready 0) (pk 0xA0096 [1]) ∧
    starts op0 0 (ready 0) (pk 151 [0x80000001]) := by
  repeat' apply And.intro
  all_goals first
    | decide +kernel
    | (unfold fresh; decide +kernel)
    | (simp; done)

theorem test_meets_DoorbellsAct :
    ((ready 1).state ≠ ChState.stopped ∧
     tailOk (ready 1).ringLog2 (ready 1).head (ready 1).tail 64 = true ∧
     tailOk (ready 1).ringLog2 (ready 1).head (ready 1).tail 16 = true ∧
     tailOk (ready 1).ringLog2 (ready 1).head (ready 1).tail 65 = false ∧
     cplHeadOk (ready 1).cplHead (ready 1).cplTail 0 = true ∧
     ((ready 1).state = ChState.idle ∨ (ready 1).state = ChState.running ∨ (ready 1).state = ChState.blocked) ∧
     chParking.state = ChState.parking ∧
     memory5.pins.pwrOk = true ∧
     memory5.pins.aonReset = false ∧
     memory5.flt.safe = false ∧
     ctrlpOpen memory5 = true ∧
     heldAccess memory5 = false) ∧
    (5 < chnCount memory5 ∧
     chnEn memory5 = true ∧
     (memory5.chn.bells.any fun x => x.ch == (5 : BitVec 21)) = false ∧
     (∀ (c : Chan), chan? memory5 5 = some c → c.cached = false ∧ c.state ≠ ChState.parking ∧ c.state ≠ ChState.stopped)) ∧
    rings par5 Who.operator 5 (ready 1) ∧
    rings par5 (Who.parish 1) 5 (ready 1) ∧
    rings parking5 Who.operator 5 chParking := by
  repeat' apply And.intro
  all_goals first
    | decide +kernel
    | (unfold fresh; decide +kernel)
    | (simp; done)

theorem test_meets_ChannelsLeaveAndEnter :
    (chan? parking5 5 = some chParking ∧
     parkable parking5 5 chParking = true ∧
     chParking.resumeHeld = false ∧
     overflow5.chn.ovf = [(5 : BitVec 21)] ∧
     chan? overflow5 5 = some chOvf ∧
     ((5 : BitVec 21) = (0 : BitVec 21) ∨ (parish overflow5 chOvf.parish.toNat).state = ParState.active) ∧
     cachedCount overflow5 < 16384) :=
  by decide +kernel

theorem test_meets_ChannelsLeaveAndEnter_2 :
    running parking5 = true ∧
    running overflow5 = true := by
  repeat' apply And.intro
  all_goals first
    | decide +kernel
    | (unfold fresh; decide +kernel)
    | (simp; done)

theorem test_meets_RecordsWaitsTags :
    (running recordable = true ∧
     oldest recordable 5 = some done3 ∧
     chan? recordable 5 = some (ready 1) ∧
     done3.phase = Phase.done ∧
     (recordable.flt.msgs.any fun m => m.cmds.contains done3.id) = false ∧
     recordable.route.drains = [] ∧
     recordable.mil.clears = [] ∧
     (∀ n < 8, (stone recordable n).work = none) ∧
     (∀ x ∈ recordable.eng.cmds, x.op.toNat = opXform → x.phase ≠ Phase.done → canForm recordable 1 (bits (pw x.pkt 6) 0 3) = true) ∧
     running waiting5 = true ∧
     waiter? waiting5 5 = some wait5 ∧
     reached waiting5 wait5.due = true) ∧
    (wait5.reading = false ∧
     wait5.pa = some 36872 ∧
     joined waiting5 (Requester.wait wait5.ch) = [] ∧
     waitsRecord waiting5 (Requester.wait wait5.ch) = false ∧
     running tagging = true ∧
     tagging.eng.tagWait = [3] ∧
     cmd? tagging 3 = some tagged3 ∧
     tagged3.needTags = [(9 : BitVec 9)] ∧
     freeTag tagging = some 0 ∧
     pkOp tagged3.pkt = opPut ∧
     tagged3.phase = Phase.tags ∧
     tagged3.redo = false) ∧
    (tagging.dap.held = [] ∧
     tagged3.reading = false ∧
     hasWaiting tagging 3 = false ∧
     (nextStripe tagged3).isSome = true ∧
     tagging.obs.watches = []) ∧
    calm recordable := by
  repeat' apply And.intro
  all_goals first
    | decide +kernel
    | (unfold fresh; decide +kernel)
    | (simp; done)

theorem test_meets_RecordsWaitsTags_2 :
    tagged3.outw = none := by
  repeat' apply And.intro
  all_goals first
    | decide +kernel
    | (unfold fresh; decide +kernel)
    | (simp; done)

theorem test_meets_StripesAreIssued :
    waitingFor (unitIn reading3 put5u) 5 = some put5u ∧
    running (unitIn reading3 put5u) = true ∧
    unit? (unitIn reading3 put5u) put5u.id = some put5u ∧
    put5u.dests = [ownId (unitIn reading3 put5u)] ∧
    waitingFor (unitIn reading3 (put9u false)) 9 = some (put9u false) ∧
    running (unitIn reading3 (put9u false)) = true ∧
    unit? (unitIn reading3 (put9u false)) (put9u false).id = some (put9u false) ∧
    (put9u false).dests = [(9 : BitVec 9)] ∧
    (9 : BitVec 9) ≠ ownId (unitIn reading3 (put9u false)) ∧
    firstWaiting (unitIn reading3 (put9u false)) (put9u false) = true ∧
    mayCharge (unitIn reading3 (put9u false)) (put9u false) 9 = true ∧
    unitPlane (unitIn reading3 (put9u false)) (put9u false) = some 0 ∧
    (∀ (i : Nat) (c : Cmd), put5u.use = UnitFor.cmd i → cmd? (unitIn reading3 put5u) i = some c → c.phase ≠ Phase.active ∨ c.reading = true) ∧
    (∀ (i : Nat) (c : Cmd), (put9u false).use = UnitFor.cmd i → cmd? (unitIn reading3 (put9u false)) i = some c → c.phase ≠ Phase.active ∨ c.reading = true) ∧
    restful (unitIn reading3 put5u) put5u.use ∧
    (∀ (id : Nat) (c : Cmd), put5u.use = UnitFor.cmd id → cmd? (unitIn reading3 put5u) id = some c → pkOp c.pkt = opMput → emptyMembers (unitIn reading3 put5u) c put5u.dests = []) ∧
    restful (unitIn reading3 (put9u false)) (put9u false).use ∧
    (∀ (id : Nat) (c : Cmd), (put9u false).use = UnitFor.cmd id → cmd? (unitIn reading3 (put9u false)) id = some c → pkOp c.pkt = opMput → emptyMembers (unitIn reading3 (put9u false)) c (put9u false).dests = []) := by
  repeat' apply And.intro
  all_goals first
    | decide +kernel
    | (unfold fresh; decide +kernel)
    | (simp; done)
    | (intro i c hi hc; cases hi; cases hc; exact Or.inr (by decide +kernel))
    | (intro i c hi hc hm; cases hi; cases hc; exact absurd hm (by decide +kernel))

theorem test_meets_TransactionsTimeOut :
    (running (unitIn put3 (put9u false)) = true ∧
     unit? (unitIn put3 (put9u false)) 1 = some (put9u false) ∧
     (put9u false).use = UnitFor.cmd 3 ∧
     put3.lost = [] ∧
     (unitIn put3 (put9u false)).tx.queries = [] ∧
     pkSignalled put3.pkt = false ∧
     (put9u false).txn.kind.toNat = kPutData ∧
     atCheck (unitIn put3 (put9u false)) (put9u false) = true ∧
     reached (unitIn put3 (put9u false)) (put9u false).waitEnd = true ∧
     running (unitIn put3 (put9u true)) = true ∧
     unit? (unitIn put3 (put9u true)) 1 = some (put9u true) ∧
     (put9u true).use = UnitFor.cmd 3) ∧
    ((unitIn put3 (put9u true)).tx.queries = [] ∧
     (put9u true).txn.kind.toNat = kPutData ∧
     (put9u true).charged = true ∧
     (put9u true).await = false ∧
     reached (unitIn put3 (put9u true)) (put9u true).deadline = true ∧
     running (dapIn (get9u false)) = true ∧
     unit? (dapIn (get9u false)) 1 = some (get9u false) ∧
     (get9u false).use = UnitFor.answer 9 ∧
     atCheck (dapIn (get9u false)) (get9u false) = true ∧
     reached (dapIn (get9u false)) (get9u false).waitEnd = true ∧
     running (dapIn (get9u true)) = true ∧
     unit? (dapIn (get9u true)) 1 = some (get9u true)) ∧
    ((get9u true).use = UnitFor.answer 9 ∧
     (get9u true).charged = true ∧
     reached (dapIn (get9u true)) (get9u true).deadline = true ∧
     running (dapIn (store9u false)) = true ∧
     unit? (dapIn (store9u false)) 1 = some (store9u false) ∧
     (store9u false).use = UnitFor.dap 3 ∧
     List.find? (fun x => x.id == 3) (dapIn (store9u false)).dap.accs = some acc3 ∧
     atCheck (dapIn (store9u false)) (store9u false) = true ∧
     reached (dapIn (store9u false)) (store9u false).waitEnd = true ∧
     running (dapIn (store9u true)) = true ∧
     unit? (dapIn (store9u true)) 1 = some (store9u true) ∧
     (store9u true).use = UnitFor.dap 3) ∧
    (List.find? (fun x => x.id == 3) (dapIn (store9u true)).dap.accs = some acc3 ∧
     (store9u true).charged = true ∧
     reached (dapIn (store9u true)) (store9u true).deadline = true) ∧
    waitsFor (unitIn put3 (put9u false)) 3 put3 [put9u false] ∧
    waitsFor (unitIn put3 (put9u true)) 3 put3 [put9u true] := by
  repeat' apply And.intro
  all_goals first
    | decide +kernel
    | (unfold fresh; decide +kernel)
    | (simp; done)

theorem test_meets_AnswersEndItems :
    (itemOf (unitIn put3 (put9u true)) (reply kAck 9 5) = some (put9u true) ∧
     unit? (unitIn put3 (put9u true)) (put9u true).id = some (put9u true) ∧
     (put9u true).use = UnitFor.cmd 3 ∧
     (put9u true).owed = [(reply kAck 9 5).src] ∧
     (put9u true).await = false ∧
     put3.lost = [] ∧
     (unitIn put3 (put9u true)).tx.queries = [] ∧
     pkSignalled put3.pkt = false ∧
     answerAuthentic (unitIn put3 (put9u true)) ((put9u true).parish.getD 0) (put9u true).txn.sealSlot (reply kAck 9 5) = true ∧
     (reply kAck 9 5).kind.toNat = kAck ∧
     itemOf (unitIn put3 (put9u true)) (reply kRefuse 9 5) = some (put9u true) ∧
     (put9u true).owed = [(reply kRefuse 9 5).src]) ∧
    (answerAuthentic (unitIn put3 (put9u true)) ((put9u true).parish.getD 0) (put9u true).txn.sealSlot (reply kRefuse 9 5) = true ∧
     (reply kRefuse 9 5).kind.toNat = kRefuse ∧
     itemOf (unitIn (amo3 8) (unit1 (UnitFor.cmd 3) kAmo 9 true)) (reply kAmoDone 9 5) = some (unit1 (UnitFor.cmd 3) kAmo 9 true) ∧
     unit? (unitIn (amo3 8) (unit1 (UnitFor.cmd 3) kAmo 9 true)) (unit1 (UnitFor.cmd 3) kAmo 9 true).id = some (unit1 (UnitFor.cmd 3) kAmo 9 true) ∧
     (unit1 (UnitFor.cmd 3) kAmo 9 true).use = UnitFor.cmd 3 ∧
     (unit1 (UnitFor.cmd 3) kAmo 9 true).owed = [(reply kAmoDone 9 5).src] ∧
     (unit1 (UnitFor.cmd 3) kAmo 9 true).await = false ∧
     (amo3 8).lost = [] ∧
     (unitIn (amo3 8) (unit1 (UnitFor.cmd 3) kAmo 9 true)).tx.queries = [] ∧
     pkSignalled (amo3 8).pkt = false ∧
     answerAuthentic (unitIn (amo3 8) (unit1 (UnitFor.cmd 3) kAmo 9 true)) ((unit1 (UnitFor.cmd 3) kAmo 9 true).parish.getD 0) (unit1 (UnitFor.cmd 3) kAmo 9 true).txn.sealSlot (reply kAmoDone 9 5) = true ∧
     (reply kAmoDone 9 5).kind.toNat = kAmoDone) ∧
    (itemOf (dapIn (store9u true)) (reply kStoreDone 9 5) = some (store9u true) ∧
     (store9u true).use = UnitFor.dap 3 ∧
     List.find? (fun x => x.id == 3) (dapIn (store9u true)).dap.accs = some acc3 ∧
     (reply kStoreDone 9 5).kind.toNat = kStoreDone ∧
     answerAuthentic (dapIn (store9u true)) ((store9u true).parish.getD 0) (store9u true).txn.sealSlot (reply kStoreDone 9 5) = true ∧
     itemOf tallied (reply kAck 9 5) = none) ∧
    hears (unitIn put3 (put9u true)) (Via.link 0) (reply kAck 9 5) ∧
    waitsFor (unitIn put3 (put9u true)) 3 put3 [put9u true] ∧
    hears (unitIn put3 (put9u true)) (Via.link 0) (reply kRefuse 9 5) ∧
    hears (unitIn (amo3 8) (unit1 (UnitFor.cmd 3) kAmo 9 true)) (Via.link 0) (reply kAmoDone 9 5) ∧
    waitsFor (unitIn (amo3 8) (unit1 (UnitFor.cmd 3) kAmo 9 true)) 3 (amo3 8) [unit1 (UnitFor.cmd 3) kAmo 9 true] ∧
    hears (dapIn (store9u true)) (Via.link 0) (reply kStoreDone 9 5) ∧
    hears tallied (Via.link 0) (reply kAck 9 5) := by
  repeat' apply And.intro
  all_goals first
    | decide +kernel
    | (unfold fresh; decide +kernel)
    | (simp; done)

theorem test_meets_SignalsResolve :
    (signalDone9.kind.toNat = kSignalDone ∧
     tagOwner (unitIn (signal3 SigFate.sent) sigUnit) signalDone9.src signalDone9.tag = some (signal3 SigFate.sent, sigTo SigFate.sent) ∧
     (signal3 SigFate.sent).targets = [sigTo SigFate.sent] ∧
     (sigTo SigFate.sent).dev = signalDone9.src ∧
     (sigTo SigFate.sent).sig = SigFate.sent ∧
     (sigTo SigFate.sent).sigLost = false ∧
     (sigTo SigFate.sent).lost = false ∧
     (signal3 SigFate.sent).lost = [] ∧
     (unitIn (signal3 SigFate.sent) sigUnit).tx.queries = [] ∧
     pkSignalled (signal3 SigFate.sent).pkt = true ∧
     sigUnit.await = true ∧
     sigUnit.charged = true) ∧
    (sigUnit.owed = [] ∧
     sigUnit.dests = [signalDone9.src] ∧
     answerAuthentic (unitIn (signal3 SigFate.sent) sigUnit) (signal3 SigFate.sent).q (signalSeal (unitIn (signal3 SigFate.sent) sigUnit) (signal3 SigFate.sent).id signalDone9.src) signalDone9 = true ∧
     queryReply9.kind.toNat = kQueryReply ∧
     asked9.tx.queries = [query4] ∧
     query4.dev = queryReply9.src ∧
     query4.tag = queryReply9.tag ∧
     (signal3 SigFate.querying).targets = [sigTo SigFate.querying] ∧
     (sigTo SigFate.querying).dev = queryReply9.src ∧
     (sigTo SigFate.querying).sig = SigFate.querying ∧
     (sigTo SigFate.querying).stopped = false ∧
     (sigTo SigFate.querying).dropped = false) ∧
    ((signal3 SigFate.querying).lost ≠ [] ∧
     pkSignalled (signal3 SigFate.querying).pkt = true ∧
     answerAuthentic asked9 (signal3 SigFate.querying).q query4.auth queryReply9 = true) ∧
    hears (unitIn (signal3 SigFate.sent) sigUnit) (Via.link 0) signalDone9 ∧
    waitsFor (unitIn (signal3 SigFate.sent) sigUnit) (signal3 SigFate.sent).id (signal3 SigFate.sent) [sigUnit] ∧
    hears asked9 (Via.link 0) queryReply9 ∧
    waitsFor asked9 query4.cmd (signal3 SigFate.querying) [] := by
  repeat' apply And.intro
  all_goals first
    | decide +kernel
    | (unfold fresh; decide +kernel)
    | (simp; done)

theorem test_meets_ResponsesLand :
    (itemOf (unitIn (out3 (plain9 2) 1) (unit1 (UnitFor.cmd 3) kGetRequest 9 true)) (txn kGetResponse 9 5) = some (unit1 (UnitFor.cmd 3) kGetRequest 9 true) ∧
     unit? (unitIn (out3 (plain9 2) 1) (unit1 (UnitFor.cmd 3) kGetRequest 9 true)) (unit1 (UnitFor.cmd 3) kGetRequest 9 true).id = some (unit1 (UnitFor.cmd 3) kGetRequest 9 true) ∧
     (txn kGetResponse 9 5).sealSlot = none ∧
     ((txn kGetResponse 9 5).src = ownId (unitIn (out3 (plain9 2) 1) (unit1 (UnitFor.cmd 3) kGetRequest 9 true)) ∨ fenced (unitIn (out3 (plain9 2) 1) (unit1 (UnitFor.cmd 3) kGetRequest 9 true)) ((unit1 (UnitFor.cmd 3) kGetRequest 9 true).parish.getD 0).toNat (txn kGetResponse 9 5).src.toNat = false ∧ parSealed (unitIn (out3 (plain9 2) 1) (unit1 (UnitFor.cmd 3) kGetRequest 9 true)) ((unit1 (UnitFor.cmd 3) kGetRequest 9 true).parish.getD 0) = false) ∧
     (unitIn (out3 (plain9 2) 1) (unit1 (UnitFor.cmd 3) kGetRequest 9 true)).obs.watches = [] ∧
     (unitIn (out3 (plain9 2) 1) (unit1 (UnitFor.cmd 3) kGetRequest 9 true)).brn.arrivals = [] ∧
     (unit1 (UnitFor.cmd 3) kGetRequest 9 true).use = UnitFor.cmd 3 ∧
     cmd? (unitIn (out3 (plain9 2) 1) (unit1 (UnitFor.cmd 3) kGetRequest 9 true)) 3 = some (out3 (plain9 2) 1) ∧
     (out3 (plain9 2) 1).phase = Phase.active ∧
     abortedCmd (out3 (plain9 2) 1) = false ∧
     (txn kGetResponse 9 5).kind.toNat = kGetResponse ∧
     (txn kGetResponse 9 5).coded = false) ∧
    (itemOf (unitIn (out3 (plain9 9) 1) (unit1 (UnitFor.cmd 3) kAmof 9 true)) (txn kAmofResult 9 5) = some (unit1 (UnitFor.cmd 3) kAmof 9 true) ∧
     unit? (unitIn (out3 (plain9 9) 1) (unit1 (UnitFor.cmd 3) kAmof 9 true)) (unit1 (UnitFor.cmd 3) kAmof 9 true).id = some (unit1 (UnitFor.cmd 3) kAmof 9 true) ∧
     (txn kAmofResult 9 5).sealSlot = none ∧
     ((txn kAmofResult 9 5).src = ownId (unitIn (out3 (plain9 9) 1) (unit1 (UnitFor.cmd 3) kAmof 9 true)) ∨ fenced (unitIn (out3 (plain9 9) 1) (unit1 (UnitFor.cmd 3) kAmof 9 true)) ((unit1 (UnitFor.cmd 3) kAmof 9 true).parish.getD 0).toNat (txn kAmofResult 9 5).src.toNat = false ∧ parSealed (unitIn (out3 (plain9 9) 1) (unit1 (UnitFor.cmd 3) kAmof 9 true)) ((unit1 (UnitFor.cmd 3) kAmof 9 true).parish.getD 0) = false) ∧
     (unitIn (out3 (plain9 9) 1) (unit1 (UnitFor.cmd 3) kAmof 9 true)).obs.watches = [] ∧
     (unitIn (out3 (plain9 9) 1) (unit1 (UnitFor.cmd 3) kAmof 9 true)).brn.arrivals = [] ∧
     (unit1 (UnitFor.cmd 3) kAmof 9 true).use = UnitFor.cmd 3 ∧
     cmd? (unitIn (out3 (plain9 9) 1) (unit1 (UnitFor.cmd 3) kAmof 9 true)) 3 = some (out3 (plain9 9) 1) ∧
     (out3 (plain9 9) 1).phase = Phase.active ∧
     abortedCmd (out3 (plain9 9) 1) = false ∧
     (txn kAmofResult 9 5).kind.toNat = kAmofResult ∧
     itemOf (dapIn (unit1 (UnitFor.dap 3) kLoad 9 true)) (txn kLoadData 9 5) = some (unit1 (UnitFor.dap 3) kLoad 9 true)) ∧
    (unit? (dapIn (unit1 (UnitFor.dap 3) kLoad 9 true)) (unit1 (UnitFor.dap 3) kLoad 9 true).id = some (unit1 (UnitFor.dap 3) kLoad 9 true) ∧
     (txn kLoadData 9 5).sealSlot = none ∧
     ((txn kLoadData 9 5).src = ownId (dapIn (unit1 (UnitFor.dap 3) kLoad 9 true)) ∨ fenced (dapIn (unit1 (UnitFor.dap 3) kLoad 9 true)) ((unit1 (UnitFor.dap 3) kLoad 9 true).parish.getD 0).toNat (txn kLoadData 9 5).src.toNat = false ∧ parSealed (dapIn (unit1 (UnitFor.dap 3) kLoad 9 true)) ((unit1 (UnitFor.dap 3) kLoad 9 true).parish.getD 0) = false) ∧
     (dapIn (unit1 (UnitFor.dap 3) kLoad 9 true)).obs.watches = [] ∧
     (dapIn (unit1 (UnitFor.dap 3) kLoad 9 true)).brn.arrivals = [] ∧
     (unit1 (UnitFor.dap 3) kLoad 9 true).use = UnitFor.dap 3 ∧
     List.find? (fun x => x.id == 3) (dapIn (unit1 (UnitFor.dap 3) kLoad 9 true)).dap.accs = some acc3 ∧
     (txn kLoadData 9 5).kind.toNat = kLoadData) ∧
    lands (unitIn (out3 (plain9 2) 1) (unit1 (UnitFor.cmd 3) kGetRequest 9 true)) (Via.link 0) (txn kGetResponse 9 5) ∧
    lands (unitIn (out3 (plain9 9) 1) (unit1 (UnitFor.cmd 3) kAmof 9 true)) (Via.link 0) (txn kAmofResult 9 5) ∧
    lands (dapIn (unit1 (UnitFor.dap 3) kLoad 9 true)) (Via.link 0) (txn kLoadData 9 5) := by
  repeat' apply And.intro
  all_goals first
    | decide +kernel
    | (unfold fresh; decide +kernel)
    | (simp; done)

theorem test_meets_RequestsEnterTheBarn :
    ((request kPutData 5).kind.toNat = kPutData ∧
     winEn (target false (request kPutData 5)) = true ∧
     (txWindow (request kPutData 5)).toNat < winCount (target false (request kPutData 5)) ∧
     (target false (request kPutData 5)).wins.cached.contains (txWindow (request kPutData 5)).toNat = false ∧
     (∀ b ∈ (target false (request kPutData 5)).brn.arrivals, b.state ≠ ArrState.window) ∧
     (request kSignal 9).kind.toNat = kSignal ∧
     winEn (target false question) = true ∧
     (txWindow (request kSignal 9)).toNat < winCount (target false question) ∧
     (target false question).wins.cached.contains (txWindow (request kSignal 9)).toNat = false ∧
     (∀ b ∈ (target false question).brn.arrivals, b.state ≠ ArrState.window) ∧
     (request kRputWsum 9).kind.toNat = kRputWsum ∧
     (txWindow (request kRputWsum 9)).toNat < winCount (target false question)) ∧
    ((target false question).wins.cached.contains (txWindow (request kRputWsum 9)).toNat = false ∧
     (request kAmof 9).kind.toNat = kAmof ∧
     (txWindow (request kAmof 9)).toNat < winCount (target false question) ∧
     (target false question).wins.cached.contains (txWindow (request kAmof 9)).toNat = false ∧
     (request kRputSum 9).kind.toNat = kRputSum ∧
     (txWindow (request kRputSum 9)).toNat < winCount (target false question) ∧
     (target false question).wins.cached.contains (txWindow (request kRputSum 9)).toNat = false ∧
     (request kRputMax 9).kind.toNat = kRputMax ∧
     (txWindow (request kRputMax 9)).toNat < winCount (target false question) ∧
     (target false question).wins.cached.contains (txWindow (request kRputMax 9)).toNat = false ∧
     (request kRputMin 9).kind.toNat = kRputMin ∧
     (txWindow (request kRputMin 9)).toNat < winCount (target false question)) ∧
    ((target false question).wins.cached.contains (txWindow (request kRputMin 9)).toNat = false ∧
     (request kGetRequest 9).kind.toNat = kGetRequest ∧
     (txWindow (request kGetRequest 9)).toNat < winCount (target false question) ∧
     (target false question).wins.cached.contains (txWindow (request kGetRequest 9)).toNat = false ∧
     (request kAmo 9).kind.toNat = kAmo ∧
     (txWindow (request kAmo 9)).toNat < winCount (target false question) ∧
     (target false question).wins.cached.contains (txWindow (request kAmo 9)).toNat = false ∧
     (request kLoad 9).kind.toNat = kLoad ∧
     (txWindow (request kLoad 9)).toNat < winCount (target false question) ∧
     (target false question).wins.cached.contains (txWindow (request kLoad 9)).toNat = false ∧
     (request kStore 9).kind.toNat = kStore ∧
     (txWindow (request kStore 9)).toNat < winCount (target false question)) ∧
    (target false question).wins.cached.contains (txWindow (request kStore 9)).toNat = false ∧
    lands (target false (request kPutData 5)) Via.self (request kPutData 5) ∧
    (Instr.putData, kPutData) ∈ [(Instr.putData, kPutData), (Instr.rputSum, kRputSum), (Instr.rputMax, kRputMax), (Instr.rputMin, kRputMin), (Instr.rputWsum, kRputWsum), (Instr.getRequest, kGetRequest), (Instr.amoRequest, kAmo), (Instr.amofRequest, kAmof), (Instr.signal, kSignal), (Instr.load, kLoad), (Instr.store, kStore)] ∧
    lands (target false question) (Via.link 0) (request kSignal 9) ∧
    (Instr.signal, kSignal) ∈ [(Instr.putData, kPutData), (Instr.rputSum, kRputSum), (Instr.rputMax, kRputMax), (Instr.rputMin, kRputMin), (Instr.rputWsum, kRputWsum), (Instr.getRequest, kGetRequest), (Instr.amoRequest, kAmo), (Instr.amofRequest, kAmof), (Instr.signal, kSignal), (Instr.load, kLoad), (Instr.store, kStore)] ∧
    lands (target false question) (Via.link 0) (request kRputWsum 9) ∧
    (Instr.rputWsum, kRputWsum) ∈ [(Instr.putData, kPutData), (Instr.rputSum, kRputSum), (Instr.rputMax, kRputMax), (Instr.rputMin, kRputMin), (Instr.rputWsum, kRputWsum), (Instr.getRequest, kGetRequest), (Instr.amoRequest, kAmo), (Instr.amofRequest, kAmof), (Instr.signal, kSignal), (Instr.load, kLoad), (Instr.store, kStore)] ∧
    lands (target false question) (Via.link 0) (request kAmof 9) ∧
    (Instr.amofRequest, kAmof) ∈ [(Instr.putData, kPutData), (Instr.rputSum, kRputSum), (Instr.rputMax, kRputMax), (Instr.rputMin, kRputMin), (Instr.rputWsum, kRputWsum), (Instr.getRequest, kGetRequest), (Instr.amoRequest, kAmo), (Instr.amofRequest, kAmof), (Instr.signal, kSignal), (Instr.load, kLoad), (Instr.store, kStore)] ∧
    lands (target false question) (Via.link 0) (request kRputSum 9) ∧
    (Instr.rputSum, kRputSum) ∈ [(Instr.putData, kPutData), (Instr.rputSum, kRputSum), (Instr.rputMax, kRputMax), (Instr.rputMin, kRputMin), (Instr.rputWsum, kRputWsum), (Instr.getRequest, kGetRequest), (Instr.amoRequest, kAmo), (Instr.amofRequest, kAmof), (Instr.signal, kSignal), (Instr.load, kLoad), (Instr.store, kStore)] ∧
    lands (target false question) (Via.link 0) (request kRputMax 9) ∧
    (Instr.rputMax, kRputMax) ∈ [(Instr.putData, kPutData), (Instr.rputSum, kRputSum), (Instr.rputMax, kRputMax), (Instr.rputMin, kRputMin), (Instr.rputWsum, kRputWsum), (Instr.getRequest, kGetRequest), (Instr.amoRequest, kAmo), (Instr.amofRequest, kAmof), (Instr.signal, kSignal), (Instr.load, kLoad), (Instr.store, kStore)] ∧
    lands (target false question) (Via.link 0) (request kRputMin 9) ∧
    (Instr.rputMin, kRputMin) ∈ [(Instr.putData, kPutData), (Instr.rputSum, kRputSum), (Instr.rputMax, kRputMax), (Instr.rputMin, kRputMin), (Instr.rputWsum, kRputWsum), (Instr.getRequest, kGetRequest), (Instr.amoRequest, kAmo), (Instr.amofRequest, kAmof), (Instr.signal, kSignal), (Instr.load, kLoad), (Instr.store, kStore)] ∧
    lands (target false question) (Via.link 0) (request kGetRequest 9) ∧
    (Instr.getRequest, kGetRequest) ∈ [(Instr.putData, kPutData), (Instr.rputSum, kRputSum), (Instr.rputMax, kRputMax), (Instr.rputMin, kRputMin), (Instr.rputWsum, kRputWsum), (Instr.getRequest, kGetRequest), (Instr.amoRequest, kAmo), (Instr.amofRequest, kAmof), (Instr.signal, kSignal), (Instr.load, kLoad), (Instr.store, kStore)] ∧
    lands (target false question) (Via.link 0) (request kAmo 9) ∧
    (Instr.amoRequest, kAmo) ∈ [(Instr.putData, kPutData), (Instr.rputSum, kRputSum), (Instr.rputMax, kRputMax), (Instr.rputMin, kRputMin), (Instr.rputWsum, kRputWsum), (Instr.getRequest, kGetRequest), (Instr.amoRequest, kAmo), (Instr.amofRequest, kAmof), (Instr.signal, kSignal), (Instr.load, kLoad), (Instr.store, kStore)] ∧
    lands (target false question) (Via.link 0) (request kLoad 9) ∧
    (Instr.load, kLoad) ∈ [(Instr.putData, kPutData), (Instr.rputSum, kRputSum), (Instr.rputMax, kRputMax), (Instr.rputMin, kRputMin), (Instr.rputWsum, kRputWsum), (Instr.getRequest, kGetRequest), (Instr.amoRequest, kAmo), (Instr.amofRequest, kAmof), (Instr.signal, kSignal), (Instr.load, kLoad), (Instr.store, kStore)] ∧
    lands (target false question) (Via.link 0) (request kStore 9) ∧
    (Instr.store, kStore) ∈ [(Instr.putData, kPutData), (Instr.rputSum, kRputSum), (Instr.rputMax, kRputMax), (Instr.rputMin, kRputMin), (Instr.rputWsum, kRputWsum), (Instr.getRequest, kGetRequest), (Instr.amoRequest, kAmo), (Instr.amofRequest, kAmof), (Instr.signal, kSignal), (Instr.load, kLoad), (Instr.store, kStore)] := by
  repeat' apply And.intro
  all_goals first
    | decide +kernel
    | exact ⟨0, 0x6000, by decide +kernel⟩
    | (repeat (first | exact List.Mem.head _ | apply List.Mem.tail))

theorem test_meets_RequestsEnterTheBarn_2 :
    fencedWhole (target false (request kPutData 5)) (request kPutData 5).src = false := by
  repeat' apply And.intro
  all_goals first
    | decide +kernel
    | (unfold fresh; decide +kernel)
    | (simp; done)

theorem test_meets_RequestsReachTheirWindow :
    ((request kPutData 5).kind.toNat = kPutData ∧
     (request kStore 9).kind.toNat = kStore ∧
     (request kGetRequest 9).kind.toNat = kGetRequest ∧
     (request kLoad 5).kind.toNat = kLoad ∧
     (request kRputMax 9).kind.toNat = kRputMax ∧
     (request kRputWsum 5).kind.toNat = kRputWsum ∧
     (request kRputSum 9).kind.toNat = kRputSum ∧
     (request kRputMin 9).kind.toNat = kRputMin ∧
     (request kAmo 9).kind.toNat = kAmo ∧
     (request kAmof 9).kind.toNat = kAmof ∧
     (request kSignal 5).kind.toNat = kSignal ∧
     signalEnd.kind.toNat = kSignal) ∧
    (request kSignal 9).kind.toNat = kSignal ∧
    lands (target true (request kPutData 5)) Via.self (request kPutData 5) ∧
    reaches (target true (request kPutData 5)) (request kPutData 5) 36864 64 ∧
    (Instr.putData, kPutData) ∈ [(Instr.putData, kPutData), (Instr.store, kStore)] ∧
    lands (target true question) (Via.link 0) (request kStore 9) ∧
    reaches (target true question) (request kStore 9) 36864 64 ∧
    (Instr.store, kStore) ∈ [(Instr.putData, kPutData), (Instr.store, kStore)] ∧
    lands (target true question) (Via.link 0) (request kGetRequest 9) ∧
    reaches (target true question) (request kGetRequest 9) 36864 64 ∧
    (Instr.getRequest, kGetRequest) ∈ [(Instr.getRequest, kGetRequest), (Instr.load, kLoad)] ∧
    lands (target true (request kLoad 5)) Via.self (request kLoad 5) ∧
    reaches (target true (request kLoad 5)) (request kLoad 5) 36864 64 ∧
    (Instr.load, kLoad) ∈ [(Instr.getRequest, kGetRequest), (Instr.load, kLoad)] ∧
    lands (target true question) (Via.link 0) (request kRputMax 9) ∧
    reaches (target true question) (request kRputMax 9) 36864 64 ∧
    (Instr.rputMax, kRputMax) ∈ [(Instr.rputSum, kRputSum), (Instr.rputMax, kRputMax), (Instr.rputMin, kRputMin), (Instr.rputWsum, kRputWsum)] ∧
    lands (target true (request kRputWsum 5)) Via.self (request kRputWsum 5) ∧
    reaches (target true (request kRputWsum 5)) (request kRputWsum 5) 36864 64 ∧
    (Instr.rputWsum, kRputWsum) ∈ [(Instr.rputSum, kRputSum), (Instr.rputMax, kRputMax), (Instr.rputMin, kRputMin), (Instr.rputWsum, kRputWsum)] ∧
    lands (target true question) (Via.link 0) (request kRputSum 9) ∧
    reaches (target true question) (request kRputSum 9) 36864 64 ∧
    (Instr.rputSum, kRputSum) ∈ [(Instr.rputSum, kRputSum), (Instr.rputMax, kRputMax), (Instr.rputMin, kRputMin), (Instr.rputWsum, kRputWsum)] ∧
    lands (target true question) (Via.link 0) (request kRputMin 9) ∧
    reaches (target true question) (request kRputMin 9) 36864 64 ∧
    (Instr.rputMin, kRputMin) ∈ [(Instr.rputSum, kRputSum), (Instr.rputMax, kRputMax), (Instr.rputMin, kRputMin), (Instr.rputWsum, kRputWsum)] ∧
    lands (target true question) (Via.link 0) (request kAmo 9) ∧
    reaches (target true question) (request kAmo 9) 36864 4 ∧
    (Instr.amoRequest, kAmo) ∈ [(Instr.amoRequest, kAmo), (Instr.amofRequest, kAmof)] ∧
    lands (target true question) (Via.link 0) (request kAmof 9) ∧
    reaches (target true question) (request kAmof 9) 36864 4 ∧
    (Instr.amofRequest, kAmof) ∈ [(Instr.amoRequest, kAmo), (Instr.amofRequest, kAmof)] ∧
    lands (target true (request kSignal 5)) Via.self (request kSignal 5) ∧
    reaches (target true (request kSignal 5)) (request kSignal 5) 36864 8 ∧
    lands (target true signalEnd) Via.self signalEnd ∧
    reaches (target true signalEnd) signalEnd 36864 8 ∧
    lands (target true question) (Via.link 0) (request kSignal 9) ∧
    reaches (target true question) (request kSignal 9) 36864 8 := by
  repeat' apply And.intro
  all_goals first
    | decide +kernel
    | exact ⟨0, 0x6000, by decide +kernel⟩
    | (repeat (first | exact List.Mem.head _ | apply List.Mem.tail))

theorem test_meets_RefusalsAreAnswered :
    ((request kPutData 5).kind.toNat = kPutData ∧
     (request kPutData 5).src = ownId (shut (request kPutData 5)) ∧
     (request kPutData 5).sealSlot = none ∧
     (shut (request kPutData 5)).brn.arrivals = [] ∧
     (shut (request kPutData 5)).wins.cached.contains (txWindow (request kPutData 5)).toNat = true ∧
     windowCheck (shut (request kPutData 5)) (request kPutData 5) ≠ stOk ∧
     (request kAmo 5).kind.toNat = kAmo ∧
     (request kAmo 5).src = ownId (shut (request kAmo 5)) ∧
     (request kAmo 5).sealSlot = none ∧
     (shut (request kAmo 5)).brn.arrivals = [] ∧
     (shut (request kAmo 5)).wins.cached.contains (txWindow (request kAmo 5)).toNat = true ∧
     windowCheck (shut (request kAmo 5)) (request kAmo 5) ≠ stOk) ∧
    ((request kStore 5).kind.toNat = kStore ∧
     (request kStore 5).src = ownId (shut (request kStore 5)) ∧
     (request kStore 5).sealSlot = none ∧
     (shut (request kStore 5)).brn.arrivals = [] ∧
     (shut (request kStore 5)).wins.cached.contains (txWindow (request kStore 5)).toNat = true ∧
     windowCheck (shut (request kStore 5)) (request kStore 5) ≠ stOk) ∧
    lands (shut (request kPutData 5)) Via.self (request kPutData 5) ∧
    (Instr.putData, kPutData) ∈ [(Instr.putData, kPutData), (Instr.rputSum, kRputSum), (Instr.getRequest, kGetRequest), (Instr.amoRequest, kAmo), (Instr.load, kLoad), (Instr.store, kStore)] ∧
    lands (shut (request kAmo 5)) Via.self (request kAmo 5) ∧
    (Instr.amoRequest, kAmo) ∈ [(Instr.putData, kPutData), (Instr.rputSum, kRputSum), (Instr.getRequest, kGetRequest), (Instr.amoRequest, kAmo), (Instr.load, kLoad), (Instr.store, kStore)] ∧
    lands (shut (request kStore 5)) Via.self (request kStore 5) ∧
    (Instr.store, kStore) ∈ [(Instr.putData, kPutData), (Instr.rputSum, kRputSum), (Instr.getRequest, kGetRequest), (Instr.amoRequest, kAmo), (Instr.load, kLoad), (Instr.store, kStore)] := by
  repeat' apply And.intro
  all_goals first
    | decide +kernel
    | exact ⟨0, 0x6000, by decide +kernel⟩
    | (repeat (first | exact List.Mem.head _ | apply List.Mem.tail))

theorem test_meets_SignalsAndGroupsRunOut :
    (question.kind.toNat = kQuery ∧
     question.src = ownId (entered SigState.done) ∧
     question.sealSlot = none ∧
     ent? (entered SigState.done) question.src question.tag = some (entry4 SigState.done) ∧
     (entry4 SigState.done).state = SigState.done ∧
     question.src = ownId (target true question) ∧
     ent? (target true question) question.src question.tag = none ∧
     running (entered SigState.pending) = true ∧
     ent? (entered SigState.pending) 5 4 = some (entry4 SigState.pending) ∧
     (entry4 SigState.pending).state ≠ SigState.handed ∧
     reached (entered SigState.pending) (entry4 SigState.pending).holdEnd = true ∧
     running (entered SigState.cancelled) = true) ∧
    (ent? (entered SigState.cancelled) 5 4 = some (entry4 SigState.cancelled) ∧
     (entry4 SigState.cancelled).state ≠ SigState.handed ∧
     reached (entered SigState.cancelled) (entry4 SigState.cancelled).holdEnd = true ∧
     running stagedIn = true ∧
     arrival? stagedIn 6 = some staged3 ∧
     staged3.state = ArrState.staged ∧
     reached stagedIn staged3.waitEnd = true ∧
     running brokenIn = true ∧
     List.find? (fun g => g.window == (3 : BitVec 20) && g.offset == (0 : BitVec 48) && g.stripe == (0 : BitVec 40)) brokenIn.groups = some (group3 true) ∧
     (group3 true).broken = true ∧
     reached brokenIn (group3 true).freeAt = true ∧
     (∀ a ∈ brokenIn.brn.arrivals, a.state ≠ ArrState.group)) ∧
    hears (entered SigState.done) Via.self question ∧
    hears (target true question) Via.self question := by
  repeat' apply And.intro
  all_goals first
    | decide +kernel
    | (unfold fresh; decide +kernel)
    | (simp; done)

theorem test_meets_CoresReachTheFabric :
    (running apertured = true ∧
     apFor apertured 65600 = some (4, ap9) ∧
     destOk apertured ap9.dest = true ∧
     (ap9.dest ≠ ownId apertured → fenced apertured ap9.parish.toNat ap9.dest.toNat = false) ∧
     apertured.dap.accs.length < 4096 ∧
     apertured.dap.held = [] ∧
     freeTag apertured = some 0 ∧
     dapSizeOk 65600 64 = true ∧
     ap9.load = true ∧
     dapSizeOk 65600 (List.replicate 8 (34 : Byte)).length = true ∧
     ap9.store = true ∧
     (safeNow.flt.safe = true ∨ running safeNow = true ∧ apFor safeNow 65600 = none ∧ safeNow.dap.held = [] ∧ dapFull safeNow = false)) ∧
    ((up.flt.safe = true ∨ running up = true ∧ apFor up 65600 = none ∧ up.dap.held = [] ∧ dapFull up = false) ∧
     running tallied = true) := by
  repeat' apply And.intro
  all_goals first
    | decide +kernel
    | (unfold fresh; decide +kernel)
    | (simp; done)

theorem test_meets_CoresReachTheFabric_2 :
    (∀ (c : Cmd), c ∈ tallied.eng.cmds → c.lost = []) := by
  repeat' apply And.intro
  all_goals first
    | decide +kernel
    | (unfold fresh; decide +kernel)
    | (simp; done)

theorem test_meets_PortsAnswer :
    (portsLive ringed5 = true ∧
     read? ringed5 8 = some ringRead ∧
     ringRead.use = ReadFor.ring 5 16 4 ∧
     ringed5.flt.safe = false ∧
     ringed5.route.drains = [] ∧
     ringed5.mil.clears = [] ∧
     chan? ringed5 5 = some behind5 ∧
     behind5.cached = true ∧
     behind5.state = ChState.running ∧
     behind5.ringError = none ∧
     behind5.fetched = (16 : BitVec 32) ∧
     portsLive written0 = true) ∧
    (write? written0 8 = some background ∧
     background.use = WriteFor.background ∧
     (∀ n < 8, (stone written0 n).work = none) ∧
     portsLive committing = true ∧
     write? committing 8 = some commitReq ∧
     commitReq.use = WriteFor.commit 6 ∧
     committing.flt.safe = false ∧
     committing.route.drains = [] ∧
     committing.mil.clears = [] ∧
     arrival? committing 6 = some committed6 ∧
     committed6.cmd = none ∧
     committed6.txn.kind.toNat = kPutData) ∧
    (committed6.txn.signalled = false ∧
     committed6.txn.src = ownId committing ∧
     committed6.txn.sealSlot = none ∧
     behind5.half = false ∧
     behind5.head ≠ (16 : BitVec 32) ∧
     read? written0 8 = none) ∧
    calm ringed5 ∧
    calm written0 ∧
    calm committing := by
  repeat' apply And.intro
  all_goals first
    | decide +kernel
    | (unfold fresh; decide +kernel)
    | (simp; done)

theorem test_meets_PortsAnswer_2 :
    portsLive imageIn = true ∧
    read? imageIn 8 = some imageReq ∧
    imageReq.use = ReadFor.image ∧
    imageIn.flt.safe = false ∧
    imageIn.route.drains = [] ∧
    imageIn.mil.clears = [] ∧
    imageIn.brn.arrivals = [] ∧
    imageIn.sig.ents = [] ∧
    imageIn.dap.held = [] ∧
    imageIn.lnk.forcedWait = [] ∧
    (∀ (n : Nat), n < 8 → (stone imageIn n).work = none) := by
  repeat' apply And.intro
  all_goals first
    | decide +kernel
    | (unfold fresh; decide +kernel)
    | (simp; done)

theorem test_meets_FlitsAreSent :
    lanesRun isolated = true ∧
    hasLink isolated 0 = true ∧
    isolated.flt.safe = true ∧
    (link isolated 0).state = LinkState.up ∧
    lanesRun (linked (talking 2 259)) = true ∧
    hasLink (linked (talking 2 259)) 0 = true ∧
    (linked (talking 2 259)).flt.safe = false ∧
    (link (linked (talking 2 259)) 0).state = LinkState.up ∧
    (link (linked (talking 2 259)) 0).pause = none ∧
    (link (linked (talking 2 259)) 0).parkReq = false ∧
    (link (linked (talking 2 259)) 0).nackDue = none ∧
    tallyReady (linked (talking 2 259)) (link (linked (talking 2 259)) 0) true = false ∧
    (link (linked (talking 2 259)) 0).resend = none ∧
    (link (linked (talking 2 259)) 0).curfewq = [] ∧
    (link (linked (talking 2 259)) 0).ctrlq = [((2 : BitVec 8), 259, 0, 0)] ∧
    unacked (link (linked (talking 2 259)) 0) < replayWindow (link (linked (talking 2 259)) 0) ∧
    spillStalls (linked (talking 2 259)) 0 = false ∧
    (link (linked (talking 2 259)) 0).replay.length < 256 ∧
    (bitAt 259 8 = true ∨ (2 : BitVec 8) ≠ (2 : BitVec 8) ∧ (2 : BitVec 8) ≠ (4 : BitVec 8) ∧ (2 : BitVec 8) ≠ (6 : BitVec 8)) ∧
    lanesRun (linked (talking 3 1)) = true ∧
    hasLink (linked (talking 3 1)) 0 = true ∧
    (linked (talking 3 1)).flt.safe = false ∧
    (link (linked (talking 3 1)) 0).state = LinkState.up ∧
    (link (linked (talking 3 1)) 0).pause = none ∧
    (link (linked (talking 3 1)) 0).parkReq = false ∧
    (link (linked (talking 3 1)) 0).nackDue = none ∧
    tallyReady (linked (talking 3 1)) (link (linked (talking 3 1)) 0) true = false ∧
    (link (linked (talking 3 1)) 0).resend = none ∧
    (link (linked (talking 3 1)) 0).curfewq = [] ∧
    (link (linked (talking 3 1)) 0).ctrlq = [((3 : BitVec 8), 1, 0, 0)] ∧
    unacked (link (linked (talking 3 1)) 0) < replayWindow (link (linked (talking 3 1)) 0) ∧
    spillStalls (linked (talking 3 1)) 0 = false ∧
    (link (linked (talking 3 1)) 0).replay.length < 256 ∧
    (bitAt 1 8 = true ∨ (3 : BitVec 8) ≠ (2 : BitVec 8) ∧ (3 : BitVec 8) ≠ (4 : BitVec 8) ∧ (3 : BitVec 8) ≠ (6 : BitVec 8)) ∧
    lanesRun (linked (talking 2 1)) = true ∧
    hasLink (linked (talking 2 1)) 0 = true ∧
    (linked (talking 2 1)).flt.safe = false ∧
    (link (linked (talking 2 1)) 0).state = LinkState.up ∧
    (link (linked (talking 2 1)) 0).pause = none ∧
    (link (linked (talking 2 1)) 0).parkReq = false ∧
    (link (linked (talking 2 1)) 0).nackDue = none ∧
    tallyReady (linked (talking 2 1)) (link (linked (talking 2 1)) 0) true = false ∧
    (link (linked (talking 2 1)) 0).resend = none ∧
    (link (linked (talking 2 1)) 0).curfewq = [] ∧
    (link (linked (talking 2 1)) 0).ctrlq = [((2 : BitVec 8), 1, 0, 0)] ∧
    unacked (link (linked (talking 2 1)) 0) < replayWindow (link (linked (talking 2 1)) 0) ∧
    spillStalls (linked (talking 2 1)) 0 = false ∧
    (link (linked (talking 2 1)) 0).replay.length < 256 ∧
    bitAt 1 8 = false ∧
    lanesRun (linked (talking 4 1)) = true ∧
    hasLink (linked (talking 4 1)) 0 = true ∧
    (linked (talking 4 1)).flt.safe = false ∧
    (link (linked (talking 4 1)) 0).state = LinkState.up ∧
    (link (linked (talking 4 1)) 0).pause = none ∧
    (link (linked (talking 4 1)) 0).parkReq = false ∧
    (link (linked (talking 4 1)) 0).nackDue = none ∧
    tallyReady (linked (talking 4 1)) (link (linked (talking 4 1)) 0) true = false ∧
    (link (linked (talking 4 1)) 0).resend = none ∧
    (link (linked (talking 4 1)) 0).curfewq = [] ∧
    (link (linked (talking 4 1)) 0).ctrlq = [((4 : BitVec 8), 1, 0, 0)] ∧
    unacked (link (linked (talking 4 1)) 0) < replayWindow (link (linked (talking 4 1)) 0) ∧
    spillStalls (linked (talking 4 1)) 0 = false ∧
    (link (linked (talking 4 1)) 0).replay.length < 256 ∧
    lanesRun (linked (talking 6 0)) = true ∧
    hasLink (linked (talking 6 0)) 0 = true ∧
    (linked (talking 6 0)).flt.safe = false ∧
    (link (linked (talking 6 0)) 0).state = LinkState.up ∧
    (link (linked (talking 6 0)) 0).pause = none ∧
    (link (linked (talking 6 0)) 0).parkReq = false ∧
    (link (linked (talking 6 0)) 0).nackDue = none ∧
    tallyReady (linked (talking 6 0)) (link (linked (talking 6 0)) 0) true = false ∧
    (link (linked (talking 6 0)) 0).resend = none ∧
    (link (linked (talking 6 0)) 0).curfewq = [] ∧
    (link (linked (talking 6 0)) 0).ctrlq = [((6 : BitVec 8), 0, 0, 0)] ∧
    unacked (link (linked (talking 6 0)) 0) < replayWindow (link (linked (talking 6 0)) 0) ∧
    spillStalls (linked (talking 6 0)) 0 = false ∧
    (link (linked (talking 6 0)) 0).replay.length < 256 ∧
    bitAt 0 8 = false ∧
    lanesRun (linked up0) = true ∧
    hasLink (linked up0) 0 = true ∧
    (linked up0).flt.safe = false ∧
    (link (linked up0) 0).state = LinkState.up ∧
    (link (linked up0) 0).pause = none ∧
    (link (linked up0) 0).parkReq = false ∧
    (link (linked up0) 0).nackDue = none ∧
    tallyReady (linked up0) (link (linked up0) 0) true = false ∧
    tallyReady (linked up0) (link (linked up0) 0) false = false ∧
    (link (linked up0) 0).resend = none ∧
    newReady (linked up0) (link (linked up0) 0) = false ∧
    lanesRun (linked retraining0) = true ∧
    hasLink (linked retraining0) 0 = true ∧
    (linked retraining0).flt.safe = false ∧
    (link (linked retraining0) 0).state = LinkState.retraining ∧
    (link (linked retraining0) 0).idDue = false ∧
    lanesRun (linked aligning0) = true ∧
    hasLink (linked aligning0) 0 = true ∧
    (linked aligning0).flt.safe = false ∧
    (link (linked aligning0) 0).state = LinkState.retraining ∧
    (link (linked aligning0) 0).idDue = false ∧
    lanesRun (linked due0) = true ∧
    hasLink (linked due0) 0 = true ∧
    (linked due0).flt.safe = false ∧
    (link (linked due0) 0).state = LinkState.retraining ∧
    (link (linked due0) 0).idDue = true ∧
    (link (linked (talking 2 259)) 0).parkAgree = false ∧
    timeDue (linked (talking 2 259)) (link (linked (talking 2 259)) 0) = false ∧
    (link (linked (talking 3 1)) 0).parkAgree = false ∧
    timeDue (linked (talking 3 1)) (link (linked (talking 3 1)) 0) = false ∧
    (link (linked (talking 2 1)) 0).parkAgree = false ∧
    timeDue (linked (talking 2 1)) (link (linked (talking 2 1)) 0) = false ∧
    (link (linked (talking 4 1)) 0).parkAgree = false ∧
    timeDue (linked (talking 4 1)) (link (linked (talking 4 1)) 0) = false ∧
    (link (linked (talking 6 0)) 0).parkAgree = false ∧
    timeDue (linked (talking 6 0)) (link (linked (talking 6 0)) 0) = false ∧
    (link (linked up0) 0).parkAgree = false ∧
    timeDue (linked up0) (link (linked up0) 0) = false ∧
    lanesRun (linked stopped0) = true ∧
    hasLink (linked stopped0) 0 = true ∧
    (linked stopped0).flt.safe = false ∧
    (link (linked stopped0) 0).state = LinkState.retraining ∧
    (link (linked stopped0) 0).phase = TrainPhase.stopped ∧
    (link (linked retraining0) 0).phase ≠ TrainPhase.stopped ∧
    (link (linked due0) 0).phase ≠ TrainPhase.stopped ∧
    lanesRun calState = true ∧
    hasLink calState 0 = true ∧
    calState.flt.safe = false ∧
    (link calState 0).state = LinkState.calibrating ∧
    calState.gbl.calibrated.getLsbD (0 / 3) = true := by
  repeat' apply And.intro
  all_goals first
    | decide +kernel
    | (unfold fresh; decide +kernel)
    | (simp; done)

theorem test_meets_ReplayRewinds :
    (linkHears (linked unacked0) 0 = true ∧
     (linked unacked0).gbl.fabricValid = true ∧
     ((1 : BitVec 16) - (1 : BitVec 16) - (link (linked unacked0) 0).acked).toNat ≤ unacked (link (linked unacked0) 0) ∧
     running (linked unacked0) = true ∧
     (link (linked unacked0) 0).nackHold = some ((0 : BitVec 16), (16 : Time)) ∧
     reached (linked unacked0) (later (16 : Time) usUnits) = true ∧
     (link (linked unacked0) 0).state = LinkState.up ∧
     (link (linked unacked0) 0).pause = none ∧
     0 < unacked (link (linked unacked0) 0) ∧
     (link (linked unacked0) 0).timer = some (16 : Time) ∧
     reached (linked unacked0) (later (16 : Time) (4 * usUnits)) = true) :=
  by decide +kernel

theorem test_meets_LinksTrain :
    linkHears (linked up0) 0 = true ∧
    (link (linked up0) 0).pause = none ∧
    (link (linked (pause0 Pause.width)) 0).pause = some (Pause.width, 16) ∧
    reached (linked (pause0 Pause.width)) (later 16 (pauseLimit Pause.width)) = true ∧
    (link (linked waking0) 0).lpiWake = some 16 ∧
    reached (linked waking0) (later 16 usUnits) = true ∧
    2 ≤ 2 ∧
    0 ≤ 2 ∧
    1 ≤ 2 ∧
    running (linked (align0 LinkState.training)) = true ∧
    hasLink (linked (align0 LinkState.training)) 0 = true ∧
    (link (linked (align0 LinkState.training)) 0).miswiredAt = none ∧
    (link (linked (align0 LinkState.training)) 0).phase = TrainPhase.align ∧
    3 &&& trainLanes (linked (align0 LinkState.training)) 0 ≠ 0 ∧
    (linked (align0 LinkState.training)).lnk.forcedWait = [] ∧
    2 < 3 ∧
    (link (linked (align0 LinkState.training)) 0).state = LinkState.training ∧
    running (linked (align0 LinkState.retraining)) = true ∧
    hasLink (linked (align0 LinkState.retraining)) 0 = true ∧
    (link (linked (align0 LinkState.retraining)) 0).miswiredAt = none ∧
    (link (linked (align0 LinkState.retraining)) 0).phase = TrainPhase.align ∧
    1 &&& trainLanes (linked (align0 LinkState.retraining)) 0 ≠ 0 ∧
    (linked (align0 LinkState.retraining)).lnk.forcedWait = [] ∧
    (link (linked (align0 LinkState.retraining)) 0).state = LinkState.retraining ∧
    running (linked unconfirmed0) = true ∧
    hasLink (linked unconfirmed0) 0 = true ∧
    (link (linked unconfirmed0) 0).miswiredAt = none ∧
    (link (linked unconfirmed0) 0).phase = TrainPhase.align ∧
    3 &&& trainLanes (linked unconfirmed0) 0 ≠ 0 ∧
    (linked unconfirmed0).lnk.forcedWait = [] ∧
    ((link (linked unconfirmed0) 0).state = LinkState.training ∨ (link (linked unconfirmed0) 0).state = LinkState.retraining ∨ inPause (link (linked unconfirmed0) 0) Pause.calibration = true) ∧
    (link (linked unconfirmed0) 0).confirmed = false ∧
    running (linked (paused0 false)) = true ∧
    hasLink (linked (paused0 false)) 0 = true ∧
    (link (linked (paused0 false)) 0).miswiredAt = none ∧
    (link (linked (paused0 false)) 0).phase = TrainPhase.align ∧
    1 &&& trainLanes (linked (paused0 false)) 0 ≠ 0 ∧
    (linked (paused0 false)).lnk.forcedWait = [] ∧
    ((link (linked (paused0 false)) 0).state = LinkState.training ∨ (link (linked (paused0 false)) 0).state = LinkState.retraining ∨ inPause (link (linked (paused0 false)) 0) Pause.calibration = true) ∧
    (link (linked (paused0 false)) 0).confirmed = false ∧
    inPause (link (linked (align0 LinkState.retraining)) 0) Pause.calibration = false ∧
    (link (linked (align0 LinkState.retraining)) 0).confirmed = true ∧
    (link (linked (align0 LinkState.retraining)) 0).joined = true ∧
    running (linked (paused0 true)) = true ∧
    hasLink (linked (paused0 true)) 0 = true ∧
    (link (linked (paused0 true)) 0).miswiredAt = none ∧
    (link (linked (paused0 true)) 0).phase = TrainPhase.align ∧
    3 &&& trainLanes (linked (paused0 true)) 0 ≠ 0 ∧
    (linked (paused0 true)).lnk.forcedWait = [] ∧
    (link (linked (paused0 true)) 0).state = LinkState.up ∧
    inPause (link (linked (paused0 true)) 0) Pause.calibration = true ∧
    (link (linked (paused0 true)) 0).confirmed = true ∧
    inPause (link (linked (align0 LinkState.training)) 0) Pause.calibration = false ∧
    (link (linked (align0 LinkState.training)) 0).confirmed = true ∧
    (link (linked (align0 LinkState.training)) 0).joined = false ∧
    (linked (align0 LinkState.training)).gbl.fabricValid = true := by
  repeat' apply And.intro
  all_goals first
    | decide +kernel
    | (unfold fresh; decide +kernel)
    | (simp; done)

theorem test_meets_LinksJoinOrAreMiswired :
    (linkNames (linked unjoined0) 0 = true ∧
     (linked unjoined0).gbl.fabricValid = true ∧
     (link (linked unjoined0) 0).joined = false ∧
     bits 0x2004000 0 7 = 0 ∧
     mismatched (linked unjoined0) { unjoined0 with partnerId := some 0x2004000 } = false ∧
     bitAt 0x2004000 14 = true ∧
     bitAt 0x2004000 (25 + (croft (linked unjoined0) (0 / 3)).rate.toNat) = true ∧
     ((link (linked unjoined0) 0).state = LinkState.up ∨ (link (linked unjoined0) 0).state = LinkState.training ∧ (link (linked unjoined0) 0).phase = TrainPhase.confirm) ∧
     linkNames (linked confirm0) 0 = true ∧
     (linked confirm0).gbl.fabricValid = true ∧
     (link (linked confirm0) 0).joined = false ∧
     mismatched (linked confirm0) { confirm0 with partnerId := some 0x2004000 } = false) ∧
    (bitAt 0x2004000 (25 + (croft (linked confirm0) (0 / 3)).rate.toNat) = true ∧
     ((link (linked confirm0) 0).state = LinkState.up ∨ (link (linked confirm0) 0).state = LinkState.training ∧ (link (linked confirm0) 0).phase = TrainPhase.confirm) ∧
     linkNames (linked equal0) 0 = true ∧
     (linked equal0).gbl.fabricValid = true ∧
     (link (linked equal0) 0).joined = false ∧
     mismatched (linked equal0) { equal0 with partnerId := some 0x2004000 } = false ∧
     bitAt 0x2004000 (25 + (croft (linked equal0) (0 / 3)).rate.toNat) = true ∧
     ((link (linked equal0) 0).state = LinkState.training ∨ (link (linked equal0) 0).state = LinkState.retraining) ∧
     (link (linked equal0) 0).phase ≠ TrainPhase.confirm ∧
     bits 5 0 7 ≠ 0 ∧
     (link (linked miswired0) 0).miswiredAt = some (16 : Time) ∧
     running (linked miswired0) = true) ∧
    reached (linked miswired0) (later (16 : Time) (100 * msUnits)) = true :=
  ⟨by decide +kernel,
    by decide +kernel,
    by decide +kernel⟩

theorem test_meets_LinksJoinOrAreMiswired_2 :
    mismatched (linked unjoined0)     (have __src := link (linked unjoined0) 0;     { downTime := __src.downTime, granaryFlits := __src.granaryFlits, csymShift := __src.csymShift, autoNarrow := __src.autoNarrow, width := __src.width, en := __src.en, granaryBase := __src.granaryBase, csym0 := __src.csym0, csym1 := __src.csym1, retimer0 := __src.retimer0, retimer1 := __src.retimer1, state := __src.state, lock0 := __src.lock0, lock1 := __src.lock1, badLane0 := __src.badLane0, badLane1 := __src.badLane1, lanes := __src.lanes, standby := __src.standby, expected := __src.expected, nextSeq := __src.nextSeq, acked := __src.acked, replay := __src.replay, resend := __src.resend, spillNext := __src.spillNext, spillOldest := __src.spillOldest, spilled := __src.spilled, timer := __src.timer, nackHold := __src.nackHold, nackDue := __src.nackDue, txq := __src.txq, ctrlq := __src.ctrlq, curfewq := __src.curfewq, tallyq := __src.tallyq, refreshq := __src.refreshq, tallyDue := __src.tallyDue, timeAt := __src.timeAt, rxLeft := __src.rxLeft, rxOver := __src.rxOver, overs := __src.overs, duplicates := __src.duplicates, aborts := __src.aborts, discarded := __src.discarded, joined := __src.joined, noLock := __src.noLock, retrainAt := __src.retrainAt, ackAt := __src.ackAt, quietAt := __src.quietAt, lpiWake := __src.lpiWake, pause := __src.pause, widthReq := __src.widthReq, widthTo := __src.widthTo, narrow := __src.narrow, speedReq := __src.speedReq, speedAck := __src.speedAck, parkReq := __src.parkReq, parkSent := __src.parkSent, parkAgree := __src.parkAgree, granaryIn := __src.granaryIn, partnerId := some 33570816, miswiredAt := __src.miswiredAt, lastFlit := __src.lastFlit, phase := __src.phase, idDue := __src.idDue, confirmed := __src.confirmed, switched := __src.switched, widthAsked := __src.widthAsked, stay := __src.stay, lost := __src.lost, scram0 := __src.scram0, scram1 := __src.scram1, wire := __src.wire }) =   false ∧
    inPause (link (linked unjoined0) 0) Pause.calibration = false ∧
    (linked unjoined0).lnk.forcedWait = [] ∧
    mismatched (linked confirm0)     (have __src := link (linked confirm0) 0;     { downTime := __src.downTime, granaryFlits := __src.granaryFlits, csymShift := __src.csymShift, autoNarrow := __src.autoNarrow, width := __src.width, en := __src.en, granaryBase := __src.granaryBase, csym0 := __src.csym0, csym1 := __src.csym1, retimer0 := __src.retimer0, retimer1 := __src.retimer1, state := __src.state, lock0 := __src.lock0, lock1 := __src.lock1, badLane0 := __src.badLane0, badLane1 := __src.badLane1, lanes := __src.lanes, standby := __src.standby, expected := __src.expected, nextSeq := __src.nextSeq, acked := __src.acked, replay := __src.replay, resend := __src.resend, spillNext := __src.spillNext, spillOldest := __src.spillOldest, spilled := __src.spilled, timer := __src.timer, nackHold := __src.nackHold, nackDue := __src.nackDue, txq := __src.txq, ctrlq := __src.ctrlq, curfewq := __src.curfewq, tallyq := __src.tallyq, refreshq := __src.refreshq, tallyDue := __src.tallyDue, timeAt := __src.timeAt, rxLeft := __src.rxLeft, rxOver := __src.rxOver, overs := __src.overs, duplicates := __src.duplicates, aborts := __src.aborts, discarded := __src.discarded, joined := __src.joined, noLock := __src.noLock, retrainAt := __src.retrainAt, ackAt := __src.ackAt, quietAt := __src.quietAt, lpiWake := __src.lpiWake, pause := __src.pause, widthReq := __src.widthReq, widthTo := __src.widthTo, narrow := __src.narrow, speedReq := __src.speedReq, speedAck := __src.speedAck, parkReq := __src.parkReq, parkSent := __src.parkSent, parkAgree := __src.parkAgree, granaryIn := __src.granaryIn, partnerId := some 33570816, miswiredAt := __src.miswiredAt, lastFlit := __src.lastFlit, phase := __src.phase, idDue := __src.idDue, confirmed := __src.confirmed, switched := __src.switched, widthAsked := __src.widthAsked, stay := __src.stay, lost := __src.lost, scram0 := __src.scram0, scram1 := __src.scram1, wire := __src.wire }) =   false ∧
    inPause (link (linked confirm0) 0) Pause.calibration = false ∧
    (linked confirm0).lnk.forcedWait = [] ∧
    mismatched (linked equal0)     (have __src := link (linked equal0) 0;     { downTime := __src.downTime, granaryFlits := __src.granaryFlits, csymShift := __src.csymShift, autoNarrow := __src.autoNarrow, width := __src.width, en := __src.en, granaryBase := __src.granaryBase, csym0 := __src.csym0, csym1 := __src.csym1, retimer0 := __src.retimer0, retimer1 := __src.retimer1, state := __src.state, lock0 := __src.lock0, lock1 := __src.lock1, badLane0 := __src.badLane0, badLane1 := __src.badLane1, lanes := __src.lanes, standby := __src.standby, expected := __src.expected, nextSeq := __src.nextSeq, acked := __src.acked, replay := __src.replay, resend := __src.resend, spillNext := __src.spillNext, spillOldest := __src.spillOldest, spilled := __src.spilled, timer := __src.timer, nackHold := __src.nackHold, nackDue := __src.nackDue, txq := __src.txq, ctrlq := __src.ctrlq, curfewq := __src.curfewq, tallyq := __src.tallyq, refreshq := __src.refreshq, tallyDue := __src.tallyDue, timeAt := __src.timeAt, rxLeft := __src.rxLeft, rxOver := __src.rxOver, overs := __src.overs, duplicates := __src.duplicates, aborts := __src.aborts, discarded := __src.discarded, joined := __src.joined, noLock := __src.noLock, retrainAt := __src.retrainAt, ackAt := __src.ackAt, quietAt := __src.quietAt, lpiWake := __src.lpiWake, pause := __src.pause, widthReq := __src.widthReq, widthTo := __src.widthTo, narrow := __src.narrow, speedReq := __src.speedReq, speedAck := __src.speedAck, parkReq := __src.parkReq, parkSent := __src.parkSent, parkAgree := __src.parkAgree, granaryIn := __src.granaryIn, partnerId := some 33570816, miswiredAt := __src.miswiredAt, lastFlit := __src.lastFlit, phase := __src.phase, idDue := __src.idDue, confirmed := __src.confirmed, switched := __src.switched, widthAsked := __src.widthAsked, stay := __src.stay, lost := __src.lost, scram0 := __src.scram0, scram1 := __src.scram1, wire := __src.wire }) =   false ∧
    inPause (link (linked equal0) 0) Pause.calibration = false ∧
    (linked equal0).lnk.forcedWait = [] := by
  repeat' apply And.intro
  all_goals first
    | decide +kernel
    | (unfold fresh; decide +kernel)
    | (simp; done)

theorem test_meets_FlitsAreReceived :
    (linkHears (linked up0) 0 = true ∧
     (link (linked up0) 0).state = LinkState.up ∧
     (link (linked up0) 0).pause = none ∧
     noise.length = 256 ∧
     (link (linked up0) 0).nackHold = none ∧
     badCrc.length = 256 ∧
     crcOk badCrc = false ∧
     raw0.length = 256 ∧
     crcOk raw0 = true ∧
     headerBad (headerOf raw0) = false ∧
     BitVec.extractLsb' 16 16 (headerOf raw0) = (link (linked up0) 0).acked ∧
     ftSequenced (bits (headerOf raw0) 32 4) = true) ∧
    (bits (headerOf raw0) 32 4 ≠ ftData ∧
     bits (headerOf raw0) 0 16 = (link (linked up0) 0).expected.toNat ∧
     (bits (headerOf raw0) 32 4 = ftCtrl → 1 ≤ BitVec.toNat ((slotOf raw0 0).getD 0 (0 : Byte)) ∧ BitVec.toNat ((slotOf raw0 0).getD 0 (0 : Byte)) ≤ 8) ∧
     linkHears (linked past0) 0 = true ∧
     (link (linked past0) 0).state = LinkState.up ∧
     (link (linked past0) 0).pause = none ∧
     (link (linked past0) 0).nackHold = none ∧
     BitVec.extractLsb' 16 16 (headerOf raw0) = (link (linked past0) 0).acked ∧
     32769 ≤ (BitVec.extractLsb' 0 16 (headerOf raw0) - (link (linked past0) 0).expected).toNat ∧
     linkHears (linked gap0) 0 = true ∧
     (link (linked gap0) 0).state = LinkState.up ∧
     (link (linked gap0) 0).pause = none) ∧
    ((link (linked gap0) 0).nackHold = none ∧
     BitVec.extractLsb' 16 16 (headerOf raw0) = (link (linked gap0) 0).acked ∧
     1 ≤ (BitVec.extractLsb' 0 16 (headerOf raw0) - (link (linked gap0) 0).expected).toNat ∧
     (BitVec.extractLsb' 0 16 (headerOf raw0) - (link (linked gap0) 0).expected).toNat ≤ 32767) ∧
    rsDecode noise = none ∧
    rsDecode badCrc = some (badCrc, []) ∧
    rsDecode raw0 = some (raw0, []) := by
  refine ⟨?_, ?_, ?_, ?_, Laws.rsDecode_codeword (by decide +kernel), Laws.rsDecode_codeword (by decide +kernel)⟩
  all_goals first
    | decide +kernel

theorem test_meets_FlitsAreReceived_2 :
    (linked up0).lnk.forcedWait = [] ∧
    linkHears unfabric 0 = true ∧
    (link unfabric 0).state = LinkState.up ∧
    (link unfabric 0).pause = none ∧
    tally0.length = 256 ∧
    (link unfabric 0).nackHold = none ∧
    unfabric.lnk.forcedWait = [] ∧
    rsDecode tally0 = some (tally0, []) ∧
    crcOk tally0 = true ∧
    headerBad (headerOf tally0) = false ∧
    unfabric.gbl.fabricValid = false ∧
    (bits (headerOf tally0) 32 4 = ftData ∨ bits (headerOf tally0) 32 4 = ftCurfew ∨ bits (headerOf tally0) 32 4 = ftNack ∨ bits (headerOf tally0) 32 4 = ftTally) ∧
    ((linked up0).gbl.fabricValid = true ∨ bits (headerOf raw0) 32 4 = ftCtrl) ∧
    (linked past0).lnk.forcedWait = [] ∧
    ((linked past0).gbl.fabricValid = true ∨ bits (headerOf raw0) 32 4 = ftCtrl) ∧
    (linked gap0).lnk.forcedWait = [] ∧
    ((linked gap0).gbl.fabricValid = true ∨ bits (headerOf raw0) 32 4 = ftCtrl) := by
  repeat' apply And.intro
  all_goals first
    | decide +kernel
    | (unfold fresh; decide +kernel)
    | (simp; done)

theorem test_meets_LinksChangeWidthAndSpeed :
    (linkHears (linked up0) 0 = true ∧
     (link (linked up0) 0).pause = none ∧
     (1 : BitVec 2) ≠ (0 : BitVec 2) ∧
     (1 : BitVec 2) &&& ~~~allowedLanes (link (linked up0) 0) = (0 : BitVec 2) ∧
     ((0 : BitVec 2) = (0 : BitVec 2) ∨ (0 : BitVec 2) &&& ~~~allowedLanes (link (linked up0) 0) ≠ (0 : BitVec 2)) ∧
     linkHears (linked badLane0) 0 = true ∧
     (link (linked badLane0) 0).pause = none ∧
     ((1 : BitVec 2) = (0 : BitVec 2) ∨ (1 : BitVec 2) &&& ~~~allowedLanes (link (linked badLane0) 0) ≠ (0 : BitVec 2)) ∧
     linkHears (linked widening0) 0 = true ∧
     (link (linked widening0) 0).pause = none ∧
     (link (linked widening0) 0).widthReq.isSome = true ∧
     (link (linked widening0) 0).widthTo = none) ∧
    (running (linked (pause0 Pause.width)) = true ∧
     inPause (link (linked (pause0 Pause.width)) 0) Pause.width = true ∧
     (link (linked (pause0 Pause.width)) 0).widthTo = some 1 ∧
     (link (linked (pause0 Pause.width)) 0).state = LinkState.up ∧
     ((link (linked (pause0 Pause.width)) 0).widthReq = none ∨ (link (linked (pause0 Pause.width)) 0).widthReq = some 1) ∧
     (linked (pause0 Pause.width)).lnk.forcedWait = [] ∧
     (1 : BitVec 2) ≠ (3 : BitVec 2) ∧
     maxRate (linked up0) ≤ 1 ∧
     ((croft (linked up0) (0 / 3)).rateTo = none ∨ (croft (linked up0) (0 / 3)).rateTo = some 1) ∧
     ((3 : BitVec 2) = (3 : BitVec 2) ∨ 3 < maxRate (linked up0) ∨ ∃ r, (croft (linked up0) (0 / 3)).rateTo = some r ∧ r ≠ (3 : BitVec 2)) ∧
     linkHears (speeding spedDown) 0 = true ∧
     (link (speeding spedDown) 0).pause = none) ∧
    ((croft (speeding spedDown) (0 / 3)).rateTo = some 1 ∧
     (link (speeding spedDown) 0).speedReq = true ∧
     running spedAll = true ∧
     hasCroft spedAll 0 = true ∧
     (croft spedAll 0).rateTo = some 1 ∧
     (∀ p ∈ linksOf 0, (link spedAll p).joined = false ∨ (link spedAll p).speedAck = true) ∧
     spedAll.lnk.forcedWait = [] ∧
     linkNames (linked resumed0) 0 = true ∧
     (link (linked resumed0) 0).state = LinkState.up ∧
     (link (linked resumed0) 0).joined = true ∧
     inPause (link (linked resumed0) 0) Pause.speed = true ∧
     (link (linked resumed0) 0).phase = TrainPhase.confirm) ∧
    ((∀ p ∈ linksOf (0 / 3), p ≠ 0 → inPause (link (linked resumed0) p) Pause.speed = true → confirming (link (linked resumed0) p) = true ∧ (link (linked resumed0) p).confirmed = true) ∧
     bits 0x2004000 0 7 = 0 ∧
     mismatched (linked resumed0) { resumed0 with partnerId := some 0x2004000 } = false ∧
     bitAt 0x2004000 14 = true ∧
     bitAt 0x2004000 (25 + (croft (linked resumed0) (0 / 3)).rate.toNat) = true) :=
  ⟨by decide +kernel,
    by decide +kernel,
    by decide +kernel,
    by decide +kernel⟩

theorem test_meets_LinksChangeWidthAndSpeed_2 :
    (linked up0).lnk.forcedWait = [] ∧
    1 &&& ~~~laneLimit (linked up0) 0 = 0 ∧
    ((0 : BitVec 2) = (0 : BitVec 2) ∨ (0 : BitVec 2) &&& ~~~laneLimit (linked up0) 0 ≠ (0 : BitVec 2)) ∧
    (linked badLane0).lnk.forcedWait = [] ∧
    ((1 : BitVec 2) = (0 : BitVec 2) ∨ (1 : BitVec 2) &&& ~~~laneLimit (linked badLane0) 0 ≠ (0 : BitVec 2)) ∧
    (linked widening0).lnk.forcedWait = [] ∧
    changing0.lnk.forcedWait = [] ∧
    linkHears changing0 0 = true ∧
    (link changing0 0).pause = none ∧
    ((2 : BitVec 2) = (3 : BitVec 2) ∨ 2 < maxRate changing0 ∨ ∃ r, (croft changing0 (0 / 3 : Nat)).rateTo = some r ∧ r ≠ (2 : BitVec 2)) ∧
    (speeding spedDown).lnk.forcedWait = [] ∧
    spedIn.lnk.forcedWait = [] ∧
    running spedIn = true ∧
    hasCroft spedIn 0 = true ∧
    (croft spedIn 0).rateTo = some 1 ∧
    (∀ (p : Nat), p ∈ linksOf 0 → (link spedIn p).joined = false ∨ (link spedIn p).speedAck = true) ∧
    (∃ p, p ∈ linksOf 0 ∧ inPause (link spedIn p) Pause.speed = true ∧ (link spedIn p).confirmed = false) ∧
    (linked resumed0).lnk.forcedWait = [] ∧
    mismatched (linked resumed0)     (have __src := link (linked resumed0) 0;     { downTime := __src.downTime, granaryFlits := __src.granaryFlits, csymShift := __src.csymShift, autoNarrow := __src.autoNarrow, width := __src.width, en := __src.en, granaryBase := __src.granaryBase, csym0 := __src.csym0, csym1 := __src.csym1, retimer0 := __src.retimer0, retimer1 := __src.retimer1, state := __src.state, lock0 := __src.lock0, lock1 := __src.lock1, badLane0 := __src.badLane0, badLane1 := __src.badLane1, lanes := __src.lanes, standby := __src.standby, expected := __src.expected, nextSeq := __src.nextSeq, acked := __src.acked, replay := __src.replay, resend := __src.resend, spillNext := __src.spillNext, spillOldest := __src.spillOldest, spilled := __src.spilled, timer := __src.timer, nackHold := __src.nackHold, nackDue := __src.nackDue, txq := __src.txq, ctrlq := __src.ctrlq, curfewq := __src.curfewq, tallyq := __src.tallyq, refreshq := __src.refreshq, tallyDue := __src.tallyDue, timeAt := __src.timeAt, rxLeft := __src.rxLeft, rxOver := __src.rxOver, overs := __src.overs, duplicates := __src.duplicates, aborts := __src.aborts, discarded := __src.discarded, joined := __src.joined, noLock := __src.noLock, retrainAt := __src.retrainAt, ackAt := __src.ackAt, quietAt := __src.quietAt, lpiWake := __src.lpiWake, pause := __src.pause, widthReq := __src.widthReq, widthTo := __src.widthTo, narrow := __src.narrow, speedReq := __src.speedReq, speedAck := __src.speedAck, parkReq := __src.parkReq, parkSent := __src.parkSent, parkAgree := __src.parkAgree, granaryIn := __src.granaryIn, partnerId := some 33570816, miswiredAt := __src.miswiredAt, lastFlit := __src.lastFlit, phase := __src.phase, idDue := __src.idDue, confirmed := __src.confirmed, switched := __src.switched, widthAsked := __src.widthAsked, stay := __src.stay, lost := __src.lost, scram0 := __src.scram0, scram1 := __src.scram1, wire := __src.wire }) =   false := by
  repeat' apply And.intro
  all_goals first
    | decide +kernel
    | (unfold fresh; decide +kernel)
    | (simp; done)

theorem test_meets_LinksParkAndIdle :
    (linkHears (linked up0) 0 = true ∧
     (link (linked up0) 0).pause = none ∧
     linkHears (linked parking0) 0 = true ∧
     (link (linked parking0) 0).parkSent = true ∧
     running idle0 = true ∧
     idle0.pwr.state = PwrState.idle ∧
     (link idle0 0).state = LinkState.up ∧
     (link idle0 0).pause = none ∧
     (link idle0 0).quietAt = some (16 : Time) ∧
     reached idle0 (later (16 : Time) (2 * usUnits)) = true ∧
     unacked (link idle0 0) = 0 ∧
     (link idle0 0).txq = []) ∧
    ((link idle0 0).ctrlq = [] ∧
     (link idle0 0).curfewq = [] ∧
     (link idle0 0).nackDue = none) := by
  repeat' apply And.intro
  all_goals first
    | decide +kernel
    | (unfold fresh; decide +kernel)
    | (simp; done)

theorem test_meets_LinksParkAndIdle_2 :
    lanesRun (linked agreed0) = true ∧
    hasLink (linked agreed0) 0 = true ∧
    (linked agreed0).flt.safe = false ∧
    (link (linked agreed0) 0).state = LinkState.up ∧
    (link (linked agreed0) 0).pause = none ∧
    (link (linked agreed0) 0).parkReq = false ∧
    (link (linked agreed0) 0).parkAgree = true ∧
    (link (linked agreed0) 0).txq = [] ∧
    unacked (link (linked agreed0) 0) = 0 ∧
    planeBusy (linked agreed0) 0 = false ∧
    timeDue (linked agreed0) (link (linked agreed0) 0) = false ∧
    (link (linked agreed0) 0).nackDue = none ∧
    tallyReady (linked agreed0) (link (linked agreed0) 0) true = false ∧
    (link (linked agreed0) 0).resend = none ∧
    (link (linked agreed0) 0).curfewq = [] ∧
    (link (linked agreed0) 0).ctrlq = [] ∧
    spillStalls (linked agreed0) 0 = false ∧
    (link (linked agreed0) 0).replay = [] := by
  repeat' apply And.intro
  all_goals first
    | decide +kernel
    | (unfold fresh; decide +kernel)
    | (simp; done)

theorem test_meets_PlanesAreLost :
    (linkHears routed 0 = true ∧
     hasLink routed 1 = true ∧
     running (linked oneLane) = true ∧
     hasLink (linked oneLane) 0 = true ∧
     (link (linked oneLane) 0).state = LinkState.up ∧
     (link (linked oneLane) 0).pause = none ∧
     (if false = true then (link (linked oneLane) 0).lock1 else (link (linked oneLane) 0).lock0) = true ∧
     (if false = true then (link (linked oneLane) 0).lanes.getLsbD 0 && (link (linked oneLane) 0).lock0 else (link (linked oneLane) 0).lanes.getLsbD 1 && (link (linked oneLane) 0).lock1) = false ∧
     running (linked laneOne) = true ∧
     hasLink (linked laneOne) 0 = true ∧
     (link (linked laneOne) 0).state = LinkState.up ∧
     (link (linked laneOne) 0).pause = none) ∧
    ((if true = true then (link (linked laneOne) 0).lock1 else (link (linked laneOne) 0).lock0) = true ∧
     (if true = true then (link (linked laneOne) 0).lanes.getLsbD 0 && (link (linked laneOne) 0).lock0 else (link (linked laneOne) 0).lanes.getLsbD 1 && (link (linked laneOne) 0).lock1) = false ∧
     running (linked down0) = true ∧
     hasLink (linked down0) 0 = true ∧
     downDue (linked down0) (link (linked down0) 0) = true ∧
     (link (linked down0) 0).en = true ∧
     (linked down0).tx.units = [] ∧
     running routed = true ∧
     hasCroft routed 0 = true ∧
     (croft routed 0).pllLock = true) := by
  repeat' apply And.intro
  all_goals first
    | decide +kernel
    | (unfold fresh; decide +kernel)
    | (simp; done)

theorem test_meets_PlanesAreLost_2 :
    (linked down0).lnk.forcedWait = [] := by
  repeat' apply And.intro
  all_goals first
    | decide +kernel
    | (unfold fresh; decide +kernel)
    | (simp; done)

theorem test_meets_GrantsAreAcceptedAhead :
    ((1 ≤ (teVal (entry 100 1 5) - (srcTally tallied (teFrom (entry 100 1 5))).seen).toNat ∧ (teVal (entry 100 1 5) - (srcTally tallied (teFrom (entry 100 1 5))).seen).toNat ≤ 2 ^ 31 - 1) ∧
     (¬(1 ≤ (teVal (entry 64 1 5) - (srcTally tallied (teFrom (entry 64 1 5))).seen).toNat ∧ (teVal (entry 64 1 5) - (srcTally tallied (teFrom (entry 64 1 5))).seen).toNat ≤ 2 ^ 31 - 1)) ∧
     (grantTxn 65).gv = true ∧
     (grantTxn 65).rv = false ∧
     (1 ≤ ((grantTxn 65).grant - (srcTally tallied (grantTxn 65).src.toNat).seen).toNat ∧ ((grantTxn 65).grant - (srcTally tallied (grantTxn 65).src.toNat).seen).toNat ≤ 2 ^ 31 - 1) ∧
     (grantTxn 63).gv = true ∧
     (grantTxn 63).rv = false ∧
     (¬(1 ≤ ((grantTxn 63).grant - (srcTally tallied (grantTxn 63).src.toNat).seen).toNat ∧ ((grantTxn 63).grant - (srcTally tallied (grantTxn 63).src.toNat).seen).toNat ≤ 2 ^ 31 - 1)) ∧
     linkHears tallied 0 = true ∧
     tallied.gbl.fabricValid = true ∧
     entry 4 2 8 ≠ 0 ∧
     (5 ≤ teKind (entry 4 2 8) ∨ teTo (entry 4 2 8) ≠ (ownId tallied).toNat)) ∧
    ((Instr.release 0 (entry 4 2 8) = Instr.grant 0 (entry 4 2 8) ∨ Instr.release 0 (entry 4 2 8) = Instr.release 0 (entry 4 2 8) ∨ Instr.release 0 (entry 4 2 8) = Instr.reconcile 0 (entry 4 2 8) ∨ Instr.release 0 (entry 4 2 8) = Instr.reconAck 0 (entry 4 2 8)) ∧
     entry 4 5 5 ≠ 0 ∧
     (5 ≤ teKind (entry 4 5 5) ∨ teTo (entry 4 5 5) ≠ (ownId tallied).toNat) ∧
     (Instr.grant 0 (entry 4 5 5) = Instr.grant 0 (entry 4 5 5) ∨ Instr.grant 0 (entry 4 5 5) = Instr.release 0 (entry 4 5 5) ∨ Instr.grant 0 (entry 4 5 5) = Instr.reconcile 0 (entry 4 5 5) ∨ Instr.grant 0 (entry 4 5 5) = Instr.reconAck 0 (entry 4 5 5))) ∧
    hearsEntry tallied 0 (entry 100 1 5) 1 ∧
    hearsEntry tallied 0 (entry 64 1 5) 1 ∧
    hearsEntry (entered SigState.done) 0 (entry 4 2 5) 2 := by
  repeat' apply And.intro
  all_goals first
    | decide +kernel
    | (unfold fresh; decide +kernel)
    | (simp; done)

theorem test_meets_PairsReconcile :
    (teVal (entry 64 3 5) - (tgtTally tallied (teFrom (entry 64 3 5))).freed).toNat < 2 ^ 31 ∧
    2 ^ 31 ≤ (teVal (entry 150 3 5) - (tgtTally unsent9 (teFrom (entry 150 3 5))).freed).toNat ∧
    (srcTally (pair9 asked9s) (teFrom (entry 64 4 5))).hold = true ∧
    (srcTally (pair9 asked9s) (teFrom (entry 64 4 5))).recon = some (16 : Time) ∧
    running (pair9 settling9) = true ∧
    (srcTally (pair9 settling9) 9).settle = some (16 : Time) ∧
    reached (pair9 settling9) (16 : Time) = true ∧
    lost9 = srcTally (pair9 lost9) 9 ∧
    running (pair9 lost9) = true ∧
    lost9.hold = true ∧
    lost9.recon = none ∧
    (∀ u ∈ (pair9 lost9).tx.units ++ (pair9 lost9).tx.ghosts, u.charged = true → ¬(9 : BitVec 9) ∈ u.owed) ∧
    lost9.lossInHold = true ∧
    held9 = srcTally (pair9 held9) 9 ∧
    running (pair9 held9) = true ∧
    held9.hold = true ∧
    held9.recon = none ∧
    (∀ u ∈ (pair9 held9).tx.units ++ (pair9 held9).tx.ghosts, u.charged = true → ¬(9 : BitVec 9) ∈ u.owed) ∧
    held9.lossInHold = false ∧
    lowestPlane (activeMask (pair9 held9) 9) = some 0 ∧
    asked9s = srcTally (pair9 asked9s) 9 ∧
    running (pair9 asked9s) = true ∧
    asked9s.hold = true ∧
    asked9s.recon = some (16 : Time) ∧
    reached (pair9 asked9s) (later (16 : Time) (10 * usUnits)) = true ∧
    lowestPlane (activeMask (pair9 asked9s) 9) = some 0 ∧
    left0.route.settled = false ∧
    stoppedByCurfew left0 = false ∧
    reached left0 (later (16 : Time) (bits left0.route.ctl 16 16 * usUnits)) = true ∧
    hearsEntry tallied 0 (entry 64 3 5) 3 ∧
    hearsEntry unsent9 0 (entry 150 3 5) 3 ∧
    hearsEntry (pair9 asked9s) 0 (entry 64 4 5) 4 ∧
    left0.pins.aonReset = false ∧
    (cmpOf left0 0).en = true ∧
    reached left0 (cmpOf left0 0).compare = true := by
  repeat' apply And.intro
  all_goals first
    | decide +kernel
    | (unfold fresh; decide +kernel)
    | (simp; done)

theorem test_meets_GrantsAreSent :
    (running unsent9 = true ∧
     updateDue unsent9 9 = true ∧
     lowestPlane (activeMask unsent9 9) = some 0 ∧
     running tallied = true ∧
     reached tallied (later tallied.tal.refreshAt (refreshUnits tallied)) = true) :=
  by decide +kernel

theorem test_meets_TimeIsFollowed :
    (linkHears master 0 = true ∧
     1280 &&& ~~~maskAt 0 18 = 0 ∧
     isMaster master = true ∧
     linkHears (alone AlmState.freeRun) 0 = true ∧
     0x20500 &&& ~~~maskAt 0 18 = 0 ∧
     isMaster (alone AlmState.freeRun) = false ∧
     bitAt 0x20500 17 = true ∧
     (alone AlmState.freeRun).alm.links = [] ∧
     (alone AlmState.freeRun).gbl.fabricValid = true ∧
     (10 : Int) = (timeDiff ((alone AlmState.freeRun).alm.now - BitVec.ofNat 64 (bits (alone AlmState.freeRun).alm.serdesLat 16 16)) (nowW - 20) - timeDiff 0 0) / (2 : Int) ∧
     (10 : Int) = (timeDiff ((alone AlmState.freeRun).alm.now - BitVec.ofNat 64 (bits (alone AlmState.freeRun).alm.serdesLat 16 16)) (nowW - 20) - timeDiff 5 5) / (2 : Int) ∧
     linkHears (alone AlmState.acquiring) 0 = true) ∧
    (isMaster (alone AlmState.acquiring) = false ∧
     (alone AlmState.acquiring).alm.links = [] ∧
     (alone AlmState.acquiring).gbl.fabricValid = true ∧
     (10 : Int) = (timeDiff ((alone AlmState.acquiring).alm.now - BitVec.ofNat 64 (bits (alone AlmState.acquiring).alm.serdesLat 16 16)) (nowW - 20) - timeDiff 5 5) / (2 : Int) ∧
     linkHears (alone AlmState.locked) 0 = true ∧
     isMaster (alone AlmState.locked) = false ∧
     (alone AlmState.locked).alm.links = [] ∧
     (alone AlmState.locked).gbl.fabricValid = true ∧
     (10 : Int) = (timeDiff ((alone AlmState.locked).alm.now - BitVec.ofNat 64 (bits (alone AlmState.locked).alm.serdesLat 16 16)) (nowW - 20) - timeDiff 5 5) / (2 : Int) ∧
     linkHears (alone AlmState.holdover) 0 = true ∧
     isMaster (alone AlmState.holdover) = false ∧
     (alone AlmState.holdover).alm.links = []) ∧
    ((alone AlmState.holdover).gbl.fabricValid = true ∧
     (20000 : Int) = (timeDiff ((alone AlmState.holdover).alm.now - BitVec.ofNat 64 (bits (alone AlmState.holdover).alm.serdesLat 16 16)) (nowW - 40000) - timeDiff 5 5) / (2 : Int) ∧
     (-20000 : Int) = (timeDiff ((alone AlmState.holdover).alm.now - BitVec.ofNat 64 (bits (alone AlmState.holdover).alm.serdesLat 16 16)) (nowW + 40000) - timeDiff 5 5) / (2 : Int) ∧
     master.pins.pwrOk = true ∧
     master.pins.aonReset = false ∧
     bitAt master.alm.ctl 1 = true ∧
     stoppedByCurfew master = false ∧
     (alone AlmState.locked).pins.pwrOk = true ∧
     (alone AlmState.locked).pins.aonReset = false) := by
  repeat' apply And.intro
  all_goals first
    | decide +kernel
    | (unfold fresh; decide +kernel)
    | (simp; done)

theorem test_meets_TimeIsFollowed_2 :
    ((0 : Word) = (0 : Word) ∨ (0 : Int) ≤ (10 : Int) ∨ (alone AlmState.freeRun).alm.state ≠ AlmState.slewing ∧ (-16000 : Int) ≤ (10 : Int) ∨ ∀ (n : Nat), n < 16 → (cmpOf (alone AlmState.freeRun) n).en = false) ∧
    ((5 : Word) = (0 : Word) ∨ (0 : Int) ≤ (10 : Int) ∨ (alone AlmState.locked).alm.state ≠ AlmState.slewing ∧ (-16000 : Int) ≤ (10 : Int) ∨ ∀ (n : Nat), n < 16 → (cmpOf (alone AlmState.locked) n).en = false) ∧
    -20000 = (timeDiff ((alone AlmState.locked).alm.now - BitVec.ofNat 64 (bits (alone AlmState.locked).alm.serdesLat 16 16)) (nowW + 40000) - timeDiff 5 5) / 2 ∧
    ((5 : Word) = (0 : Word) ∨ (0 : Int) ≤ (-20000 : Int) ∨ (alone AlmState.locked).alm.state ≠ AlmState.slewing ∧ (-16000 : Int) ≤ (-20000 : Int) ∨ ∀ (n : Nat), n < 16 → (cmpOf (alone AlmState.locked) n).en = false) ∧
    (5 : Word) ≠ (0 : Word) ∧
    (alone AlmState.holdover).alm.state = AlmState.holdover ∧
    -20000 < -16000 ∧
    (∀ (e : Nat × Link), e ∈ (alone AlmState.holdover).lnk.links → e.snd.joined = true → e.fst = 0) ∧
    (∀ (n : Nat), n < 8 → (cmpOf (alone AlmState.holdover) n).en = false) := by
  repeat' apply And.intro
  all_goals first
    | decide +kernel
    | (unfold fresh; decide +kernel)
    | (simp; done)

theorem test_meets_CapsApply :
    (powerOn (powered { }) = true ∧
     1 ≤ (powered { }).pwr.throttle.toNat ∧
     bits 0x1000000000050 40 8 ≤ 1 ∧
     bits 0x1000000000050 16 24 = 0 ∧
     (bits 0x1000000000050 40 8 = 1 → bits 0x1000000000050 0 16 = 0) ∧
     bits 0x10000000000 40 8 ≤ 1 ∧
     bits 0x10000000000 16 24 = 0 ∧
     (bits 0x10000000000 40 8 = 1 → bits 0x10000000000 0 16 = 0) ∧
     (true = true ∨ 2 ≤ bits 0x1000000000050 40 8 ∨ bits 0x1000000000050 16 24 ≠ 0 ∨ bits 0x1000000000050 40 8 = 1 ∧ bits 0x1000000000050 0 16 ≠ 0) ∧
     (false = true ∨ 2 ≤ bits 0x20000000000 40 8 ∨ bits 0x20000000000 16 24 ≠ 0 ∨ bits 0x20000000000 40 8 = 1 ∧ bits 0x20000000000 0 16 ≠ 0) ∧
     powerOn (withCmp 2 due (powered { })) = true ∧
     1 ≤ (withCmp 2 due (powered { })).pwr.throttle.toNat) ∧
    ((cmpOf (withCmp 2 due (powered { })) 2).en = true ∧
     reached (withCmp 2 due (powered { })) (cmpOf (withCmp 2 due (powered { })) 2).compare = true) := by
  repeat' apply And.intro
  all_goals first
    | decide +kernel
    | (unfold fresh; decide +kernel)
    | (simp; done)

theorem test_meets_EstimatesMoveLevers :
    (powerOn (powered { capMsg := (100 : BitVec 16) }) = true ∧
     1 ≤ (powered { capMsg := (100 : BitVec 16) }).pwr.throttle.toNat ∧
     powerOn (powered episode0) = true ∧
     1 ≤ (powered episode0).pwr.throttle.toNat ∧
     powerOn (released { parked := [0] }) = true ∧
     nextRelease (released { parked := [0] }) = some (Release.unpark 0) ∧
     (released { parked := [0] }).pwr.belowSince = some (16 : Time) ∧
     reached (released { parked := [0] }) (later (16 : Time) (100 * usUnits)) = true ∧
     5 ≤ effCap (released { parked := [0] }) - bits (released { parked := [0] }).pwr.ctl 8 8 ∧
     powerOn (released { throttle := (20 : BitVec 7), throttleTo := (20 : BitVec 7) }) = true ∧
     nextRelease (released { throttle := (20 : BitVec 7), throttleTo := (20 : BitVec 7) }) = some Release.throttle ∧
     (released { throttle := (20 : BitVec 7), throttleTo := (20 : BitVec 7) }).pwr.belowSince = some (16 : Time)) ∧
    (reached (released { throttle := (20 : BitVec 7), throttleTo := (20 : BitVec 7) }) (later (16 : Time) (100 * usUnits)) = true ∧
     5 ≤ effCap (released { throttle := (20 : BitVec 7), throttleTo := (20 : BitVec 7) }) - bits (released { throttle := (20 : BitVec 7), throttleTo := (20 : BitVec 7) }).pwr.ctl 8 8 ∧
     powerOn (released { narrowed := [0] }) = true ∧
     nextRelease (released { narrowed := [0] }) = some (Release.widen 0) ∧
     (released { narrowed := [0] }).pwr.belowSince = some (16 : Time) ∧
     reached (released { narrowed := [0] }) (later (16 : Time) (100 * usUnits)) = true ∧
     5 ≤ effCap (released { narrowed := [0] }) - bits (released { narrowed := [0] }).pwr.ctl 8 8 ∧
     powerOn (released { ceiling := (3 : BitVec 4) }) = true ∧
     nextRelease (released { ceiling := (3 : BitVec 4) }) = some Release.ceiling ∧
     (released { ceiling := (3 : BitVec 4) }).pwr.belowSince = some (16 : Time) ∧
     reached (released { ceiling := (3 : BitVec 4) }) (later (16 : Time) (100 * usUnits)) = true ∧
     5 ≤ effCap (released { ceiling := (3 : BitVec 4) }) - bits (released { ceiling := (3 : BitVec 4) }).pwr.ctl 8 8) :=
  ⟨by decide +kernel,
    by decide +kernel⟩

theorem test_meets_EmergenciesAndWakes :
    powerOn (powered { }) = true ∧
    (if true = true then (powered { }).pins.therm else (powered { }).pins.brake) = false ∧
    (if false = true then (powered { }).pins.therm else (powered { }).pins.brake) = false ∧
    (parkedBlock [] false).pins.pwrOk = true ∧
    (parkedBlock [] false).pins.aonReset = false ∧
    (parkedBlock [] false).pwr.state = PwrState.parked ∧
    (parkedBlock [] false).flt.safe = false ∧
    stoppedByCurfew (parkedBlock [] false) = false ∧
    (parkedBlock [] true).pins.pwrOk = true ∧
    (parkedBlock [] true).pins.aonReset = false ∧
    (parkedBlock [] true).pwr.state = PwrState.parked ∧
    (parkedBlock [] true).flt.safe = false ∧
    stoppedByCurfew (parkedBlock [] true) = false ∧
    (withCmp 4 due up).pins.pwrOk = true ∧
    (withCmp 4 due up).pins.aonReset = false ∧
    (withCmp 4 due up).pwr.state ≠ PwrState.parked ∧
    (withCmp 4 due up).flt.safe = false ∧
    stoppedByCurfew (withCmp 4 due up) = false ∧
    (cmpOf (withCmp 4 due up) 4).en = true ∧
    reached (withCmp 4 due up) (cmpOf (withCmp 4 due up) 4).compare = true ∧
    (withCmp 4 due up).cur.heldAccesses = [] ∧
    stoppedByCurfew woken = false ∧
    woken.pwr.coreAt = some (16 : Time) ∧
    reached woken (later (16 : Time) (2 * msUnits)) = true ∧
    powerOn letGo = true ∧
    letGo.pwr.brakeEnd = some 16 ∧
    reached letGo (later 16 msUnits) = true ∧
    (parkedBlock [(Who.operator, 16777216, 8, some 1)] false).pins.pwrOk = true ∧
    (parkedBlock [(Who.operator, 16777216, 8, some 1)] false).pins.aonReset = false ∧
    (parkedBlock [(Who.operator, 16777216, 8, some 1)] false).pwr.state = PwrState.parked ∧
    (parkedBlock [(Who.operator, 16777216, 8, some 1)] false).flt.safe = false ∧
    stoppedByCurfew (parkedBlock [(Who.operator, 16777216, 8, some 1)] false) = false ∧
    heldRead.pins.pwrOk = true ∧
    heldRead.pins.aonReset = false ∧
    heldRead.pwr.state = PwrState.parked ∧
    heldRead.flt.safe = false ∧
    stoppedByCurfew heldRead = false ∧
    ((cmpOf (parkedBlock [] false) 4).en = true ∧ reached (parkedBlock [] false) (cmpOf (parkedBlock [] false) 4).compare = true ∧ (parkedBlock [] false).cur.heldAccesses = []) ∧
    ((parkedBlock [] true).pins.blockReset = true ∧ (parkedBlock [] true).cur.heldAccesses = []) ∧
    ((parkedBlock [(Who.operator, 0x1000000, 8, some 1)] false).cur.heldAccesses = [(Who.operator, 0x1000000, 8, some 1)] ∧ isBell 0x1000000 = true) ∧
    (heldRead.cur.heldAccesses = [(Who.operator, 0x100, 8, none)] ∧ isBell 0x100 = false) ∧
    (Who.operator ≠ Who.reeve ∧ Who.operator ≠ Who.internal ∧ parkedServes 0x100 = false) := by
  repeat' apply And.intro
  all_goals first
    | decide +kernel
    | (unfold fresh; decide +kernel)
    | (simp; done)

theorem test_meets_CroftsCalibrate_window :
    (running windowOpen = true ∧
     hasCroft windowOpen 0 = true ∧
     windowOpen.gbl.calFinished.getLsbD 0 = true ∧
     24 * 3600 * 1000 * msUnits ≤ elapsed windowOpen (croft windowOpen 0).calLast ∧
     windowFits windowOpen = true ∧
     (∀ x ∈ windowOpen.lnk.crofts, x.snd.calActive = false) ∧
     windowOpen.cur.state = CurState.idle ∧
     croftRemoved windowOpen 0 = false ∧
     (croft windowOpen 0).rateTo = none ∧
     ((linksOf 0).all fun p => !(changing (link windowOpen p))) = true ∧
     1 ≤ bits windowOpen.gbl.calCtl 0 8) ∧
    (windowFits routed = false ∧
     windowFits (crofted { pllLock := true }) = false ∧
     ∀ k < 32, k ≠ 0 → (croft windowOpen k).calPending = none) :=
  ⟨by decide +kernel,
    by decide +kernel⟩

theorem test_meets_CroftsCalibrate :
    (running (crofted { pllLock := true }) = true ∧
     hasCroft (crofted { pllLock := true }) 0 = true ∧
     (crofted { pllLock := true }).gbl.calFinished.getLsbD 0 = true ∧
     24 * 3600 * 1000 * msUnits ≤ elapsed (crofted { pllLock := true }) (croft (crofted { pllLock := true }) 0).calLast ∧
     running routed = true ∧
     running (crofted wants) = true ∧
     (croft (crofted wants) 0).calPending = some (16 : Time) ∧
     reached (crofted wants) (later (16 : Time) (200 * msUnits)) = true ∧
     (crofted wants).lnk.forcedWait = [] ∧
     forcedRuns (crofted wants) = false ∧
     mayCalibrate (crofted wants) 0 = true ∧
     running forcedNext = true) ∧
    (forcedRuns forcedNext = false ∧
     List.find? (fun c => mayCalibrate forcedNext c) forcedNext.lnk.forcedWait = some 0 ∧
     running (withCmp 3 windowAt (crofted wants)) = true ∧
     (cmpOf (withCmp 3 windowAt (crofted wants)) 3).en = true ∧
     reached (withCmp 3 windowAt (crofted wants)) (cmpOf (withCmp 3 windowAt (crofted wants)) 3).compare = true ∧
     0 < 32 ∧
     mayCalibrate (withCmp 3 windowAt (crofted wants)) 0 = true ∧
     (∀ k < 0, mayCalibrate (withCmp 3 windowAt (crofted wants)) k = false) ∧
     (∀ x ∈ (withCmp 3 windowAt (crofted wants)).lnk.crofts, x.snd.calActive = false) ∧
     1 ≤ bits (withCmp 3 windowAt (crofted wants)).gbl.calCtl 0 8 ∧
     reached (withCmp 3 windowAt (crofted wants)) (later (cmpOf (withCmp 3 windowAt (crofted wants)) 3).compare (bits (withCmp 3 windowAt (crofted wants)).gbl.calCtl 32 16 * usUnits)) = false ∧
     reached (withCmp 3 windowAt (crofted wants)) (later (cmpOf (withCmp 3 windowAt (crofted wants)) 3).compare (bits (withCmp 3 windowAt (crofted wants)).gbl.calCtl 32 16 * usUnits) - BitVec.ofNat 64 (100 * usUnits)) = false) ∧
    (running calibratingIn = true ∧
     (croft calibratingIn 0).calActive = true ∧
     calibratingIn.lnk.forcedWait = [] ∧
     calibratingIn.lnk.windowEnd = none) ∧
    (∀ (e : Time), (crofted wants).lnk.forcedEnd = some e → reached (crofted wants) (later e msUnits) = true) ∧
    (∀ (e : Time), forcedNext.lnk.forcedEnd = some e → reached forcedNext (later e msUnits) = true) :=
  ⟨by decide +kernel,
    by decide +kernel,
    by decide +kernel,
    (by intro _ hh; cases hh),
    (by intro _ hh; cases hh)⟩

theorem test_meets_CroftsCalibrate_2 :
    (∃ p, p ∈ linksOf 0 ∧ inPause (link calibratingIn p) Pause.calibration = true) ∧
    running finishing = true ∧
    (croft finishing 0).calActive = true ∧
    (∀ (p : Nat), p ∈ linksOf 0 → inPause (link finishing p) Pause.calibration = false) ∧
    finishing.lnk.forcedWait = [] ∧
    finishing.lnk.windowEnd = none := by
  repeat' apply And.intro
  all_goals first
    | decide +kernel
    | (unfold fresh; decide +kernel)
    | (simp; done)

theorem test_meets_TheBlockIsObserved :
    (running (counting true) = true ∧
     reached (counting true) (cmpOf (counting true) 5).compare = true ∧
     running traced5 = true ∧
     traced5.part.t = true ∧
     (parish traced5 1).traceOn = true ∧
     (parish traced5 1).traceCount = (1 : BitVec 7) ∧
     ((sampled traced5 (parish traced5 1).traceFirst).state = ChState.running ∨ (sampled traced5 (parish traced5 1).traceFirst).state = ChState.blocked) ∧
     ringEn (RingId.trace 1) traced5 = true ∧
     ringRoom (RingId.trace 1) traced5 = true ∧
     (parish traced5 1).traceLost = 0 ∧
     running late5 = true ∧
     reached late5 (cmpOf late5 6).compare = true) ∧
    (running up = true ∧
     reached up (cmpOf up 6).compare = true ∧
     stoppedByCurfew held0 = false ∧
     held0.obs.diagUntil = some (16 : Time) ∧
     reached held0 (16 : Time) = true) := by
  repeat' apply And.intro
  all_goals first
    | decide +kernel
    | (unfold fresh; decide +kernel)
    | (simp; done)

theorem test_meets_TheBlockIsObserved_2 :
    (withCmp 5 due (counting true)).pins.aonReset = false ∧
    stoppedByCurfew (withCmp 5 due (counting true)) = false ∧
    (cmpOf (withCmp 5 due (counting true)) 5).en = true ∧
    reached (withCmp 5 due (counting true)) (cmpOf (withCmp 5 due (counting true)) 5).compare = true ∧
    (withCmp 6 due late5).pins.aonReset = false ∧
    stoppedByCurfew (withCmp 6 due late5) = false ∧
    (cmpOf (withCmp 6 due late5) 6).en = true ∧
    reached (withCmp 6 due late5) (cmpOf (withCmp 6 due late5) 6).compare = true := by
  repeat' apply And.intro
  all_goals first
    | decide +kernel
    | (unfold fresh; decide +kernel)
    | (simp; done)

theorem test_meets_ComparatorsAndMailbox :
    ((withCmp 9 due up).pins.aonReset = false ∧
     stoppedByCurfew (withCmp 9 due up) = false ∧
     8 ≤ 9 ∧
     (cmpOf (withCmp 9 due up) 9).en = true ∧
     reached (withCmp 9 due up) (cmpOf (withCmp 9 due up) 9).compare = true ∧
     (withCmp 9 due up).cur.heldAccesses = [] ∧
     (withCmp 9 due10 (parkedBlock [] false)).pins.aonReset = false ∧
     stoppedByCurfew (withCmp 9 due10 (parkedBlock [] false)) = false ∧
     (cmpOf (withCmp 9 due10 (parkedBlock [] false)) 9).en = true ∧
     reached (withCmp 9 due10 (parkedBlock [] false)) (cmpOf (withCmp 9 due10 (parkedBlock [] false)) 9).compare = true ∧
     (withCmp 9 due10 (parkedBlock [] false)).cur.heldAccesses = [] ∧
     running sealed2 = true) ∧
    (sealedNow sealed2 2 = true ∧
     sealed2.ree.jobs.any (isJob 2 9) = false ∧
     (MailboxReq.keyPairJob 2 9 = MailboxReq.keyPairJob 2 9 ∨ MailboxReq.keyPairJob 2 9 = MailboxReq.installKey 2 9) ∧
     sealedNow sealed2 1 = false ∧
     (MailboxReq.installKey 1 9 = MailboxReq.keyPairJob 1 9 ∨ MailboxReq.installKey 1 9 = MailboxReq.installKey 1 9) ∧
     (MailboxReq.parishCreated 2 = MailboxReq.parishCreated 2 ∨ MailboxReq.parishCreated 2 = MailboxReq.parishRetired 2) ∧
     running fenced9 = true ∧
     (MailboxReq.spdmRelay = MailboxReq.spdmRelay ∨ MailboxReq.spdmRelay = MailboxReq.blockScrub ∨ MailboxReq.spdmRelay = MailboxReq.writeReeveOwned)) := by
  repeat' apply And.intro
  all_goals first
    | decide +kernel
    | (unfold fresh; decide +kernel)
    | (simp; done)

theorem test_meets_GangsAndStonesTurn :
    (running matrix9 = true ∧
     nextWork (millClears matrix9) = none ∧
     running milled = true ∧
     nextWork (millClears milled) = some (gangWait, task9, [0]) ∧
     (millPieces (millClears milled) gangWait.work task9).bads = [] ∧
     (millPieces (millClears milled) gangWait.work task9).miss = none ∧
     residentIn (millClears milled) task9 gangWait.gang ((Option.map (fun r => r.pa) (millPieces (millClears milled) gangWait.work task9).ranges.head?).getD 0) [0] = false ∧
     running (gangIn { matrix := some matrixIs9 }) = true ∧
     nextWork (millClears (gangIn { matrix := some matrixIs9 })) = some (gangWait, task9, [0]) ∧
     (millPieces (millClears (gangIn { matrix := some matrixIs9 })) gangWait.work task9).bads = [] ∧
     (millPieces (millClears (gangIn { matrix := some matrixIs9 })) gangWait.work task9).miss = none ∧
     residentIn (millClears (gangIn { matrix := some matrixIs9 })) task9 gangWait.gang ((Option.map (fun r => r.pa) (millPieces (millClears (gangIn { matrix := some matrixIs9 })) gangWait.work task9).ranges.head?).getD 0) [0] = true) ∧
    (running (ingress6 none []) = true ∧
     nextWork (millClears (ingress6 none [])) = some (stripeWait, task9i, [0]) ∧
     (millPieces (millClears (ingress6 none [])) stripeWait.work task9i).bads = [] ∧
     (millPieces (millClears (ingress6 none [])) stripeWait.work task9i).miss = some 20480 ∧
     running (ingress6 none [away9]) = true ∧
     nextWork (millClears (ingress6 none [away9])) = some (stripeWait, task9i, [0]) ∧
     (millPieces (millClears (ingress6 none [away9])) stripeWait.work task9i).bads ≠ [] ∧
     running (gangIn (loading (some (MillWork.egress 3)))) = true ∧
     List.find? (fun m => (stone (gangIn (loading (some (MillWork.egress 3)))) m).running) (gangIn (loading (some (MillWork.egress 3)))).mil.loads = some 0 ∧
     running (gangIn (loading none)) = true ∧
     List.find? (fun m => (stone (gangIn (loading none)) m).running) (gangIn (loading none)).mil.loads = some 0 ∧
     rotationWait milled 2 = some gangWait) ∧
    (reached milled gangWait.waitEnd = true ∧
     rotationWait (ingress6 none []) 2 = some stripeWait ∧
     reached (ingress6 none []) stripeWait.waitEnd = true ∧
     running (ingress6 (some 3) []) = true ∧
     rotationWait (ingress6 (some 3) []) 2 = some stripeWait ∧
     reached (ingress6 (some 3) []) stripeWait.waitEnd = true ∧
     running jobWaits = true ∧
     rotationWait jobWaits 2 = some jobWait ∧
     reached jobWaits jobWait.waitEnd = true ∧
     running (stones [(0, { running := true })] 8) = true ∧
     mayToggle (stones [(0, { running := true })] 8) = true ∧
     (stone (stones [(0, { running := true })] 8) 0).running = true) ∧
    (((stone (stones [(0, { running := true })] 8) 0).work = none ∧ (millPressed (stones [(0, { running := true })] 8) = true ∨ reached (stones [(0, { running := true })] 8) (later (stone (stones [(0, { running := true })] 8) 0).lastWork (2 * usUnits)) = true) ∨ (stone (stones [(0, { running := true })] 8) 0).work.isSome = true ∧ (stone (stones [(0, { running := true })] 8) 0).frozen = true) ∧
     running (stones [(0, frozen0 true)] 8) = true ∧
     mayToggle (stones [(0, frozen0 true)] 8) = true ∧
     (stone (stones [(0, frozen0 true)] 8) 0).running = true ∧
     ((stone (stones [(0, frozen0 true)] 8) 0).work = none ∧ (millPressed (stones [(0, frozen0 true)] 8) = true ∨ reached (stones [(0, frozen0 true)] 8) (later (stone (stones [(0, frozen0 true)] 8) 0).lastWork (2 * usUnits)) = true) ∨ (stone (stones [(0, frozen0 true)] 8) 0).work.isSome = true ∧ (stone (stones [(0, frozen0 true)] 8) 0).frozen = true) ∧
     running (stones [(0, busy true 0), (1, busy true 0)] 1) = true ∧
     mayToggle (stones [(0, busy true 0), (1, busy true 0)] 1) = true ∧
     (stone (stones [(0, busy true 0), (1, busy true 0)] 1) 1).running = true ∧
     (stone (stones [(0, busy true 0), (1, busy true 0)] 1) 1).work = some (MillWork.egress 3) ∧
     (stone (stones [(0, busy true 0), (1, busy true 0)] 1) 1).frozen = false ∧
     (stones [(0, busy true 0), (1, busy true 0)] 1).pwr.ceiling.toNat < (drawing (stones [(0, busy true 0), (1, busy true 0)] 1)).length ∧
     (∀ m ∈ runningStones (stones [(0, busy true 0), (1, busy true 0)] 1), (stone (stones [(0, busy true 0), (1, busy true 0)] 1) m).work.isSome = true)) ∧
    ((∀ m ∈ drawing (stones [(0, busy true 0), (1, busy true 0)] 1), m ≤ 1) ∧
     running (stones [(0, busy false 3), (1, busy false 3)] 8) = true ∧
     mayToggle (stones [(0, busy false 3), (1, busy false 3)] 8) = true ∧
     (stone (stones [(0, busy false 3), (1, busy false 3)] 8) 1).work = some (MillWork.egress 3) ∧
     (stone (stones [(0, busy false 3), (1, busy false 3)] 8) 1).running = false ∧
     mayWake (stones [(0, busy false 3), (1, busy false 3)] 8) (stone (stones [(0, busy false 3), (1, busy false 3)] 8) 1) (MillWork.egress 3) = true ∧
     (∀ m < 8, (stone (stones [(0, busy false 3), (1, busy false 3)] 8) m).running = true ∨ (stone (stones [(0, busy false 3), (1, busy false 3)] 8) m).work = none ∨ (stone (stones [(0, busy false 3), (1, busy false 3)] 8) 1).took ≤ (stone (stones [(0, busy false 3), (1, busy false 3)] 8) m).took) ∧
     running (stones [(1, frozen0 false)] 8) = true ∧
     mayToggle (stones [(1, frozen0 false)] 8) = true ∧
     (stone (stones [(1, frozen0 false)] 8) 1).work = some (MillWork.egress 3) ∧
     (stone (stones [(1, frozen0 false)] 8) 1).running = false ∧
     mayWake (stones [(1, frozen0 false)] 8) (stone (stones [(1, frozen0 false)] 8) 1) (MillWork.egress 3) = true) ∧
    (∀ m < 8, (stone (stones [(1, frozen0 false)] 8) m).running = true ∨ (stone (stones [(1, frozen0 false)] 8) m).work = none ∨ (stone (stones [(1, frozen0 false)] 8) 1).took ≤ (stone (stones [(1, frozen0 false)] 8) m).took) :=
  ⟨by decide +kernel,
    by decide +kernel,
    by decide +kernel,
    by decide +kernel,
    by decide +kernel,
    by decide +kernel⟩

theorem test_meets_GangsAndStonesTurn_2 :
    running (stones [(0, { running := true })] 0) = true ∧
    mayToggle (stones [(0, { running := true })] 0) = true ∧
    (stone (stones [(0, { running := true })] 0) 0).running = true ∧
    ((stone (stones [(0, { running := true })] 0) 0).work = none ∧ (millPressed (stones [(0, { running := true })] 0) = true ∨ (stones [(0, { running := true })] 0).pwr.state ≠ PwrState.active ∧ reached (stones [(0, { running := true })] 0) (later (stone (stones [(0, { running := true })] 0) 0).lastWork (2 * usUnits)) = true) ∨ (stone (stones [(0, { running := true })] 0) 0).work.isSome = true ∧ (stone (stones [(0, { running := true })] 0) 0).frozen = true) ∧
    running (stones [(0, busy true 3)] 0) = true ∧
    mayToggle (stones [(0, busy true 3)] 0) = true ∧
    (stone (stones [(0, busy true 3)] 0) 0).running = true ∧
    (stone (stones [(0, busy true 3)] 0) 0).work = some (MillWork.egress 3) ∧
    (stone (stones [(0, busy true 3)] 0) 0).frozen = false ∧
    (stones [(0, busy true 3)] 0).pwr.ceiling.toNat < (drawing (stones [(0, busy true 3)] 0)).length ∧
    (∀ (m : Nat), m ∈ runningStones (stones [(0, busy true 3)] 0) → (stone (stones [(0, busy true 3)] 0) m).work.isSome = true) ∧
    (∀ (m : Nat), m ∈ drawing (stones [(0, busy true 3)] 0) → m ≤ 0) ∧
    running (stones [(0, busy false 3)] 8) = true ∧
    mayToggle (stones [(0, busy false 3)] 8) = true ∧
    (stone (stones [(0, busy false 3)] 8) 0).work = some (MillWork.egress 3) ∧
    (stone (stones [(0, busy false 3)] 8) 0).running = false ∧
    mayWake (stones [(0, busy false 3)] 8) (stone (stones [(0, busy false 3)] 8) 0) (MillWork.egress 3) = true ∧
    (∀ (m : Nat), m < 8 → (stone (stones [(0, busy false 3)] 8) m).running = true ∨ (stone (stones [(0, busy false 3)] 8) m).work = none ∨ (stone (stones [(0, busy false 3)] 8) 0).took ≤ (stone (stones [(0, busy false 3)] 8) m).took) := by
  repeat' apply And.intro
  all_goals first
    | decide +kernel
    | (unfold fresh; decide +kernel)
    | (simp; done)

theorem test_meets_FaultsAreCounted :
    (alive (messaged 16 0 false false) = true ∧
     List.find? (fun m => m.src == (192 : BitVec 10)) (messaged 16 0 false false).flt.msgs = some (msg0 16) ∧
     (¬(192 = srcCollector ∧ (msg0 16).kind.toNat = kCollector)) ∧
     0 = kindRank (messaged 16 0 false false) (msg0 16).kind.toNat ∧
     true = (decide ((source (messaged 16 0 false false) 192).count = 0) || decide (bits (profile (messaged 16 0 false false) (profileNo (messaged 16 0 false false) 192)) 8 32 * usUnits ≤ elapsed (messaged 16 0 false false) (source (messaged 16 0 false false) 192).start)) ∧
     1 = min ((if true = true then 0 else (source (messaged 16 0 false false) 192).count) + ((msg0 16).rep.toNat + 1)) 255 ∧
     alive (messaged 1 0 false false) = true ∧
     List.find? (fun m => m.src == (192 : BitVec 10)) (messaged 1 0 false false).flt.msgs = some (msg0 1) ∧
     (¬(192 = srcCollector ∧ (msg0 1).kind.toNat = kCollector)) ∧
     1 = kindRank (messaged 1 0 false false) (msg0 1).kind.toNat ∧
     true = (decide ((source (messaged 1 0 false false) 192).count = 0) || decide (bits (profile (messaged 1 0 false false) (profileNo (messaged 1 0 false false) 192)) 8 32 * usUnits ≤ elapsed (messaged 1 0 false false) (source (messaged 1 0 false false) 192).start)) ∧
     1 = min ((if true = true then 0 else (source (messaged 1 0 false false) 192).count) + ((msg0 1).rep.toNat + 1)) 255) ∧
    (alive (messaged 1 254 false false) = true ∧
     List.find? (fun m => m.src == (192 : BitVec 10)) (messaged 1 254 false false).flt.msgs = some (msg0 1) ∧
     1 = kindRank (messaged 1 254 false false) (msg0 1).kind.toNat ∧
     false = (decide ((source (messaged 1 254 false false) 192).count = 0) || decide (bits (profile (messaged 1 254 false false) (profileNo (messaged 1 254 false false) 192)) 8 32 * usUnits ≤ elapsed (messaged 1 254 false false) (source (messaged 1 254 false false) 192).start)) ∧
     255 = min ((if false = true then 0 else (source (messaged 1 254 false false) 192).count) + ((msg0 1).rep.toNat + 1)) 255 ∧
     alive (messaged 2 0 false false) = true ∧
     List.find? (fun m => m.src == (192 : BitVec 10)) (messaged 2 0 false false).flt.msgs = some (msg0 2) ∧
     (¬(192 = srcCollector ∧ (msg0 2).kind.toNat = kCollector)) ∧
     2 = kindRank (messaged 2 0 false false) (msg0 2).kind.toNat ∧
     true = (decide ((source (messaged 2 0 false false) 192).count = 0) || decide (bits (profile (messaged 2 0 false false) (profileNo (messaged 2 0 false false) 192)) 8 32 * usUnits ≤ elapsed (messaged 2 0 false false) (source (messaged 2 0 false false) 192).start)) ∧
     1 = min ((if true = true then 0 else (source (messaged 2 0 false false) 192).count) + ((msg0 2).rep.toNat + 1)) 255 ∧
     alive (messaged 46 0 false false) = true) ∧
    (List.find? (fun m => m.src == (192 : BitVec 10)) (messaged 46 0 false false).flt.msgs = some (msg0 46) ∧
     (¬(192 = srcCollector ∧ (msg0 46).kind.toNat = kCollector)) ∧
     3 = kindRank (messaged 46 0 false false) (msg0 46).kind.toNat ∧
     true = (decide ((source (messaged 46 0 false false) 192).count = 0) || decide (bits (profile (messaged 46 0 false false) (profileNo (messaged 46 0 false false) 192)) 8 32 * usUnits ≤ elapsed (messaged 46 0 false false) (source (messaged 46 0 false false) 192).start)) ∧
     1 = min ((if true = true then 0 else (source (messaged 46 0 false false) 192).count) + ((msg0 46).rep.toNat + 1)) 255) := by
  repeat' apply And.intro
  all_goals first
    | decide +kernel
    | (unfold fresh; decide +kernel)
    | (simp; done)

theorem test_meets_FaultsAreCounted_2 :
    (∀ (m : FaultMsg), List.find? (inGroup 193) (messaged 16 0 false false).flt.msgs = some m → m.src ≠ 193) ∧
    List.find? (inGroup 192) (messaged 16 0 false false).flt.msgs = some (msg0 16) ∧
    (msg0 16).src = 192 := by
  repeat' apply And.intro
  all_goals first
    | decide +kernel
    | (unfold fresh; decide +kernel)
    | (simp; done)

theorem test_meets_TheFirstErrorIsLatched :
    (alive (messaged 2 0 false false) = true ∧
     List.find? (fun m => m.src == (192 : BitVec 10)) (messaged 2 0 false false).flt.msgs = some (msg0 2) ∧
     (¬(192 = srcCollector ∧ (msg0 2).kind.toNat = kCollector)) ∧
     2 = kindRank (messaged 2 0 false false) (msg0 2).kind.toNat ∧
     alive (messaged 2 0 false true) = true ∧
     List.find? (fun m => m.src == (192 : BitVec 10)) (messaged 2 0 false true).flt.msgs = some (msg0 2) ∧
     2 = kindRank (messaged 2 0 false true) (msg0 2).kind.toNat ∧
     alive (messaged 46 0 true true) = true ∧
     List.find? (fun m => m.src == (192 : BitVec 10)) (messaged 46 0 true true).flt.msgs = some (msg0 46) ∧
     (¬(192 = srcCollector ∧ (msg0 46).kind.toNat = kCollector)) ∧
     3 = kindRank (messaged 46 0 true true) (msg0 46).kind.toNat ∧
     alive (messaged 16 0 false false) = true) ∧
    (List.find? (fun m => m.src == (192 : BitVec 10)) (messaged 16 0 false false).flt.msgs = some (msg0 16) ∧
     (¬(192 = srcCollector ∧ (msg0 16).kind.toNat = kCollector)) ∧
     0 = kindRank (messaged 16 0 false false) (msg0 16).kind.toNat ∧
     bitAt 2 1 = true ∧
     alive pulsing = true ∧
     pulsing.flt.pulse = some (16 : Time) ∧
     reached pulsing (later (16 : Time) usUnits) = true) ∧
    served up := by
  repeat' apply And.intro
  all_goals first
    | decide +kernel
    | (unfold fresh; decide +kernel)
    | (simp; done)

theorem test_meets_TheFirstErrorIsLatched_2 :
    alive (messaged 46 0 false false) = true ∧
    List.find? (inGroup 192) (messaged 46 0 false false).flt.msgs = some (msg0 46) ∧
    (msg0 46).src = 192 ∧
    3 = kindRank (messaged 46 0 false false) (msg0 46).kind.toNat ∧
    List.find? (inGroup 192) (messaged 16 0 false false).flt.msgs = some (msg0 16) ∧
    (msg0 16).src = 192 := by
  repeat' apply And.intro
  all_goals first
    | decide +kernel
    | (unfold fresh; decide +kernel)
    | (simp; done)

theorem test_meets_FaultsAreForcedAndCleared :
    (bits 0x40000000000004C0 62 2 = 1 ∧
     bitAt forcing.ree.fltCtl 0 = true ∧
     1 ≤ bits 0x40000000000004C0 10 6 ∧
     bits 0x40000000000004C0 10 6 ≤ 46 ∧
     srcListed (bits 0x40000000000004C0 0 10) = true ∧
     srcPresent forcing (bits 0x40000000000004C0 0 10) = true ∧
     (∀ x ∈ forcing.flt.msgs, faultGroup x.src.toNat ≠ faultGroup (bits 0x40000000000004C0 0 10)) ∧
     bitAt up.ree.fltCtl 0 = false ∧
     bits 0x80000000000000C0 62 2 = 2 ∧
     srcListed (bits 0x80000000000000C0 0 10) = true ∧
     alive up = true ∧
     up.flt.safe = false) ∧
    (up.dap.accs = [] ∧
     (Instr.collectorSelfFault = Instr.collectorSelfFault ∨ Instr.collectorSelfFault = Instr.patrolScrub SramWord.collectorState EccErr.double ∧ running up = true) ∧
     (Instr.patrolScrub SramWord.collectorState EccErr.double = Instr.collectorSelfFault ∨ Instr.patrolScrub SramWord.collectorState EccErr.double = Instr.patrolScrub SramWord.collectorState EccErr.double ∧ running up = true) ∧
     up.stw.running = true ∧
     running windowKept = true ∧
     srcListed (wordSource (SramWord.windowEntry 3)) = true ∧
     srcPresent windowKept (wordSource (SramWord.windowEntry 3)) = true ∧
     windowKept.wins.cached.contains 3 = true ∧
     running up = true ∧
     srcListed (wordSource (SramWord.barnLine 3)) = true ∧
     srcPresent up (wordSource (SramWord.barnLine 3)) = true) ∧
    served forcing ∧
    served up := by
  repeat' apply And.intro
  all_goals first
    | decide +kernel
    | (unfold fresh; decide +kernel)
    | (simp; done)

theorem test_meets_FaultsAreForcedAndCleared_2 :
    alive (messaged 16 0 false false) = true ∧
    List.find? (inGroup 192) (messaged 16 0 false false).flt.msgs = some (msg0 16) ∧
    (msg0 16).src = 192 ∧
    ¬(192 = srcCollector ∧ (msg0 16).kind.toNat = kCollector) ∧
    alive pulsing = true ∧
    pulsing.flt.pulse = some 16 ∧
    reached pulsing (later 16 usUnits) = true ∧
    running routed = true ∧
    hasCroft routed 0 = true ∧
    (∀ (m : FaultMsg), m ∈ routed.flt.msgs → faultGroup m.src.toNat ≠ faultGroup (srcCroft 0)) ∧
    (∀ (m : FaultMsg), m ∈ up.flt.msgs → faultGroup m.src.toNat ≠ faultGroup srcCtrlp) ∧
    48 % 8 = 0 ∧
    mayRead up Who.operator 48 = true ∧
    regThere up 48 = true ∧
    (mayRead up Who.operator 1572864 = false ∨ regThere up 1572864 = false) ∧
    (mayRead up Who.operator 56 = false ∨ regThere up 56 = false) ∧
    running (patrolled 16 up) = true ∧
    srcPresent (patrolled 16 up) (wordSource (SramWord.barnLine 3)) = true ∧
    (cmpOf (patrolled 16 up) 7).en = true ∧
    reached (patrolled 16 up) (cmpOf (patrolled 16 up) 7).compare = true ∧
    ((cmpOf up 7).en = false ∨ reached up (cmpOf up 7).compare = false) ∧
    running (patrolled (nowW + 1) up) = true ∧
    srcPresent (patrolled (nowW + 1) up) (wordSource (SramWord.barnLine 3)) = true ∧
    ((cmpOf (patrolled (nowW + 1) up) 7).en = false ∨ reached (patrolled (nowW + 1) up) (cmpOf (patrolled (nowW + 1) up) 7).compare = false) ∧
    ((cmpOf windowKept 7).en = false ∨ reached windowKept (cmpOf windowKept 7).compare = false) := by
  repeat' apply And.intro
  all_goals first
    | decide +kernel
    | (unfold fresh; decide +kernel)
    | (simp; done)

theorem test_meets_CurfewsArmAndStop :
    (curfewHears (curfew { }) = true ∧
     false = bitAt (curfew { }).cur.ctl 1 ∧
     (curfew { }).cur.state = CurState.idle ∧
     curfewHears (curfew { ctl := wide }) = true ∧
     true = bitAt (curfew { ctl := wide }).cur.ctl 1 ∧
     (curfew { ctl := wide }).cur.state = CurState.idle ∧
     curfewHears (curfew { state := CurState.armed, stopTime := (16 : Time) }) = true ∧
     false = bitAt (curfew { state := CurState.armed, stopTime := (16 : Time) }).cur.ctl 1 ∧
     (curfew { state := CurState.armed, stopTime := (16 : Time) }).cur.state = CurState.armed ∧
     (earlier (later (now (curfew { state := CurState.armed, stopTime := (16 : Time) })) (16 * if false = true then bits (curfew { state := CurState.armed, stopTime := (16 : Time) }).cur.ctl 48 16 else bits (curfew { state := CurState.armed, stopTime := (16 : Time) }).cur.ctl 32 16)) (curfew { state := CurState.armed, stopTime := (16 : Time) }).cur.stopTime = false) ∧
     curfewHears (curfew { state := CurState.stopped }) = true ∧
     false = bitAt (curfew { state := CurState.stopped }).cur.ctl 1) ∧
    (stoppedByCurfew (curfew { state := CurState.stopped }) = true ∧
     linkHears (curfew { }) 0 = true ∧
     (curfew { }).gbl.fabricValid = true ∧
     bitAt (curfew { }).cur.ctl 2 = false ∧
     curfewHears (curfew { ctl := remote, origin := (9 : BitVec 9), fabric := true, curfewId := (1 : BitVec 32) }) = true ∧
     linkHears (curfew { ctl := remote, origin := (9 : BitVec 9), fabric := true, curfewId := (1 : BitVec 32) }) 0 = true ∧
     (curfew { ctl := remote, origin := (9 : BitVec 9), fabric := true, curfewId := (1 : BitVec 32) }).gbl.fabricValid = true ∧
     bitAt (curfew { ctl := remote, origin := (9 : BitVec 9), fabric := true, curfewId := (1 : BitVec 32) }).cur.ctl 2 = true ∧
     (curfew { ctl := remote, origin := (9 : BitVec 9), fabric := true, curfewId := (1 : BitVec 32) }).cur.fabric = true ∧
     (curfew { ctl := remote, origin := (9 : BitVec 9), fabric := true, curfewId := (1 : BitVec 32) }).cur.origin = BitVec.extractLsb' 0 9 65545#64 ∧
     (curfew { ctl := remote, origin := (9 : BitVec 9), fabric := true, curfewId := (1 : BitVec 32) }).cur.curfewId = BitVec.extractLsb' 16 32 65545#64 ∧
     curfewHears (curfew { ctl := remote }) = true) ∧
    (linkHears (curfew { ctl := remote }) 0 = true ∧
     (curfew { ctl := remote }).gbl.fabricValid = true ∧
     bitAt (curfew { ctl := remote }).cur.ctl 2 = true ∧
     (curfew { ctl := remote }).cur.state = CurState.idle ∧
     (¬((curfew { ctl := remote }).cur.fabric = true ∧ (curfew { ctl := remote }).cur.origin = BitVec.extractLsb' 0 9 65545#64 ∧ (curfew { ctl := remote }).cur.curfewId = BitVec.extractLsb' 16 32 65545#64)) ∧
     reached (curfew { state := CurState.armed, stopTime := (16 : Time) }) (curfew { state := CurState.armed, stopTime := (16 : Time) }).cur.stopTime = true) :=
  ⟨by decide +kernel,
    by decide +kernel,
    by decide +kernel⟩

theorem test_meets_CurfewsArmAndStop_2 :
    later (now (curfew { })) (16 * bits (curfew { }).cur.ctl 32 16) = later (now (curfew { })) (16 * if false = true then bits (curfew { }).cur.ctl 48 16 else bits (curfew { }).cur.ctl 32 16) ∧
    later (now (curfew { })) (16 * bits (curfew { }).cur.ctl 32 16) = later (now (curfew { state := CurState.armed, stopTime := 16 })) (16 * if false = true then bits (curfew { state := CurState.armed, stopTime := 16 }).cur.ctl 48 16 else bits (curfew { state := CurState.armed, stopTime := 16 }).cur.ctl 32 16) ∧
    earlier (later (now (curfew { })) (16 * bits (curfew { }).cur.ctl 32 16)) (curfew { state := CurState.armed, stopTime := 16 }).cur.stopTime = false ∧
    later (now (curfew { })) (16 * bits (curfew { }).cur.ctl 32 16) = later (now (curfew { state := CurState.stopped })) (16 * if false = true then bits (curfew { state := CurState.stopped }).cur.ctl 48 16 else bits (curfew { state := CurState.stopped }).cur.ctl 32 16) ∧
    curfewHears armedIn = true ∧
    armedIn.cur.state = CurState.armed ∧
    (cmpOf armedIn 1).en = true ∧
    reached armedIn (cmpOf armedIn 1).compare = true := by
  repeat' apply And.intro
  all_goals first
    | decide +kernel
    | (unfold fresh; decide +kernel)
    | (simp; done)

theorem test_meets_CurfewsDumpAndRelease :
    (curfewHears (curfew { ctl := 0xFA0010000000000, state := CurState.stopped }) = true ∧
     ((curfew { ctl := 0xFA0010000000000, state := CurState.stopped }).cur.state = CurState.stopped ∨ (curfew { ctl := 0xFA0010000000000, state := CurState.stopped }).cur.state = CurState.dumping) ∧
     (curfew { ctl := 0xFA0010000000000, state := CurState.stopped }).cur.done = false ∧
     (curfew { state := CurState.dumping }).pins.pwrOk = true ∧
     (stoppedByCurfew (curfew { state := CurState.dumping }) = true ∨ (curfew { state := CurState.dumping }).flt.safe = true) ∧
     (curfew { state := CurState.dumping, done := true }).flt.safe = false ∧
     ctrlpOpen (curfew { state := CurState.dumping, done := true }) = true ∧
     (curfew { state := CurState.dumping, done := true }).pwr.state ≠ PwrState.parked ∧
     (curfew { state := CurState.dumping, done := true }).cur.state = CurState.dumping ∧
     (curfew { state := CurState.dumping, done := true }).cur.done = true ∧
     1000 ≤ bits 0x3E8004000000020 48 16 ∧
     64 ≤ bits 0x3E8004000000020 32 16) ∧
    (bits 0x3E8004000000020 5 2 = 1 ∧
     1000 ≤ bits 0x3E8004000000040 48 16 ∧
     64 ≤ bits 0x3E8004000000040 32 16 ∧
     bits 0x3E8004000000040 5 2 = 2 ∧
     curfewHears (halting false) = true ∧
     (halting false).cur.state = CurState.releasing ∧
     reached (halting false) (halting false).cur.restart = true ∧
     (halting false).cur.heldAccesses = [] ∧
     (halting false).lnk.forcedWait = [] ∧
     (halting false).cur.halt = false ∧
     curfewHears (halting true) = true ∧
     (halting true).cur.state = CurState.releasing) ∧
    (reached (halting true) (halting true).cur.restart = true ∧
     (halting true).cur.heldAccesses = [] ∧
     (halting true).lnk.forcedWait = [] ∧
     (halting true).cur.halt = true ∧
     (halting true).eng.cmds = [parked3] ∧
     parked3.phase ≠ Phase.active ∧
     parked3.phase ≠ Phase.done ∧
     parked3.admitted = false ∧
     parked3.targets = [] ∧
     ownWrites (halting true) parked3.id = false) :=
  ⟨by decide +kernel,
    by decide +kernel,
    by decide +kernel⟩

theorem test_meets_CurfewsDumpAndRelease_2 :
    up.pins.pwrOk = true ∧
    stoppedByCurfew up = false ∧
    up.flt.safe = false ∧
    (halting false).pwr.state ≠ PwrState.parked ∧
    elapsed (halting false) 16 = elapsed (halting false) (halting false).cur.stoppedAt ∧
    (halting true).pwr.state ≠ PwrState.parked ∧
    elapsed (halting true) 16 = elapsed (halting true) (halting true).cur.stoppedAt := by
  repeat' apply And.intro
  all_goals first
    | decide +kernel
    | (unfold fresh; decide +kernel)
    | (simp; done)

theorem test_meets_WritesAreJudgedWhole :
    (48 / 65536 ≠ 64 + 1 ∧
     isBell 48 = false ∧
     48 % 8 = 0 ∧
     safeNow.pins.pwrOk = true ∧
     safeNow.pins.aonReset = false ∧
     Who.operator ≠ Who.reeve ∧
     safeNow.flt.safe = true ∧
     safeNow.cur.heldAccesses = []) ∧
    ((parkedBlock [] false).flt.safe = false ∧
     stoppedByCurfew (parkedBlock [] false) = false ∧
     ctrlpOpen (parkedBlock [] false) = true ∧
     (parkedBlock [] false).pwr.state = PwrState.parked ∧
     (parkedBlock [] false).cur.heldAccesses = [] ∧
     Who.operator ≠ Who.internal ∧
     parkedServes 16777216 = false) ∧
    served up := by
  repeat' apply And.intro
  all_goals first
    | decide +kernel
    | (unfold fresh; decide +kernel)
    | (simp; done)

theorem test_meets_WritesAreJudgedWhole_2 :
    isBell 56 = false ∧
    ¬(1048576 ≤ 56 ∧ 56 < 2097152) ∧
    (56 % 8 ≠ 0 ∨ regAt up false 56 = none) ∧
    isBell 52 = false ∧
    ¬(1048576 ≤ 52 ∧ 52 < 2097152) ∧
    (52 % 8 ≠ 0 ∨ regAt up false 52 = none) ∧
    served (linked { }) ∧
    hasLink (linked { }) 0 = true ∧
    0 < 96 ∧
    65536 = merge (link (linked { }) 0).granaryBase 65536 (maskAt 16 36) ∧
    ((link (linked { }) 0).en = false ∨ 65536 = (link (linked { }) 0).granaryBase) ∧
    bits 2 0 2 ≤ 2 ∧
    served notified1 ∧
    ((parish notified1 1).state = ParState.active ∨ (parish notified1 1).state = ParState.retiring) ∧
    6 ≤ bits (parish notified1 1).notify.ctl 0 5 ∧
    bits (parish notified1 1).notify.ctl 0 5 ≤ 16 ∧
    ((4184 : BitVec 29), RingId.terrier) ∈ [((4184 : BitVec 29), RingId.terrier), ((12336 : BitVec 29), RingId.steward), ((28712 : BitVec 29), RingId.fault)] ∧
    up.ter.unwritten = [] ∧
    up.stw.held = [] ∧
    up.flt.held = [] ∧
    dist32 (BitVec.extractLsb' 0 32 (0 : Word)) (ringGet ((4184 : BitVec 29), RingId.terrier).snd up).head ≤ dist32 (ringGet ((4184 : BitVec 29), RingId.terrier).snd up).tail (ringGet ((4184 : BitVec 29), RingId.terrier).snd up).head ∧
    ((28712 : BitVec 29), RingId.fault) ∈ [((4184 : BitVec 29), RingId.terrier), ((12336 : BitVec 29), RingId.steward), ((28712 : BitVec 29), RingId.fault)] ∧
    dist32 (ringGet ((28712 : BitVec 29), RingId.fault).snd up).tail (ringGet ((28712 : BitVec 29), RingId.fault).snd up).head < dist32 (BitVec.extractLsb' 0 32 (1 : Word)) (ringGet ((28712 : BitVec 29), RingId.fault).snd up).head := by
  repeat' apply And.intro
  all_goals first
    | decide +kernel
    | (unfold fresh; decide +kernel)
    | (simp; done)

theorem test_meets_WritesAreJudgedWhole_rows :
    (takes up 0x30 1 = true ∧ takes up 0x30 1000 = true ∧ takes up 0x30 0 = false ∧ takes up 0x30 1001 = false) ∧
    (takes State.reset 0x1000 0x1000 = true ∧ takes up 0x1000 0x1000 = false ∧ takes up 0x1000 0 = true) ∧
    (takes up 0x1008 0x2A = true ∧ takes up 0x1008 0x2B = false ∧ takes State.reset 0x1008 9 = false ∧ takes State.reset 0x1008 21 = true ∧ takes State.reset 0x1008 22 = false) ∧
    (takes State.reset 0x1018 20 = true ∧ takes State.reset 0x1018 21 = false ∧ takes State.reset 0x1028 6 = true ∧ takes State.reset 0x1028 5 = false ∧
     takes State.reset 0x1028 16 = true ∧ takes State.reset 0x1028 17 = false) ∧
    (takes up 0x2008 0x101 = true ∧ takes up 0x2008 0x100 = false ∧ takes up 0x3008 0 = true ∧ takes up 0x4010 1 = true ∧ takes routed 0x4010 1 = false) ∧
    (takes up 0x5020 0x200000 = true ∧ takes (curfew { state := .armed }) 0x5020 0x200000 = false ∧ takes up 0x8000 0x1000000000100 = true ∧
     takes up 0x8000 0x100 = false ∧ takes up 0x8000 0xEA61000000000100 = false) ∧
    ((regAt up false 0).any (fun r => !r.rw) = true ∧ regAt up false 0x38 = none) := by
  repeat' apply And.intro
  all_goals decide +kernel

theorem test_meets_RegisterWritesAct :
    (hasCroft routed 0 = true ∧
     maxRate routed ≤ bits 1 0 2 ∧
     bits 1 0 2 ≤ 2 ∧
     (croft routed 0).rate ≠ BitVec.extractLsb' 0 2 1#64 ∧
     hasLink (linked { }) 0 = true ∧
     0 < 96 ∧
     10 ≤ bits 0x3E800000001 32 14 ∧
     bits 0x3E800000001 32 14 ≤ 10000 ∧
     bits 0x3E800000001 16 15 ≤ 32511 ∧
     bits 0x3E800000001 1 2 ≤ 2 ∧
     (link (linked { }) 0).en = false ∧
     bitAt 0x3E800000001 0 = true) ∧
    (croftRemoved (linked { }) (0 / 3) = false ∧
     hasLink (linked up0) 0 = true ∧
     10 ≤ bits 0x3E820000000 32 14 ∧
     bits 0x3E820000000 32 14 ≤ 10000 ∧
     bits 0x3E820000000 16 15 ≤ 32511 ∧
     bits 0x3E820000000 1 2 ≤ 2 ∧
     (link (linked up0) 0).en = true ∧
     bitAt 0x3E820000000 0 = false ∧
     bits 0x3E820000000 16 15 = (link (linked up0) 0).granaryFlits.toNat ∧
     (linked up0).tx.units = [] ∧
     10 ≤ bits 0x3E820000003 32 14 ∧
     bits 0x3E820000003 32 14 ≤ 10000) ∧
    (bits 0x3E820000003 16 15 ≤ 32511 ∧
     bits 0x3E820000003 1 2 ≤ 2 ∧
     bitAt 0x3E820000003 0 = true ∧
     bits 0x3E820000003 16 15 = (link (linked up0) 0).granaryFlits.toNat ∧
     1 ≤ bits 0x3E820000003 1 2 ∧
     (link (linked up0) 0).joined = true ∧
     linkFree (link (linked up0) 0) = true ∧
     (link (linked up0) 0).lanes.toNat ≠ bits 0x3E820000003 1 2 ∧
     bits 8208 4 2 ≤ 2 ∧
     up.part.m = true ∧
     (∀ n < 8, bits 21845 (2 * n) 2 ≠ 3) ∧
     up.eng.cmds = []) ∧
    ((∃ n < 8, bits 65535 (2 * n) 2 = 3) ∧
     8 ≤ 9 ∧
     bitAt 51 0 = true ∧
     reached (withCmp 9 { compare := (4503599627370512 : Time) } up) (cmpOf (withCmp 9 { compare := (4503599627370512 : Time) } up) 9).compare = false ∧
     reached up (cmpOf up 9).compare = true ∧
     bitAt 0x6400000006 5 = false ∧
     6 ≤ bits 0x6400000006 0 5 ∧
     bits 0x6400000006 0 5 ≤ 16 ∧
     1 ≤ bits 0x6400000006 32 14 ∧
     bits 0x6400000006 32 14 ≤ 10000 ∧
     (terOn []).ter.noRec = [] ∧
     bitAt (terOn []).gbl.terCtl 5 = true) ∧
    (bits (terOn []).gbl.terCtl 0 5 = bits 0x6400000006 0 5 ∧
     (terOn []).ter.recs = [] ∧
     (terOn [rec7 [Requester.cmd 3]]).ter.noRec = [] ∧
     bitAt (terOn [rec7 [Requester.cmd 3]]).gbl.terCtl 5 = true ∧
     bits (terOn [rec7 [Requester.cmd 3]]).gbl.terCtl 0 5 = bits 0x6400000006 0 5 ∧
     (terOn [rec7 [Requester.cmd 3]]).ter.recs = [rec7 [Requester.cmd 3]] ∧
     (rec7 [Requester.cmd 3]).waiters = [Requester.cmd 3] ∧
     cmd? (terOn [rec7 [Requester.cmd 3]]) 3 = some parked3 ∧
     parked3.phase = Phase.parked ∧
     parked3.admitted = false ∧
     parked3.targets = [] ∧
     ownWrites (terOn [rec7 [Requester.cmd 3]]) 3 = false) ∧
    (running notified = true ∧
     (notifyOf Owner.operator notified).since = some (16 : Time) ∧
     reached notified (later (16 : Time) (bits (notifyOf Owner.operator notified).ctl 16 10 * usUnits)) = true) ∧
    served up ∧
    served routed ∧
    served (linked { }) ∧
    served (linked up0) ∧
    served (withCmp 9 { compare := (4503599627370512 : Time) } up) ∧
    served (terOn []) ∧
    served (terOn [rec7 [Requester.cmd 3]]) ∧
    served notified := by
  repeat' apply And.intro
  all_goals first
    | decide +kernel
    | (unfold fresh; decide +kernel)
    | (simp; done)

theorem test_meets_RegisterWritesAct_2 :
    served changing0 ∧
    hasCroft changing0 0 = true ∧
    maxRate changing0 ≤ bits 1 0 2 ∧
    (croft changing0 0).rateTo = some 1 ∧
    (croft routed 0).rateTo = none ∧
    (croft routed 0).rate ≠ BitVec.extractLsb' 0 2 (1 : Word) ∧
    (∀ (a : Arrival), a ∈ (terOn [rec7 [Requester.cmd 3]]).brn.arrivals → a.cmd ≠ some 3) := by
  repeat' apply And.intro
  all_goals first
    | decide +kernel
    | (unfold fresh; decide +kernel)
    | (simp; done)

theorem test_meets_TheBlockStarts :
    (Instr.blockReset = Instr.blockReset ∨ Instr.blockReset = Instr.pwrOkLow) ∧
    up.pins.aonReset = false ∧
    (atStage Stage.reset true).pins.pwrOk = true ∧
    (atStage Stage.reset true).pins.aonReset = false ∧
    (atStage Stage.reset true).pins.blockReset = true ∧
    (imaged Stage.fwLoad).pins.pwrOk = true ∧
    (imaged Stage.fwLoad).pins.aonReset = false ∧
    (imaged Stage.fwLoad).pins.blockReset = false ∧
    ((imaged Stage.fwLoad).gbl.stage = Stage.reeveRom ∨ (imaged Stage.fwLoad).gbl.stage = Stage.fwLoad) ∧
    (atStage Stage.fwLoad false).pins.pwrOk = true ∧
    (atStage Stage.fwLoad false).pins.aonReset = false ∧
    (atStage Stage.fwLoad false).pins.blockReset = false ∧
    ((atStage Stage.fwLoad false).gbl.stage = Stage.reeveRom ∨ (atStage Stage.fwLoad false).gbl.stage = Stage.fwLoad) ∧
    (atStage Stage.sramClear false).pins.pwrOk = true ∧
    (atStage Stage.sramClear false).pins.aonReset = false ∧
    (atStage Stage.sramClear false).pins.blockReset = false ∧
    (atStage Stage.sramClear false).gbl.stage = Stage.sramClear ∧
    (atStage Stage.calibrating false).pins.pwrOk = true ∧
    (atStage Stage.calibrating false).pins.aonReset = false ∧
    (atStage Stage.calibrating false).pins.blockReset = false ∧
    (atStage Stage.calibrating false).gbl.stage = Stage.calibrating ∧
    stoppedByCurfew (atStage Stage.calibrating false) = false ∧
    hasCroft (atStage Stage.calibrating false) 3 = true ∧
    (atStage Stage.calibrating false).gbl.calFinished.getLsbD 3 = false ∧
    (imaged Stage.reeveRom).gbl.stage = Stage.reeveRom ∧
    (imaged Stage.fwLoad).gbl.stage = Stage.fwLoad ∧
    (imaged Stage.fwLoad).ree.fwCopied = true ∧
    FwResult.checked ≠ FwResult.romFails ∧
    headerOk (imaged Stage.fwLoad) = true ∧
    (imaged Stage.fwLoad).otp.svn.toNat ≤ (fwHeader (imaged Stage.fwLoad)).svn.toNat ∧
    (FwResult.checked = FwResult.checked ∨ commits (imaged Stage.fwLoad) = false) ∧
    FwResult.otpFails ≠ FwResult.romFails ∧
    (headerOk (imaged Stage.fwLoad) = false ∨ (fwHeader (imaged Stage.fwLoad)).svn.toNat < (imaged Stage.fwLoad).otp.svn.toNat ∨ FwResult.otpFails = FwResult.otpFails ∧ commits (imaged Stage.fwLoad) = true) ∧
    olderImage.pins.pwrOk = true ∧
    olderImage.pins.aonReset = false ∧
    olderImage.pins.blockReset = false ∧
    olderImage.gbl.stage = Stage.fwLoad ∧
    olderImage.ree.fwCopied = true ∧
    (headerOk olderImage = false ∨ (fwHeader olderImage).svn.toNat < olderImage.otp.svn.toNat ∨ FwResult.checked = FwResult.otpFails ∧ commits olderImage = true) ∧
    longImage.pins.pwrOk = true ∧
    longImage.pins.aonReset = false ∧
    longImage.pins.blockReset = false ∧
    longImage.gbl.stage = Stage.fwLoad ∧
    longImage.ree.fwCopied = true ∧
    (headerOk longImage = false ∨ (fwHeader longImage).svn.toNat < longImage.otp.svn.toNat ∨ FwResult.checked = FwResult.otpFails ∧ commits longImage = true) := by
  repeat' apply And.intro
  all_goals first
    | decide +kernel
    | (unfold fresh; decide +kernel)
    | (simp; done)

theorem test_meets_StepsKeepTheInvariant :
    Memory.wf queued.mem = true ∧
    fresh queued := by
  repeat' apply And.intro
  all_goals first
    | decide +kernel
    | (unfold fresh; decide +kernel)
    | (simp; done)

theorem test_a_step_completes : (after (step queued)).isSome = true := by decide +kernel

theorem test_meets_AStepRunsTheFrontCommand : State.reset.pending = [] ∧ State.reset.pins.aonReset = true ∧ up.pending = [] ∧ up.pins.aonReset = false := by
  decide

theorem test_meets_WhatNoCommandDoes : safeNow.flt.safe = true := by decide

end Sys2Proof.Tests
end

namespace Sys2Proof.Proofs

open Sys2Proof.Machine Sys2Proof.Safety Sys2Proof.Laws

/-! ## A step on an empty queue -/

/-- Time and its fraction, as one number of 1/2^32 units, advance by 640 units and the servo's rate, modulo 2^96 (R365, R371). -/
theorem almTick_total (a : Alm) :
    (almTick a).now.toNat * 2 ^ 32 + (almTick a).frac.toNat
      = (((a.now.toNat * 2 ^ 32 + a.frac.toNat : Int) + 640 * 2 ^ 32 + a.rate) % 2 ^ 96).toNat := by
  have hnow := a.now.isLt
  have hfrac := a.frac.isLt
  simp only [almTick, BitVec.toNat_add, BitVec.toNat_ofInt]
  omega

theorem almTick_frame (a : Alm) : almTick a = { a with now := (almTick a).now, frac := (almTick a).frac } := rfl

/-- Reeve's ROM check has passed and the block runs: the image is loaded next. -/
def romChecked (s : State) : Prop := s.pins.pwrOk = true ∧ s.pins.blockReset = false ∧ s.gbl.stage = .reeveRom

theorem bootTick_load (s : State) (h : romChecked s) : bootTick s = startLoad s := by
  obtain ⟨hpwr, hreset, hstage⟩ := h
  simp [bootTick, hpwr, hreset, hstage]

theorem bootTick_idle (s : State) (h : ¬ romChecked s) : bootTick s = s := by
  simp only [romChecked] at h
  simp only [bootTick, Bool.and_eq_true, Bool.not_eq_true', beq_iff_eq, and_assoc, if_neg h]

theorem dumpTick_frame (s : State) :
    dumpTick s = { s with cur := { s.cur with state := if s.cur.state = .stopped then .dumping else s.cur.state } } := by
  unfold dumpTick
  by_cases h : s.cur.state = .stopped <;> simp [h]

theorem idleTick_inReset (s : State) (h : s.pins.aonReset = true) : idleTick s = s := by simp [idleTick, h]

/-- The cycle that passes out of reset: Almanac first, then Reeve, then the dump. -/
theorem idleTick_outOfReset (s : State) (h : s.pins.aonReset = false) :
    idleTick s = dumpTick (bootTick { s with alm := almTick s.alm }) := by simp [idleTick, h]

theorem step_front (c : Instr) (rest : List Instr) (s : State) : step { s with pending := c :: rest } = exec c { s with pending := rest } := rfl

theorem step_empty (s : State) (h : s.pending = []) : step s = .next (idleTick s) := by simp [step, h]

/-- Settles O57, by the three parts of a cycle on an empty queue. -/
theorem aStepRunsTheFrontCommand : Obligations.AStepRunsTheFrontCommand := by
  unfold Obligations.AStepRunsTheFrontCommand
  refine ⟨step_front, fun s hq => ⟨fun hr => ?_, fun hr => ⟨idleTick s, step_empty s hq, ?_⟩⟩⟩
  · rw [step_empty s hq, idleTick_inReset s hr]
  · rw [idleTick_outOfReset s hr, dumpTick_frame]
    by_cases hb : romChecked s
    · have hload := bootTick_load { s with alm := almTick s.alm } hb
      rw [hload]
      exact ⟨rfl, almTick_total s.alm, fun _ => ⟨rfl, rfl, rfl, _, rfl, rfl, rfl, rfl, rfl⟩, fun hn => absurd hb hn, rfl⟩
    · have hidle := bootTick_idle { s with alm := almTick s.alm } hb
      rw [hidle]
      exact ⟨rfl, almTick_total s.alm, fun h => absurd h hb, fun _ => ⟨rfl, rfl, rfl, rfl⟩, rfl⟩

end Sys2Proof.Proofs

namespace Sys2Proof.Proofs

open Sys2Proof.Machine Sys2Proof.Safety Sys2Proof.Laws

/-! ## Lists changed at one element -/

/-- A change of the first hit that leaves it a hit is what a search finds. -/
theorem find?_modFirst {α : Type} (p : α → Bool) (f : α → α) (hf : ∀ x, p x = true → p (f x) = true) (l : List α) :
    (modFirst p f l).find? p = (l.find? p).map f := by
  induction l with
  | nil => rfl
  | cons x l ih =>
    unfold modFirst
    split
    · next hx => simp [hx, hf x hx]
    · next hx => simp [hx, ih]

theorem unit?_modUnit (id : Nat) (f : Xu → Xu) (hf : ∀ u, (f u).id = u.id) (s : State) : unit? (modUnit id f s) id = (unit? s id).map f :=
  find?_modFirst _ f (fun u hu => by rw [hf u]; exact hu) s.tx.units

/-! ## What a command's own work leaves of its transactions and tallies -/

/-- Transactions in flight and tallies. -/
def sending (s : State) : Tx × Tal := (s.tx, s.tal)

theorem sending_tx {s t : State} (h : sending t = sending s) : t.tx = s.tx := congrArg Prod.fst h
theorem sending_tal {s t : State} (h : sending t = sending s) : t.tal = s.tal := congrArg Prod.snd h

@[simp] theorem sending_mk (part otp pins gbl alm pwr flt ree stw chn eng memp ter wins dap route tal tx brn sig groups lnk mil par obs cur mem free pending) :
    sending ⟨part, otp, pins, gbl, alm, pwr, flt, ree, stw, chn, eng, memp, ter, wins, dap, route, tal, tx, brn, sig, groups, lnk, mil, par, obs, cur,
      mem, free, pending⟩ = (tx, tal) := rfl

@[simp] theorem sending_fold (s : State) : (s.tx, s.tal) = sending s := rfl

@[simp] theorem sending_ite (c : Prop) [Decidable c] (a b : State) : sending (if c then a else b) = if c then sending a else sending b := by
  split <;> rfl

@[simp] theorem modParish_sending (q : Nat) (f : Parish → Parish) (s : State) : sending (modParish q f s) = sending s := rfl

@[simp] theorem modLink_sending (p : Nat) (f : Link → Link) (s : State) : sending (modLink p f s) = sending s := rfl

@[simp] theorem modCmd_sending (id : Nat) (f : Cmd → Cmd) (s : State) : sending (modCmd id f s) = sending s := rfl

@[simp] theorem issueWrite_sending (use : WriteFor) (cells : List (Nat × Byte)) (cls : BitVec 3) (wake : Bool) (agent : Option (BitVec 6))
    (span : Option (BitVec 6 × Nat × Nat)) (s : State) : sending (issueWrite use cells cls wake agent span s) = sending s := rfl

@[simp] theorem leaveRecords_sending (w : Requester) (s : State) : sending (leaveRecords w s) = sending s := rfl

@[simp] theorem ringSet_sending (r : RingId) (x : Ring) (s : State) : sending (ringSet r x s) = sending s := by
  unfold ringSet
  split <;> rfl

@[simp] theorem ringPut_sending (r : RingId) (ws : List Word) (s : State) : sending (ringPut r ws s) = sending s := by simp [ringPut]

@[simp] theorem tracePut_sending (q : BitVec 6) (ws : List Word) (s : State) : sending (tracePut q ws s) = sending s := by
  simp [tracePut]

@[simp] theorem curfewFlits_sending (stop : Time) (origin : BitVec 9) (cid : BitVec 32) (s : State) :
    sending (curfewFlits stop origin cid s) = sending s :=
  keeps_foldl sending _ s (fun s p => by simp) _

@[simp] theorem armCurfew_sending (stop : Time) (fabric : Bool) (kind : Nat) (flit : Option (BitVec 9 × BitVec 32)) (s : State) :
    sending (armCurfew stop fabric kind flit s) = sending s := by
  simp [armCurfew, cmpAt, modCmp]

@[simp] theorem watchHit_sending (n : Nat) (w : Watch) (q : BitVec 6) (first src cls : Nat) (s : State) :
    sending (watchHit n w q first src cls s) = sending s := by
  simp [watchHit]

@[simp] theorem watchLocal_sending (q : BitVec 6) (cls : Nat) (runs : List (Nat × Nat)) (s : State) :
    sending (watchLocal q cls runs s) = sending s :=
  keeps_foldl sending _ s (fun s e => by dsimp only; split <;> simp) _

@[simp] theorem writeFor_sending (use : WriteFor) (c : Cmd) (pieces : List (Nat × Nat)) (cells : List (Nat × Byte)) (cls : BitVec 3) (s : State) :
    sending (writeFor use c pieces cells cls s) = sending s := by
  simp [writeFor]

@[simp] theorem freedCells_sending (src dst : List (Nat × Nat)) (cells : List (Nat × Byte)) (s : State) :
    sending (freedCells src dst cells s).2 = sending s := rfl

@[simp] theorem rowsOut_sending (id : Nat) (bs : List Byte) (s : State) : sending (rowsOut id bs s) = sending s := by
  unfold rowsOut
  split
  · rfl
  · simp

@[simp] theorem noMoreXlate_sending (id : Nat) (s : State) : sending (noMoreXlate id s) = sending s := by
  unfold noMoreXlate
  split
  · rfl
  · simp

/-! ## A command at rest sends nothing more -/

theorem nextStripe_of_halt (c : Cmd) (h : c.halt = true) : nextStripe c = none := by simp [nextStripe, h]

theorem issued_of_halt (c : Cmd) (h : c.halt = true) : issued c = true := by simp [issued, nextStripe_of_halt c h, h]

theorem emitSignals_of_halt (id : Nat) (s : State) (c : Cmd) (hc : cmd? s id = some c) (h : c.halt = true) : emitSignals id s = s := by
  simp [emitSignals, hc, h]

/-- A command with a transaction in flight is not complete. -/
theorem checkDone_of_unit (id : Nat) (s : State) (h : unitsOf s id ≠ []) : checkDone id s = s := by
  have hout : outstanding s id = true := by simp [outstanding, h]
  unfold checkDone
  split
  · rfl
  · simp [hout]

theorem unitsOf_of_tx {s t : State} (h : t.tx = s.tx) (id : Nat) : unitsOf t id = unitsOf s id := by simp [unitsOf, h]

/-- The translation that a failed command gives up leaves its read in progress, and makes it active only where it is halted. -/
theorem noMoreXlate_cmd (id : Nat) (s : State) (c : Cmd) (hc : cmd? s id = some c) :
    ∃ c', cmd? (noMoreXlate id s) id = some c' ∧ c'.reading = c.reading ∧ (c'.phase = c.phase ∨ c'.halt = true) := by
  simp only [noMoreXlate, hc]
  split
  · next h =>
    simp only [Bool.and_eq_true] at h
    obtain ⟨⟨⟨-, hhalt⟩, -⟩, -⟩ := h
    refine ⟨{ c with phase := .active }, ?_, rfl, .inr hhalt⟩
    exact (cmd_modCmd id (fun c => { c with phase := .active }) (fun _ => rfl) s).trans (by rw [hc]; rfl)
  · exact ⟨c, hc, rfl, .inl rfl⟩

theorem feed_of_rest (id : Nat) (s : State) (c : Cmd) (hc : cmd? (noMoreXlate id s) id = some c) (h : c.phase ≠ .active ∨ c.reading = true) :
    feed id s = noMoreXlate id s := by
  have hstop : (c.phase != .active || c.reading) = true := by simpa using h
  unfold feed
  simp only [hc, hstop, Bool.true_or, if_true]

/-- A halted command with a transaction in flight at most writes the rows that it has computed. -/
theorem feed_of_halt (id : Nat) (s : State) (c : Cmd) (hc : cmd? (noMoreXlate id s) id = some c) (hhalt : c.halt = true)
    (hu : unitsOf (noMoreXlate id s) id ≠ []) : sending (feed id s) = sending (noMoreXlate id s) := by
  unfold feed
  simp only [hc, nextStripe_of_halt c hhalt, issued_of_halt c hhalt, if_true, emitSignals_of_halt id _ c hc hhalt, checkDone_of_unit id _ hu]
  simp

/-- A unit whose sender has nothing to do at once, and of which something is in flight: what the sender does next sends nothing. -/
theorem feedUnit_sending (use : UnitFor) (s : State) (hrest : restful s use) (hu : ∀ id, use = .cmd id → unitsOf s id ≠ []) :
    sending (feedUnit use s) = sending s := by
  cases use with
  | answer d => rfl
  | dap n => rfl
  | cmd id =>
    show sending (feed id s) = sending s
    have htx := sending_tx (noMoreXlate_sending id s)
    cases hc : cmd? s id with
    | none => simp [feed, noMoreXlate, hc]
    | some c =>
      obtain ⟨c', hc', hread, hphase⟩ := noMoreXlate_cmd id s c hc
      rcases hphase with hphase | hhalt
      · rw [feed_of_rest id s c' hc' (by rw [hread, hphase]; exact hrest id c rfl hc), noMoreXlate_sending]
      · rw [feed_of_halt id s c' hc' hhalt (by rw [unitsOf_of_tx htx]; exact hu id rfl), noMoreXlate_sending]

/-! ## Units that leave -/

/-- Taking a signal slot changes the slots of the tallies and nothing else. -/
theorem takeSigSlot_frame (u : Xu) (d : Nat) (s : State) :
    takeSigSlot u d s = { s with tal := { s.tal with slots := (takeSigSlot u d s).tal.slots } } := by
  unfold takeSigSlot
  (repeat' split) <;> rfl

/-- A counter of a pair slot advances within Reeve. -/
theorem advanceCtr_frame (n : Nat) (ans : Bool) (s : State) : advanceCtr n ans s = { s with ree := (advanceCtr n ans s).ree } := by
  unfold advanceCtr
  dsimp only
  (repeat' split) <;> rfl

/-- Transactions, commands, what has been sent to each destination, and what a deadline is made of. -/
structure Charging where
  tx  : Tx
  eng : Eng
  src : List (Nat × SrcTally)
  now : Time
  due : Nat

/-- What a state has of them. -/
def charging (s : State) : Charging := ⟨s.tx, s.eng, s.tal.src, now s, effTimeout s⟩

@[simp] theorem takeSigSlot_charging (u : Xu) (d : Nat) (s : State) : charging (takeSigSlot u d s) = charging s := by
  rw [takeSigSlot_frame]
  rfl

@[simp] theorem advanceCtr_charging (n : Nat) (ans : Bool) (s : State) : charging (advanceCtr n ans s) = charging s := by
  rw [advanceCtr_frame]
  rfl

@[simp] theorem advanceCursor_charging (s : State) (multi : Bool) (ds : List (BitVec 9)) (mask : BitVec 96) :
    charging (advanceCursor s multi ds mask) = charging s := rfl

theorem modUnit_charging (id : Nat) (f : Xu → Xu) (s : State) :
    charging (modUnit id f s) = { charging s with tx := { (charging s).tx with units := modFirst (fun u => u.id == id) f (charging s).tx.units } } := rfl

theorem queueTxn_tx (p : Nat) (t : Txn) (slots : List (BitVec 256)) (unit : Option Nat) (s : State) : (queueTxn p t slots unit s).tx = (charging s).tx := rfl
theorem queueTxn_eng (p : Nat) (t : Txn) (slots : List (BitVec 256)) (unit : Option Nat) (s : State) : (queueTxn p t slots unit s).eng = (charging s).eng := rfl
theorem queueTxn_src (p : Nat) (t : Txn) (slots : List (BitVec 256)) (unit : Option Nat) (s : State) :
    (queueTxn p t slots unit s).tal.src = (charging s).src := rfl

/-- What leaving makes of a unit: on plane `p`, as `t` on the wire, sealed under counter `ctr`. -/
def asCharged (s : State) (p : Nat) (t : Txn) (ctr : BitVec 64) (v : Xu) : Xu :=
  { v with charged := true, plane := p, txn := t, ctr := ctr, deadline := later (now s) (effTimeout s) }

/-- What leaving for the device itself makes of a unit. -/
def asOwn (s : State) (v : Xu) : Xu := { v with charged := true, plane := 127, sent := true, deadline := later (now s) (effTimeout s) }

/-- The pair slot under which a unit is sealed as it leaves, with its parish and number. -/
def leaveSlot (s : State) (u : Xu) : Option (BitVec 6 × Nat × PairSlot) := match u.parish, u.dests with
  | some q, [d] => match parSealed s q, sealSlot? s q d with
    | true, some (n, ps) => some (q, n, ps)
    | _, _ => none
  | _, _ => none

/-- A unit's transaction as it leaves, what replaces its payload on the wire, and the counter it is sealed under. -/
def leaveTxn (s : State) (u : Xu) : Txn × Option (List Byte) × BitVec 64 :=
  let t := { u.txn with epoch := epochBit s }
  match leaveSlot s u with
  | some (q, _, ps) => (sealTxn s q ps t, some (sealCipher s q ps t), ps.txCtr)
  | none => (t, none, 0)

/-- The counter of the slot that seals a unit advances. -/
def leaveCtr (u : Xu) (s : State) : State := match leaveSlot s u with
  | some (_, n, _) => advanceCtr n false s
  | none => s

/-- The cursor of a unit that is not bound to a plane moves on. -/
def leaveCursor (u : Xu) (mask : BitVec 96) (s : State) : State := match pinnedTo s u, u.dests with
  | none, _ :: _ => advanceCursor s (u.txn.cast != 0) u.dests mask
  | _, _ => s

/-- A unit's destinations are charged, and its command takes its signal slots. -/
def leaveCharge (u : Xu) (s : State) : State :=
  u.dests.foldl (fun s d => takeSigSlot u d.toNat (modSrcTally d.toNat (fun t => { t with sent := t.sent + BitVec.ofNat 32 u.lines }) s)) s

/-- How a unit leaves, in the steps above. -/
theorem launch_eq (u : Xu) (p : Nat) (s : State) : launch u p s =
    (let c := leaveCharge u s
     let w := leaveTxn c u
     let t := { w.1 with gv := w.1.cast == 0 }
     queueTxn p t (wireSlots t w.2.1) (some u.id)
       (leaveCursor u (unitMask s u) (modUnit u.id (asCharged (leaveCtr u c) p t w.2.2) (leaveCtr u c)))) := rfl

@[simp] theorem leaveCtr_charging (u : Xu) (s : State) : charging (leaveCtr u s) = charging s := by
  unfold leaveCtr
  split <;> simp

@[simp] theorem leaveCursor_charging (u : Xu) (mask : BitVec 96) (s : State) : charging (leaveCursor u mask s) = charging s := by
  unfold leaveCursor
  split <;> simp

theorem leaveCharge_charging (u : Xu) (s : State) (d : BitVec 9) (h : u.dests = [d]) :
    charging (leaveCharge u s) = charging (modSrcTally d.toNat (fun t => { t with sent := t.sent + BitVec.ofNat 32 u.lines }) s) := by
  simp [leaveCharge, h]

theorem asCharged_congr {s t : State} (h : charging t = charging s) (p : Nat) (x : Txn) (ctr : BitVec 64) :
    asCharged t p x ctr = asCharged s p x ctr := by
  have hnow : now t = now s := congrArg Charging.now h
  have hdue : effTimeout t = effTimeout s := congrArg Charging.due h
  funext v
  simp [asCharged, hnow, hdue]

/-- A unit to one destination that leaves: its lines are added to what has been sent there, and it is charged. -/
theorem launch_charges (u : Xu) (p : Nat) (s : State) (d : BitVec 9) (h : u.dests = [d]) :
    ∃ t ctr, (launch u p s).tx = (modUnit u.id (asCharged s p t ctr) s).tx ∧ (launch u p s).eng = s.eng ∧
      (launch u p s).tal.src = (modSrcTally d.toNat (fun t => { t with sent := t.sent + BitVec.ofNat 32 u.lines }) s).tal.src := by
  have hc := leaveCharge_charging u s d h
  have hr : charging (leaveCtr u (leaveCharge u s)) = charging (modSrcTally d.toNat (fun t => { t with sent := t.sent + BitVec.ofNat 32 u.lines }) s) := by
    rw [leaveCtr_charging, hc]
  rw [launch_eq]
  dsimp only
  rw [queueTxn_tx, queueTxn_eng, queueTxn_src, leaveCursor_charging, modUnit_charging, hr, asCharged_congr hr]
  exact ⟨_, _, rfl, rfl, rfl⟩

/-- A unit to the device itself that leaves stands before its own ingress, and its command is as it was. -/
theorem launchSelf_leaves (u : Xu) (s : State) (d : BitVec 9) (h : u.dests = [d]) :
    (launchSelf u s).tx = { (modUnit u.id (asOwn s) s).tx with locals := s.tx.locals ++ [{ u.txn with dest := ownId s }] } ∧
      (launchSelf u s).eng = s.eng := by
  unfold launchSelf
  simp only [h, List.foldl]
  rw [takeSigSlot_frame]
  exact ⟨rfl, rfl⟩

/-! ## STRIPE_ISSUE -/

theorem unit?_of_tx {s t : State} (h : t.tx = s.tx) (n : Nat) : unit? t n = unit? s n := by simp [unit?, h]

theorem restful_of_eng {s t : State} (h : t.eng = s.eng) {use : UnitFor} (hr : restful s use) : restful t use :=
  fun id c hu hc => hr id c hu (by rw [← cmd_of_eng s t id h]; exact hc)

/-- A command of which a unit is found has a transaction in flight. -/
theorem unitsOf_of_unit {s : State} {n id : Nat} {v : Xu} (h : unit? s n = some v) (hv : v.use = .cmd id) : unitsOf s id ≠ [] := by
  refine List.ne_nil_of_mem (a := v) (List.mem_filter.2 ⟨List.mem_of_find?_eq_some h, ?_⟩)
  simp [hv]

theorem leaveEmpty_none (u : Xu) (s : State)
    (h : ∀ id c, u.use = .cmd id → cmd? s id = some c → pkOp c.pkt = opMput → emptyMembers s c u.dests = []) : leaveEmpty u s = s := by
  unfold leaveEmpty
  split
  · next id hu =>
    split
    · next c hc =>
      by_cases hm : pkOp c.pkt = opMput
      · simp [h id c hu hc hm]
      · simp [hm]
    · rfl
  · rfl

theorem issue_eq_issueFirst (d : BitVec 9) (s : State) (u : Xu) (hw : waitingFor s d = some u) (hrun : running s = true)
    (he : leaveEmpty u s = s) : issue d s = issueFirst d s := by simp [issue, hw, hrun, he]

theorem issueFirst_own (d : BitVec 9) (s : State) (u : Xu) (hw : waitingFor s d = some u) (hrun : running s = true) (hd : u.dests = [ownId s]) :
    issueFirst d s = feedUnit u.use (launchSelf u s) := by simp [issueFirst, hw, hrun, hd]

theorem issueFirst_remote (d : BitVec 9) (s : State) (u : Xu) (p : Nat) (hw : waitingFor s d = some u) (hrun : running s = true)
    (hd : u.dests = [d]) (hne : d ≠ ownId s) (hfirst : firstWaiting s u = true) (hcharge : mayCharge s u d = true) (hp : unitPlane s u = some p) :
    issueFirst d s = feedUnit u.use (launch u p s) := by simp [issueFirst, hw, hrun, hd, hne, hfirst, hcharge, hp]

/-- What the sender does once its unit, changed by `f`, has left: transactions and tallies stay as the unit left them. -/
theorem feedUnit_after (u : Xu) (s r : State) (f : Xu → Xu) (hf : ∀ v, (f v).id = v.id ∧ (f v).use = v.use) (hrest : restful s u.use)
    (hu : unit? s u.id = some u) (htx : r.tx.units = (modUnit u.id f s).tx.units) (heng : r.eng = s.eng) :
    unit? r u.id = some (f u) ∧ sending (feedUnit u.use r) = sending r := by
  have hv : unit? r u.id = some (f u) := by
    unfold unit?
    rw [htx]
    exact (unit?_modUnit u.id f (fun v => (hf v).1) s).trans (by rw [hu]; rfl)
  exact ⟨hv, feedUnit_sending u.use r (restful_of_eng heng hrest) fun id hid => unitsOf_of_unit hv ((hf u).2.trans hid)⟩

theorem srcTally_of_src {s t : State} (h : t.tal.src = s.tal.src) (d : Nat) : srcTally t d = srcTally s d := by simp [srcTally, h]

theorem srcTally_modSrcTally (d : Nat) (f : SrcTally → SrcTally) (s : State) : srcTally (modSrcTally d f s) d = f (srcTally s d) := by
  simp [srcTally, modSrcTally, get_put]

/-- Settles O19: what leaves is charged as R17 and R235 say, and a sender with nothing to do at once leaves it so. -/
theorem stripesAreIssued : Obligations.StripesAreIssued := by
  unfold Obligations.StripesAreIssued
  intro d s u hw hrun hrest hunit hmput
  have hissue := issue_eq_issueFirst d s u hw hrun (leaveEmpty_none u s hmput)
  refine ⟨fun hown => ⟨issue d s, rfl, issue_kept d s, ?_⟩, fun p hd hne hfirst hcharge hp => ⟨issue d s, rfl, issue_kept d s, ?_⟩⟩
  · rw [hissue, issueFirst_own d s u hw hrun hown]
    obtain ⟨htx, heng⟩ := launchSelf_leaves u s (ownId s) hown
    obtain ⟨hv, hsend⟩ := feedUnit_after u s (launchSelf u s) (asOwn s) (fun _ => ⟨rfl, rfl⟩) hrest hunit (by rw [htx]) heng
    refine ⟨?_, asOwn s u, ?_, rfl, rfl, rfl⟩
    · rw [sending_tx hsend, htx]
    · rw [unit?_of_tx (sending_tx hsend), hv]
  · rw [hissue, issueFirst_remote d s u p hw hrun hd hne hfirst hcharge hp]
    obtain ⟨x, ctr, htx, heng, hsrc⟩ := launch_charges u p s d hd
    obtain ⟨hv, hsend⟩ := feedUnit_after u s (launch u p s) (asCharged s p x ctr) (fun _ => ⟨rfl, rfl⟩) hrest hunit (by rw [htx]) heng
    refine ⟨?_, ?_, asCharged s p x ctr u, ?_, rfl, rfl, rfl⟩
    · rw [srcTally_of_src (congrArg Tal.src (sending_tal hsend)), srcTally_of_src hsrc, srcTally_modSrcTally]
    · rw [sending_tx hsend, htx]
      rfl
    · rw [unit?_of_tx (sending_tx hsend), hv]

end Sys2Proof.Proofs

namespace Sys2Proof.Proofs

open Sys2Proof.Machine Sys2Proof.Safety Sys2Proof.Laws

/-! ## What an arrival is checked and translated with -/

/-- What an arrival is checked and translated with: ports, parishes, windows, fences, ranges, reads in progress, watchpoints, signals. -/
structure Ingress where
  gbl     : Gbl
  par     : List (Nat × Parish)
  entries : List (Nat × Win)
  route   : Route
  ter     : Ter
  memp    : Memp
  obs     : Obs
  sig     : Sig

/-- What a state has of them. -/
def ingress (s : State) : Ingress := ⟨s.gbl, s.par, s.wins.entries, s.route, s.ter, s.memp, s.obs, s.sig⟩

@[simp] theorem ingress_mk (part otp pins gbl alm pwr flt ree stw chn eng memp ter wins dap route tal tx brn sig groups lnk mil par obs cur mem free pending) :
    ingress ⟨part, otp, pins, gbl, alm, pwr, flt, ree, stw, chn, eng, memp, ter, wins, dap, route, tal, tx, brn, sig, groups, lnk, mil, par, obs, cur,
      mem, free, pending⟩ = ⟨gbl, par, wins.entries, route, ter, memp, obs, sig⟩ := rfl

@[simp] theorem ingress_fold (s : State) : Ingress.mk s.gbl s.par s.wins.entries s.route s.ter s.memp s.obs s.sig = ingress s := rfl

@[simp] theorem ingress_ite (c : Prop) [Decidable c] (a b : State) : ingress (if c then a else b) = if c then ingress a else ingress b := by
  split <;> rfl

theorem lookup_congr {s r : State} (hpar : r.par = s.par) (hter : r.ter = s.ter) (hmemp : r.memp = s.memp) (q : BitVec 6) (va : Nat) :
    lookup r q va = lookup s q va := by
  simp [lookup, cached?, badRoot, terMode, parish, hpar, hter, hmemp]

theorem windowCheck_congr {s r : State} (hgbl : r.gbl = s.gbl) (hwin : r.wins.entries = s.wins.entries) (hroute : r.route = s.route) (t : Txn) :
    windowCheck r t = windowCheck s t := by
  have hen : winEn r = winEn s := by simp [winEn, hgbl]
  have hcount : winCount r = winCount s := by simp [winCount, hgbl]
  have hown : ownId r = ownId s := by simp [ownId, hgbl]
  have hentry : win r = win s := by funext h; simp [win, hwin]
  have hfence : fence r = fence s := by funext d; simp [fence, hroute]
  simp only [windowCheck, hen, hcount, hown, hentry, hfence]

/-! ## Operations that leave it alone -/

@[simp] theorem modTgtTally_ingress (d : Nat) (f : TgtTally → TgtTally) (s : State) : ingress (modTgtTally d f s) = ingress s := rfl

@[simp] theorem touchWindow_ingress (h : Nat) (s : State) : ingress (touchWindow h s) = ingress s := by simp [touchWindow]

@[simp] theorem issueGrant_ingress (d : Nat) (s : State) : ingress (issueGrant d s) = ingress s := by simp [issueGrant]

@[simp] theorem issueAll_ingress (s : State) : ingress (issueAll s) = ingress s := keeps_foldl ingress _ s (fun s d => issueGrant_ingress d s) _

@[simp] theorem releaseLines_ingress (d n : Nat) (s : State) : ingress (releaseLines d n s) = ingress s := by simp [releaseLines, advanceFreed]

@[simp] theorem endArrival_ingress (a : Arrival) (s : State) : ingress (endArrival a s) = ingress s := by simp [endArrival]

@[simp] theorem modSlot_ingress (n : Nat) (f : PairSlot → PairSlot) (s : State) : ingress (modSlot n f s) = ingress s := rfl

@[simp] theorem note_ingress (kind cause gen : Nat) (q : BitVec 6) (peer : BitVec 9) (tag : BitVec 16) (detail detail2 : Nat) (s : State) :
    ingress (note kind cause gen q peer tag detail detail2 s) = ingress s := rfl

@[simp] theorem advanceCtr_ingress (n : Nat) (ans : Bool) (s : State) : ingress (advanceCtr n ans s) = ingress s := by simp [advanceCtr]

@[simp] theorem queueTxn_ingress (p : Nat) (t : Txn) (slots : List (BitVec 256)) (unit : Option Nat) (s : State) :
    ingress (queueTxn p t slots unit s) = ingress s := rfl

@[simp] theorem sendUncharged_ingress (via : Via) (t : Txn) (s : State) : ingress (sendUncharged via t s) = ingress s := by
  unfold sendUncharged
  (repeat' split) <;> simp

@[simp] theorem authAnswer_ingress (q : BitVec 6) (gen : BitVec 8) (answered : BitVec 64) (t : Txn) (s : State) :
    ingress (authAnswer q gen answered t s).2 = ingress s := by
  unfold authAnswer
  (repeat' split) <;> simp

@[simp] theorem answer_ingress (via : Via) (q : BitVec 6) (t : Txn) (k : Nat) (st : BitVec 8) (s : State) :
    ingress (answer via q t k st s) = ingress s := by
  unfold answer
  split <;> simp

@[simp] theorem answerArrival_ingress (a : Arrival) (k : Nat) (st : BitVec 8) (s : State) : ingress (answerArrival a k st s) = ingress s := by
  simp [answerArrival]

theorem acceptGrant_frame (d : Nat) (g : BitVec 32) (s : State) : acceptGrant d g s = { s with tal := (acceptGrant d g s).tal } := by
  unfold acceptGrant
  dsimp only
  split <;> rfl

/-- A release frees nothing where no signal is pending. -/
theorem releaseEntry_none (src : BitVec 9) (tag : BitVec 16) (s : State) (h : s.sig.ents = []) : releaseEntry src tag s = s := by
  have hsig : { s.sig with ents := [] } = s.sig := by rw [← h]
  simp only [releaseEntry, h, List.filter_nil, hsig]

theorem takeHeader_frame (t : Txn) (s : State) (h : s.sig.ents = []) : takeHeader t s = { s with tal := (takeHeader t s).tal } := by
  have hents : (if t.gv then acceptGrant t.src.toNat t.grant s else s).sig.ents = [] := by
    split
    · rw [acceptGrant_frame]
      exact h
    · exact h
  unfold takeHeader
  dsimp only
  rw [releaseEntry_none _ _ _ hents, ite_self]
  split
  · exact acceptGrant_frame _ _ s
  · rfl

theorem highWater_frame (s : State) : highWater s = { s with brn := { s.brn with highWater := (highWater s).brn.highWater } } := by
  unfold highWater
  dsimp only
  split <;> rfl

/-! ## Landing -/

/-- What a transaction that lands becomes. -/
def entering (s : State) (via : Via) (t : Txn) : Arrival :=
  { id := s.brn.nextId, via := via, txn := t, lines := landLines via t, state := .window, parish := tagParish s t.ptag, waitEnd := waitEnd s }

/-- `a` is the only arrival. -/
def alone (a : Arrival) (s : State) : State := { s with brn := { s.brn with arrivals := [a] } }

theorem modArrival_alone (a : Arrival) (f : Arrival → Arrival) (s : State) : modArrival a.id f (alone a s) = alone (f a) s := by
  simp [modArrival, alone, modFirst]

theorem arrival?_alone (a : Arrival) (s : State) : arrival? (alone a s) a.id = some a := by simp [arrival?, alone]

theorem enterBarn_alone (via : Via) (t : Txn) (f : Arrival → State → State) (s : State) (h : s.brn.arrivals = []) :
    ∃ r, enterBarn via t (landLines via t) f s = f (entering s via t) (alone (entering s via t) r) ∧ ingress r = ingress s ∧ r.wins = s.wins := by
  unfold enterBarn
  simp only [h, List.nil_append]
  split
  · exact ⟨{ s with brn := { s.brn with nextId := s.brn.nextId + 1 } }, rfl, rfl, rfl⟩
  · rw [highWater_frame]
    generalize (highWater _).brn.highWater = n
    exact ⟨modTgtTally t.src.toNat (fun x => { x with held := x.held + landLines via t })
      { s with brn := { s.brn with nextId := s.brn.nextId + 1, highWater := n } }, rfl, rfl, rfl⟩

theorem landCharged_self (t : Txn) (onOver : State → State) (f : Arrival → State → State) (s : State) (h : lands s .self t) :
    landCharged .self t onOver f s = enterBarn .self t 0 f { s with tx := { s.tx with locals := dropFirst (fun x => x == t) s.tx.locals } } := by
  obtain ⟨⟨hrun, hlocal⟩, -⟩ := h
  have hgo : (!(running s) || !(s.tx.locals.contains t)) = false := by rw [hrun, hlocal]; rfl
  simp only [landCharged, hgo, Bool.false_eq_true, if_false]

theorem landCharged_link (p : BitVec 7) (t : Txn) (onOver : State → State) (f : Arrival → State → State) (s : State) (h : lands s (.link p) t)
    (hents : s.sig.ents = []) : landCharged (.link p) t onOver f s = enterBarn (.link p) t (txLines t) f (takeHeader t s) := by
  obtain ⟨⟨hhears, hvalid, hsrc, hus, hform⟩, hovers, hover⟩ := h
  have hgo : (!(linkHears s p && s.gbl.fabricValid) || t.src == ownId s || !(forUs s t)) = false := by simp [hhears, hvalid, hsrc, hus]
  have hlink : link (takeHeader t s) p.toNat = link s p.toNat := by rw [takeHeader_frame t s hents]; rfl
  simp only [landCharged, hgo, hlink, hovers, hover, hform, Bool.false_eq_true, if_false]

/-- A transaction that lands with nothing else at the ingress is the only arrival. -/
theorem landCharged_alone (via : Via) (t : Txn) (onOver : State → State) (f : Arrival → State → State) (s : State) (hl : lands s via t)
    (harr : s.brn.arrivals = []) (hents : s.sig.ents = []) :
    ∃ r, landCharged via t onOver f s = f (entering s via t) (alone (entering s via t) r) ∧ ingress r = ingress s ∧ r.wins = s.wins := by
  cases via with
  | self =>
    rw [landCharged_self t onOver f s hl]
    exact enterBarn_alone .self t f { s with tx := { s.tx with locals := dropFirst (fun x => x == t) s.tx.locals } } harr
  | link p =>
    rw [landCharged_link p t onOver f s hl hents, takeHeader_frame t s hents]
    exact enterBarn_alone (.link p) t f { s with tal := (takeHeader t s).tal } harr

/-! ## The window stage -/

theorem windowStage_cached (a : Arrival) (s : State) (hf : fencedWhole s a.txn.src = false)
    (hc : s.wins.cached.contains (txWindow a.txn).toNat = true) : windowStage a s = checkArrival a (touchWindow (txWindow a.txn).toNat s) := by
  simp only [windowStage, hf, hc, Bool.or_true, Bool.false_eq_true, if_false, if_true]

/-- An arrival under the parish of its window. -/
def inParish (s : State) (a : Arrival) : Arrival := { a with parish := (win s (txWindow a.txn).toNat).parish }

theorem checkArrival_passes (a : Arrival) (s : State) (hf : fencedWhole s a.txn.src = false)
    (hsig : a.txn.kind.toNat = kSignal → (ent? s a.txn.src a.txn.tag).any (fun e => e.state != .pending || e.sig.isSome) = false)
    (hw : windowCheck s a.txn = stOk) : checkArrival a s = passedArrival (inParish s a) (modArrival a.id (fun _ => inParish s a) s) := by
  have hfence : ¬ (a.txn.src ≠ ownId s ∧ (fence s a.txn.src.toNat).device = true) := by simpa [fencedWhole] using hf
  have hent : ¬ (a.txn.kind.toNat = kSignal ∧ ((ent? s a.txn.src a.txn.tag).any fun e => e.state != .pending || e.sig.isSome) = true) := by
    rintro ⟨hk, he⟩
    rw [hsig hk] at he
    cases he
  simp only [checkArrival, hfence, hent, hw, if_false, if_true]
  rfl

/-- A transaction of the device itself, or an unsealed one of an unsealed parish, is open as it is. -/
theorem openTxn_plain (q : BitVec 6) (t : Txn) (s : State) (h : t.src = ownId s ∨ (parSealed s q = false ∧ t.sealSlot = none)) :
    openTxn q t s = (.plain t, s) := by
  rcases h with h | ⟨hq, hs⟩
  · simp [openTxn, h]
  · by_cases hsrc : t.src = ownId s <;> simp [openTxn, hsrc, hq, hs]

theorem passedArrival_xlate (a : Arrival) (s : State) (ho : openTxn a.parish a.txn s = (.plain a.txn, s)) (hk : a.txn.kind.toNat ≠ kSignal)
    (hcoded : a.txn.coded = false) (hcount : a.txn.count = 0) : passedArrival a s = xlateArrival a.id (modArrival a.id (fun _ => a) s) := by
  simp [passedArrival, ho, hk, codingUnfit, hcoded, hcount]

/-- The signal that a SIGNAL brings, recorded in its entry (R44). -/
def withSignal (a : Arrival) (e : SigEnt) : SigEnt :=
  { e with sig := some (a.txn.sigCtl, a.txn.sigValue, a.txn.expected.toNat), window := txWindow a.txn, parish := a.parish, via := a.via, auth := a.txn.sealSlot }

theorem passedArrival_signal (a : Arrival) (s : State) (ho : openTxn a.parish a.txn s = (.plain a.txn, s)) (hk : a.txn.kind.toNat = kSignal) :
    passedArrival a s = handOver a.txn.src a.txn.tag (answerArrival a kAck stOk
      (modEnt a.txn.src a.txn.tag (withSignal a) (modArrival a.id (fun _ => a) s))) := by
  simp only [passedArrival, ho, hk, if_true]
  rfl

/-! ## Translation of one run in one range -/

/-- One run of bytes in one cached RESIDENT range translates to one range. -/
theorem translate_resident (s : State) (q : BitVec 6) (m va n pa upto : Nat) (hn : 0 < n) (hupto : va + n ≤ upto)
    (hl : lookup s q va = .resident pa upto) :
    Machine.translate s q (m + 3) { spans := [{ va := va, len := n }], ranges := [], bads := [], miss := none }
      = { spans := [], ranges := [{ va := va, len := n, pa := pa }], bads := [], miss := none } := by
  have hk : min n (upto - va) = n := by omega
  have hn0 : n ≠ 0 := by omega
  simp [Machine.translate, hl, hk, hn0, addRange]

theorem physAll_one (va n pa : Nat) (hn : 0 < n) : physAll [{ va := va, len := n, pa := pa }] [(va, n)] = [(pa, n)] := by
  have hn0 : n ≠ 0 := by omega
  simp [physAll, physOf, hn0, hn]

theorem touchCache_frame (q : BitVec 6) (va : Nat) (s : State) : touchCache q va s = { s with ter := (touchCache q va s).ter } := by
  unfold touchCache
  split <;> rfl

theorem touchCache_alone (q : BitVec 6) (va : Nat) (a : Arrival) (s : State) : touchCache q va (alone a s) = alone a (touchCache q va s) := by
  unfold touchCache
  have hc : cached? (alone a s) q va = cached? s q va := rfl
  rw [hc]
  split <;> rfl

theorem linkAhead_alone (a b : Arrival) (s : State) (h : b.id = a.id) : linkAhead (alone a s) b = false := by simp [linkAhead, alone, h]

theorem withArrival_alone (a : Arrival) (f : Arrival → State → State) (s : State) : withArrival a.id f (alone a s) = f a (alone a s) := by
  simp [withArrival, arrival?_alone]

/-- `a` translated to `n` bytes at `pa`. -/
def inRange (a : Arrival) (va n pa : Nat) : Arrival := { a with ranges := [{ va := va, len := n, pa := pa }] }

/-- The only arrival, whose one run stands in one cached RESIDENT range, goes on translated (R143). -/
theorem xlateArrival_resident (a : Arrival) (s : State) (va n pa upto : Nat) (hv : arrVirt s a = [(va, n)]) (hn : 0 < n) (hupto : va + n ≤ upto)
    (hl : lookup s a.parish va = .resident pa upto) :
    xlateArrival a.id (alone a s) = arrReady (inRange a va n pa) (alone (inRange a va n pa) (touchCache a.parish va s)) := by
  have hfuel : ∃ m, xlFuel (alone a s) [{ va := va, len := n }] = m + 3 := ⟨_, (Nat.sub_add_cancel (by simp [xlFuel]; omega)).symm⟩
  obtain ⟨m, hm⟩ := hfuel
  have hspans : (arrVirt (alone a s) a).map (fun p => ({ va := p.1, len := p.2 } : Span)) = [{ va := va, len := n }] :=
    congrArg (List.map fun p => ({ va := p.1, len := p.2 } : Span)) hv
  have hx := translate_resident (alone a s) a.parish m va n pa upto hn hupto hl
  have hahead := linkAhead_alone a { a with ranges := [{ va := va, len := n, pa := pa }] } s rfl
  simp only [xlateArrival, arrival?_alone, hspans, hm, hx, hahead, Bool.and_false, Bool.false_eq_true, if_false, List.foldl, touchCache_alone,
    modArrival_alone]
  exact withArrival_alone (inRange a va n pa) arrReady (touchCache a.parish va s)

/-! ## A request that passes its window -/

/-- The entry that the first transaction of a signalled command makes (R44). -/
def freshEnt (t : Txn) (q : BitVec 6) (holdEnd : Time) : SigEnt :=
  { src := t.src, tag := t.tag, holdEnd := holdEnd, window := txWindow t, parish := q }

theorem makeEnt_first (t : Txn) (s : State) (h : s.sig.ents = []) :
    makeEnt t s = { s with sig := { s.sig with ents := [freshEnt t (tagParish s t.ptag) (waitEnd s)] } } := by
  simp [makeEnt, ent?, h, freshEnt]

/-- The signals pending when a request that landed alone comes to its window: none, or its own, fresh. -/
def OwnEnt (s r : State) (k : Nat) (t : Txn) : Prop :=
  ingress r = { ingress s with sig := { s.sig with ents := r.sig.ents } } ∧ (k = kSignal → ∃ q holdEnd, r.sig.ents = [freshEnt t q holdEnd])

/-- What landing does to the table of pending signals. -/
def withOwnEnt (k : Nat) (t : Txn) (s : State) : State := if (txData t && t.signalled) || k == kSignal then makeEnt t s else s

theorem withOwnEnt_alone (k : Nat) (t : Txn) (s r : State) (a : Arrival) (hr : ingress r = ingress s) (hents : s.sig.ents = []) :
    ∃ u, withOwnEnt k t (alone a r) = alone a u ∧ OwnEnt s u k t ∧ u.wins = r.wins := by
  have hsig : r.sig = s.sig := congrArg Ingress.sig hr
  have hnone : (alone a r).sig.ents = [] := by rw [← hents, ← hsig]; rfl
  unfold withOwnEnt
  by_cases hc : ((txData t && t.signalled) || k == kSignal) = true
  · rw [if_pos hc, makeEnt_first t _ hnone]
    refine ⟨{ r with sig := { r.sig with ents := [freshEnt t (tagParish (alone a r) t.ptag) (waitEnd (alone a r))] } }, rfl, ⟨?_, fun _ => ⟨_, _, rfl⟩⟩, rfl⟩
    rw [← hr, ← hsig]
    rfl
  · rw [if_neg hc]
    refine ⟨r, rfl, ⟨?_, fun hk => absurd (by simp [hk]) hc⟩, rfl⟩
    rw [← hr, ← hsig]
    rfl

theorem fencedWhole_congr {s r : State} (hgbl : r.gbl = s.gbl) (hroute : r.route = s.route) (d : BitVec 9) : fencedWhole r d = fencedWhole s d := by
  simp [fencedWhole, ownId, fence, hgbl, hroute]

theorem win_congr {s r : State} (h : r.wins.entries = s.wins.entries) : win r = win s := by
  funext n
  simp [win, h]

/-- No signal has been recorded in the entry that a SIGNAL itself makes. -/
theorem OwnEnt.unsignalled {s r : State} {k : Nat} {t : Txn} (h : OwnEnt s r k t) (hk : k = kSignal) :
    (ent? r t.src t.tag).any (fun e => e.state != .pending || e.sig.isSome) = false := by
  obtain ⟨q, holdEnd, he⟩ := h.2 hk
  simp [ent?, he, isEnt, freshEnt]

theorem touchWindow_alone (h : Nat) (a : Arrival) (s : State) : touchWindow h (alone a s) = alone a (touchWindow h s) := by
  have hcount : winCount (alone a s) = winCount s := rfl
  unfold touchWindow
  rw [hcount]
  split <;> rfl

/-- The only arrival, whose window is cached and takes it, goes on under its window's parish (R16 step 1, R128). -/
theorem windowStage_passes (s u : State) (k : Nat) (a : Arrival) (hu : OwnEnt s u k a.txn) (hk : a.txn.kind.toNat = k)
    (hcached : u.wins.cached.contains (txWindow a.txn).toNat = true) (hfenced : fencedWhole s a.txn.src = false)
    (hcheck : windowCheck s a.txn = stOk) :
    ∃ v, windowStage a (alone a u) = passedArrival (inParish s a) (alone (inParish s a) v) ∧ ingress v = ingress u := by
  have hgbl : u.gbl = s.gbl := congrArg Ingress.gbl hu.1
  have hroute : u.route = s.route := congrArg Ingress.route hu.1
  have hentries : u.wins.entries = s.wins.entries := congrArg Ingress.entries hu.1
  obtain ⟨v, hv⟩ : ∃ v, touchWindow (txWindow a.txn).toNat u = v := ⟨_, rfl⟩
  have hvu : ingress v = ingress u := by rw [← hv, touchWindow_ingress]
  have hvents : v.sig = u.sig := congrArg Ingress.sig hvu
  have hvgbl : (alone a v).gbl = s.gbl := (congrArg Ingress.gbl hvu).trans hgbl
  have hvroute : (alone a v).route = s.route := (congrArg Ingress.route hvu).trans hroute
  have hventries : (alone a v).wins.entries = s.wins.entries := (congrArg Ingress.entries hvu).trans hentries
  have hent : ent? (alone a v) a.txn.src a.txn.tag = ent? u a.txn.src a.txn.tag := by
    show v.sig.ents.find? _ = u.sig.ents.find? _
    rw [hvents]
  have hparish : inParish (alone a v) a = inParish s a := by rw [inParish, win_congr hventries]; rfl
  refine ⟨v, ?_, hvu⟩
  rw [windowStage_cached a (alone a u) ((fencedWhole_congr hgbl hroute _).trans hfenced) hcached, touchWindow_alone, hv,
    checkArrival_passes a (alone a v) ((fencedWhole_congr hvgbl hvroute _).trans hfenced)
      (fun h => by rw [hent]; exact hu.unsignalled (hk ▸ h)) ((windowCheck_congr hvgbl hventries hvroute _).trans hcheck),
    hparish]
  exact congrArg (passedArrival (inParish s a)) (modArrival_alone a (fun _ => inParish s a) v)

/-- A request that lands alone and that its window takes is checked and goes on. -/
theorem landRequest_passes (k : Nat) (via : Via) (x : Txn) (s : State) (pa n : Nat) (hl : lands s via x) (hr : reaches s x pa n)
    (hk : x.kind.toNat = k) :
    ∃ r, landRequest k via x s = passedArrival (inParish s (entering s via x)) (alone (inParish s (entering s via x)) r) ∧ OwnEnt s r k x := by
  obtain ⟨-, -, hcached, hdevice, hcheck, -, -, -, -, harr, -, hents, -⟩ := hr
  have hfenced : fencedWhole s x.src = false := by
    rcases hdevice with h | h <;> simp [fencedWhole, h]
  obtain ⟨r0, hland, hr0, hwins⟩ := landCharged_alone via x id (fun a s => windowStage a (withOwnEnt k x s)) s hl harr hents
  obtain ⟨u, hu, howned, huwins⟩ := withOwnEnt_alone k x s r0 (entering s via x) hr0 hents
  obtain ⟨v, hv, hvu⟩ := windowStage_passes s u k (entering s via x) howned hk (by rw [huwins, hwins]; exact hcached) hfenced hcheck
  have hvents : v.sig = u.sig := congrArg Ingress.sig hvu
  refine ⟨v, ?_, ?_⟩
  · have heq : landRequest k via x s = landCharged via x id (fun a s => windowStage a (withOwnEnt k x s)) s := by
      rw [landRequest, if_neg (Decidable.not_not.2 hk)]
      rfl
    rw [heq, hland, hu, hv]
  · rw [OwnEnt, hvu, hvents]
    exact howned

/-- What stands when a request is translated: the one arrival, its `n` bytes at `pa`, nothing watched and no atomic operation at work. -/
structure Ready (s : State) (x : Txn) (pa n : Nat) (a : Arrival) (r : State) : Prop where
  id      : a.id = s.brn.nextId
  txn     : a.txn = x
  turn    : a.turn = 0
  decoded : a.decoded = false
  only    : r.brn.arrivals = [a]
  phys    : arrPhys r a = [(pa, n)]
  watches : r.obs.watches = []
  ops     : r.sig.ops = []
  nextOp  : r.sig.nextId = s.sig.nextId

/-- A transaction that `reaches` lets in is open as it is, under its window's parish. -/
theorem OwnEnt.plain {s r : State} {k : Nat} {a : Arrival} (h : OwnEnt s r k a.txn)
    (hopen : a.txn.src = ownId s ∨ (parSealed s a.parish = false ∧ a.txn.sealSlot = none)) :
    openTxn a.parish a.txn (alone a r) = (.plain a.txn, alone a r) := by
  have hgbl : r.gbl = s.gbl := congrArg Ingress.gbl h.1
  have hpar : r.par = s.par := congrArg Ingress.par h.1
  have hown : ownId (alone a r) = ownId s := congrArg Gbl.fabricId hgbl
  have hsealed : parSealed (alone a r) a.parish = parSealed s a.parish := by simp [parSealed, parish, alone, hpar]
  refine openTxn_plain _ _ _ ?_
  rw [hown, hsealed]
  exact hopen

theorem OwnEnt.lookup {s r : State} {k : Nat} {t : Txn} (h : OwnEnt s r k t) (q : BitVec 6) (va : Nat) :
    Machine.lookup r q va = Machine.lookup s q va :=
  lookup_congr (congrArg Ingress.par h.1) (congrArg Ingress.ter h.1) (congrArg Ingress.memp h.1) q va

/-- A request, not a SIGNAL, that lands alone and that its window takes is translated. -/
theorem landRequest_ready (k : Nat) (via : Via) (x : Txn) (s : State) (pa n : Nat) (hl : lands s via x) (hr : reaches s x pa n)
    (hk : x.kind.toNat = k) (hns : k ≠ kSignal) : ∃ a r, landRequest k via x s = arrReady a r ∧ Ready s x pa n a r := by
  obtain ⟨r, hland, hown⟩ := landRequest_passes k via x s pa n hl hr hk
  obtain ⟨-, -, -, -, -, hopen, hcoded, hcount, ⟨off, upto, hacc, hn, hupto, hlook⟩, -, hops, -, hwatch⟩ := hr
  have hentries : r.wins.entries = s.wins.entries := congrArg Ingress.entries hown.1
  have hobs : r.obs = s.obs := congrArg Ingress.obs hown.1
  have hsig : r.sig = { s.sig with ents := r.sig.ents } := congrArg Ingress.sig hown.1
  obtain ⟨a, ha⟩ : ∃ a, inParish s (entering s via x) = a := ⟨_, rfl⟩
  have hax : a.txn = x := by rw [← ha]; rfl
  have haq : a.parish = (win s (txWindow x).toNat).parish := by rw [← ha]; rfl
  have hid : a.id = s.brn.nextId := by rw [← ha]; rfl
  have hturn : a.turn = 0 := by rw [← ha]; rfl
  have hdecoded : a.decoded = false := by rw [← ha]; rfl
  rw [ha] at hland
  obtain ⟨va, hva⟩ : ∃ va, (win s (txWindow x).toNat).vaBase.toNat + off = va := ⟨_, rfl⟩
  rw [hva] at hupto hlook
  have hvirt (b : Arrival) (u : State) (hb : b.txn = x) (hu : u.wins.entries = s.wins.entries) : arrVirt u b = [(va, n)] := by
    simp [arrVirt, hb, hacc, win_congr hu, hva]
  subst hax
  rw [hland, passedArrival_xlate a _ (hown.plain (by rw [haq]; exact hopen)) (by rw [hk]; exact hns) hcoded hcount, modArrival_alone,
    xlateArrival_resident a r va n pa upto (hvirt a r rfl hentries) hn hupto (by rw [hown.lookup, haq, hlook]), touchCache_frame]
  refine ⟨_, _, rfl, hid, rfl, hturn, hdecoded, rfl, ?_, ?_, ?_, ?_⟩
  · exact (congrArg (physAll _) (hvirt (inRange a va n pa) _ rfl hentries)).trans (physAll_one va n pa hn)
  · exact (congrArg Obs.watches hobs).trans hwatch
  · exact (congrArg Sig.ops hsig).trans hops
  · exact (congrArg Sig.nextId hsig).trans rfl

/-! ## What a translated request does -/

theorem watchArrival_none (a : Arrival) (s : State) (h : s.obs.watches = []) : watchArrival a s = s := by
  simp [watchArrival, watchWindow, watchTest, h]

theorem readArrival_unwatched (a : Arrival) (s : State) (h : s.obs.watches = []) :
    readArrival a s = issueRead (.target a.id) (arrPhys s a) 1 (some (arrAgent a.txn)) (spanUse a.parish (arrVirt s a))
      (modArrival a.id (fun x => { x with state := .reading, began := s.memp.nextId }) s) := watchArrival_none a _ h

theorem commitArrival_unwatched (a : Arrival) (bs : List Byte) (s : State) (h : s.obs.watches = []) : commitArrival a bs s = writeArrival a bs s :=
  watchArrival_none a _ h

theorem issueRead_reads (use : ReadFor) (parts : List (Nat × Nat)) (cls : BitVec 3) (agent : Option (BitVec 6)) (span : Option (BitVec 6 × Nat × Nat))
    (s : State) : ∃ r ∈ (issueRead use parts cls agent span s).memp.reads, r.use = use ∧ r.parts = parts :=
  ⟨_, List.mem_append_right _ (List.mem_singleton.2 rfl), rfl, rfl⟩

theorem issueWrite_writes (use : WriteFor) (cells : List (Nat × Byte)) (cls : BitVec 3) (wake : Bool) (agent : Option (BitVec 6))
    (span : Option (BitVec 6 × Nat × Nat)) (s : State) :
    ∃ w ∈ (issueWrite use cells cls wake agent span s).memp.writes, w.use = use ∧ w.cells = cells :=
  ⟨_, List.mem_append_right _ (List.mem_singleton.2 rfl), rfl, rfl⟩

theorem arrPhys_congr {s r : State} {a b : Arrival} (h : r.wins.entries = s.wins.entries) (htxn : b.txn = a.txn) (hranges : b.ranges = a.ranges) :
    arrPhys r b = arrPhys s a := by
  simp [arrPhys, arrVirt, win_congr h, htxn, hranges]

theorem decodeArrival_uncoded (s : State) (a : Arrival) (h : a.txn.coded = false) :
    decodeArrival s a = .bytes (a.txn.payload.take (txBytes a.txn)) := by simp [decodeArrival, decodeStripe, h]

/-- A read of the window's bytes: GET_REQUEST and LOAD. -/
theorem arrReady_reads (a : Arrival) (s : State) (h : a.txn.kind.toNat = kGetRequest ∨ a.txn.kind.toNat = kLoad) : arrReady a s = readArrival a s := by
  simp [arrReady, h]

/-- The bytes of PUT_DATA and STORE are committed as they came. -/
theorem arrReady_commits (a : Arrival) (s : State) (h : a.txn.kind.toNat = kPutData ∨ a.txn.kind.toNat = kStore) (hcoded : a.txn.coded = false)
    (hdecoded : a.decoded = false) : arrReady a s = commitArrival a (a.txn.payload.take (txBytes a.txn)) s := by
  rcases h with h | h
  · have hred : txReduce a.txn = false := by simp [txReduce, h, kPutData, kRputSum]
    simp [arrReady, h, hred, hdecoded, decodeArrival_uncoded s a hcoded, decodedBytes, kPutData, kGetRequest, kLoad, kStore, kAmo, kAmof]
  · simp [arrReady, h, kGetRequest, kLoad, kStore]

/-- A reduce stripe becomes a contribution. -/
theorem arrReady_combines (a : Arrival) (s : State) (h : txReduce a.txn = true) (hcoded : a.txn.coded = false) (hdecoded : a.decoded = false) :
    arrReady a s = startCombine a (contribution a.txn.format.toNat (.bytes (a.txn.payload.take (txBytes a.txn)))) s := by
  have hrange : kRputSum ≤ a.txn.kind.toNat ∧ a.txn.kind.toNat ≤ kRputWsum := by simpa [txReduce] using h
  have hread : ¬ (a.txn.kind.toNat = kGetRequest ∨ a.txn.kind.toNat = kLoad) := by simp only [kRputSum, kRputWsum, kGetRequest, kLoad] at *; omega
  have hstore : a.txn.kind.toNat ≠ kStore := by simp only [kRputSum, kRputWsum, kStore] at *; omega
  have hamo : ¬ (a.txn.kind.toNat = kAmo ∨ a.txn.kind.toNat = kAmof) := by simp only [kRputSum, kRputWsum, kAmo, kAmof] at *; omega
  simp only [arrReady, hread, hstore, hamo, hdecoded, decodeArrival_uncoded s a hcoded, h, if_false, if_true, Bool.false_eq_true]

/-- A contribution with its data and its turn (R263). -/
def inTurn (a : Arrival) (data : List Byte) (n : Nat) : Arrival := { a with data := data, state := .unit, turn := n }

theorem combineBusy_alone (a : Arrival) (s : State) : combineBusy (alone a s) a = false := by simp [combineBusy, alone]

/-- A contribution that finds no other at work takes the next turn and reads its target. -/
theorem startCombine_alone (a : Arrival) (data : List Byte) (s : State) (h : a.turn = 0) :
    ∃ n u, startCombine a data (alone a s) = readArrival (inTurn a data n) (alone (inTurn a data n) u) ∧ ingress u = ingress s := by
  refine ⟨s.brn.turns + 1, { s with brn := { s.brn with turns := max s.brn.turns (s.brn.turns + 1) } }, ?_, rfl⟩
  have hstep : startCombine a data (alone a s) =
      (let u := modArrival a.id (fun x => inTurn x data (s.brn.turns + 1))
          (alone a { s with brn := { s.brn with turns := max s.brn.turns (s.brn.turns + 1) } })
       if combineBusy u (inTurn a data (s.brn.turns + 1)) then u else readArrival (inTurn a data (s.brn.turns + 1)) u) := by
    unfold startCombine
    rw [if_pos h]
    rfl
  rw [hstep, modArrival_alone]
  dsimp only
  rw [combineBusy_alone]
  rfl

theorem alone_of_only (a : Arrival) (s : State) (h : s.brn.arrivals = [a]) : alone a s = s := by rw [alone, ← h]

theorem readArrival_alone (a : Arrival) (s : State) (h : s.obs.watches = []) :
    ∃ b, arrival? (readArrival a (alone a s)) a.id = some b ∧ b.state = .reading ∧ b.data = a.data := by
  rw [readArrival_unwatched a (alone a s) h, modArrival_alone]
  exact ⟨{ a with state := .reading, began := s.memp.nextId }, arrival?_alone { a with state := .reading, began := s.memp.nextId } s, rfl, rfl⟩

/-! ## The atomic unit -/

/-- An operation that stands alone in the unit has its read outstanding already, or issues it. -/
theorem opStart_alone (o : AtomOp) (s : State) (h : s.sig.ops = [o]) :
    (opReading s o = true ∧ opStart o s = s) ∨ opStart o s = issueRead (.atomic o.id) [(opWord o, 8)] 1 (some 49) none s := by
  have hahead : opAhead s o = none := by simp [opAhead, opsBefore, h]
  simp only [opStart, hahead]
  by_cases hr : opReading s o = true <;> simp [hr]

theorem opStart_keeps (o : AtomOp) (s : State) (h : s.sig.ops = [o]) : (opStart o s).sig = s.sig ∧ (opStart o s).tx = s.tx := by
  rcases opStart_alone o s h with ⟨-, h⟩ | h <;> rw [h] <;> exact ⟨rfl, rfl⟩

theorem opStart_reads (o : AtomOp) (s : State) (h : s.sig.ops = [o]) : ∃ r ∈ (opStart o s).memp.reads, r.use = .atomic o.id := by
  rcases opStart_alone o s h with ⟨hr, h⟩ | h
  · rw [h]
    simpa [opReading] using hr
  · obtain ⟨r, hr, hu, -⟩ := issueRead_reads (.atomic o.id) [(opWord o, 8)] 1 (some 49) none s
    exact ⟨r, h ▸ hr, hu⟩

/-- The operation that enters the unit next. -/
def opEntering (s : State) (use : AtomFor) (pa width : Nat) (subop : BitVec 8) (operand compare : Word) : AtomOp :=
  { id := s.sig.nextId, use := use, pa := pa, width := width, subop := subop, operand := operand, compare := compare, began := s.memp.nextId }

/-- An operation that enters the idle unit stands there alone, its read outstanding (R482). -/
theorem addOp_idle (use : AtomFor) (pa width : Nat) (subop : BitVec 8) (operand compare : Word) (s : State) (h : s.sig.ops = []) :
    (addOp use pa width subop operand compare s).sig =
        { s.sig with ops := [opEntering s use pa width subop operand compare], nextId := s.sig.nextId + 1 } ∧
      (addOp use pa width subop operand compare s).tx = s.tx ∧
      ∃ r ∈ (addOp use pa width subop operand compare s).memp.reads, r.use = .atomic s.sig.nextId := by
  have hadd : addOp use pa width subop operand compare s = opStart (opEntering s use pa width subop operand compare)
      { s with sig := { s.sig with ops := [opEntering s use pa width subop operand compare], nextId := s.sig.nextId + 1 } } := by
    rw [addOp, h]
    rfl
  rw [hadd]
  obtain ⟨hsig, htx⟩ := opStart_keeps (opEntering s use pa width subop operand compare)
    { s with sig := { s.sig with ops := [opEntering s use pa width subop operand compare], nextId := s.sig.nextId + 1 } } rfl
  exact ⟨hsig, htx, opStart_reads (opEntering s use pa width subop operand compare) _ rfl⟩

/-- An operation that has no value yet is not one to end. -/
theorem endSilent_none (s : State) (h : ∀ o ∈ s.sig.ops, o.old = none) : endSilent s = s := by
  have hnone : s.sig.ops.filter (fun o => o.old.isSome && !(opWrites o)) = [] :=
    List.filter_eq_nil_iff.2 fun o ho => by simp [h o ho]
  simp [endSilent, hnone]

/-- AMO and AMOF enter the atomic unit with their operands. -/
theorem arrReady_operates (a : Arrival) (s : State) (h : a.txn.kind.toNat = kAmo ∨ a.txn.kind.toNat = kAmof) (pa n : Nat)
    (hphys : arrPhys s a = [(pa, n)]) (hwatch : s.obs.watches = []) :
    arrReady a s = endSilent (addOp (.arrival a.id) pa n a.txn.subop a.txn.operand a.txn.compare
      (modArrival a.id (fun x => { x with state := .unit }) s)) := by
  have hread : ¬ (a.txn.kind.toNat = kGetRequest ∨ a.txn.kind.toNat = kLoad) := by simp only [kAmo, kAmof, kGetRequest, kLoad] at *; omega
  have hstore : a.txn.kind.toNat ≠ kStore := by simp only [kAmo, kAmof, kStore] at *; omega
  simp only [arrReady, hread, hstore, h, hphys, if_false, if_true]
  rw [watchArrival_none a (modArrival a.id (fun x => { x with state := .unit }) s) hwatch]

section Ready
variable {s r : State} {x : Txn} {pa n : Nat} {a : Arrival}

theorem Ready.reads (h : Ready s x pa n a r) : ∃ q ∈ (readArrival a r).memp.reads, q.use = .target s.brn.nextId ∧ q.parts = [(pa, n)] := by
  rw [readArrival_unwatched a r h.watches, h.phys, h.id]
  exact issueRead_reads _ _ _ _ _ _

theorem Ready.commits (h : Ready s x pa n a r) (bs : List Byte) :
    ∃ w ∈ (commitArrival a bs r).memp.writes, w.use = .commit s.brn.nextId ∧ w.cells = cellsOver [(pa, n)] bs := by
  rw [commitArrival_unwatched a bs r h.watches, writeArrival, ← h.phys, ← h.id]
  exact issueWrite_writes _ _ _ _ _ _ _

/-- A contribution that finds no other at work keeps its bytes and reads its target (R263). -/
theorem Ready.combines (h : Ready s x pa n a r) (data : List Byte) :
    (∃ b, arrival? (startCombine a data r) s.brn.nextId = some b ∧ b.state = .reading ∧ b.data = data) ∧
      ∃ q ∈ (startCombine a data r).memp.reads, q.use = .target s.brn.nextId ∧ q.parts = [(pa, n)] := by
  obtain ⟨m, u, hstart, hu⟩ := startCombine_alone a data r h.turn
  have hwatch : u.obs.watches = [] := (congrArg (fun i => i.obs.watches) hu).trans h.watches
  have hphys : arrPhys (alone (inTurn a data m) u) (inTurn a data m) = [(pa, n)] := by
    rw [← h.phys]
    exact arrPhys_congr (congrArg Ingress.entries hu) rfl rfl
  rw [← alone_of_only a r h.only, hstart]
  constructor
  · rw [← h.id]
    exact readArrival_alone (inTurn a data m) u hwatch
  · rw [readArrival_unwatched _ (alone (inTurn a data m) u) hwatch, hphys, ← h.id]
    exact issueRead_reads _ _ _ _ _ _

theorem Ready.operates (h : Ready s x pa n a r) (hk : x.kind.toNat = kAmo ∨ x.kind.toNat = kAmof) :
    (∃ o ∈ (arrReady a r).sig.ops, o.use = .arrival s.brn.nextId ∧ o.pa = pa ∧ o.width = n ∧ o.subop = x.subop ∧ o.operand = x.operand ∧
        o.compare = x.compare) ∧
      ∃ q ∈ (arrReady a r).memp.reads, q.use = .atomic s.sig.nextId := by
  obtain ⟨hsig, -, hread⟩ := addOp_idle (.arrival a.id) pa n a.txn.subop a.txn.operand a.txn.compare
    (modArrival a.id (fun x => { x with state := .unit }) r) h.ops
  rw [arrReady_operates a r (by rw [h.txn]; exact hk) pa n h.phys h.watches, endSilent_none _ (by rw [hsig]; simp [opEntering]), hsig]
  exact ⟨⟨_, List.mem_singleton.2 rfl, congrArg AtomFor.arrival h.id, rfl, rfl, congrArg Txn.subop h.txn, congrArg Txn.operand h.txn,
    congrArg Txn.compare h.txn⟩, h.nextOp ▸ hread⟩

end Ready

/-! ## Signals -/

theorem authAnswer_names (q : BitVec 6) (gen : BitVec 8) (answered : BitVec 64) (t : Txn) (s : State) :
    (authAnswer q gen answered t s).1.kind = t.kind ∧ (authAnswer q gen answered t s).1.tag = t.tag ∧ (authAnswer q gen answered t s).1.dest = t.dest := by
  unfold authAnswer
  split
  · exact ⟨rfl, rfl, rfl⟩
  · dsimp only
    split <;> exact ⟨rfl, rfl, rfl⟩

theorem sendUncharged_own (via : Via) (t : Txn) (s : State) (h : t.dest = ownId s) : t ∈ (sendUncharged via t s).tx.locals := by
  simp [sendUncharged, h]

theorem ownId_of_ingress {s r : State} (h : ingress r = ingress s) : ownId r = ownId s := congrArg (fun i => i.gbl.fabricId) h

/-- An answer to the device itself stands before its own ingress (R113). -/
theorem answer_own (via : Via) (q : BitVec 6) (t : Txn) (k : Nat) (st : BitVec 8) (s : State) (h : t.src = ownId s) :
    ∃ y ∈ (answer via q t k st s).tx.locals, y.kind = BitVec.ofNat 5 k ∧ y.tag = t.tag ∧ y.dest = t.src := by
  unfold answer
  split
  · exact ⟨_, sendUncharged_own via _ s h, rfl, rfl, rfl⟩
  · next g _ =>
    obtain ⟨hkind, htag, hdest⟩ := authAnswer_names q g.gen g.ctr (answerTo s t k st) s
    exact ⟨_, sendUncharged_own via _ _ (hdest.trans (h.trans (ownId_of_ingress (authAnswer_ingress _ _ _ _ _)).symm)), hkind, htag, hdest⟩

theorem modEnt_alone (e : SigEnt) (f : SigEnt → SigEnt) (s : State) (h : s.sig.ents = [e]) :
    (modEnt e.src e.tag f s).sig.ents = [f e] := by simp [modEnt, h, modFirst, isEnt]

theorem ent?_alone (e : SigEnt) (s : State) (h : s.sig.ents = [e]) : ent? s e.src e.tag = some e := by simp [ent?, h, isEnt]

/-- A signal with stripes to come waits for them (R44). -/
theorem handOver_waits (e : SigEnt) (s : State) (ctl v : Word) (m : Nat) (h : s.sig.ents = [e]) (hp : e.state = .pending)
    (hs : e.sig = some (ctl, v, m)) (hm : e.count < m) : handOver e.src e.tag s = s := by
  have hwaits : ¬ m ≤ e.count := Nat.not_le.2 hm
  simp [handOver, ent?_alone e s h, hp, hs, hwaits]

/-- A signal with no stripe to come is handed over (R485). -/
theorem handOver_hands (e : SigEnt) (s : State) (ctl v : Word) (m : Nat) (h : s.sig.ents = [e]) (hp : e.state = .pending)
    (hs : e.sig = some (ctl, v, m)) (hm : m ≤ e.count) :
    handOver e.src e.tag s = signalStart { e with state := .handed } (modEnt e.src e.tag (fun e => { e with state := .handed }) s) := by
  simp [handOver, ent?_alone e s h, hp, hs, hm]

/-- A handed signal whose word stands in a cached RESIDENT range begins its operation (R143, R485). -/
theorem signalStart_resident (e : SigEnt) (s : State) (ctl v : Word) (m pa upto : Nat) (hs : e.sig = some (ctl, v, m))
    (hl : lookup s e.parish ((win s e.window.toNat).vaBase.toNat + sigOffset ctl) = .resident pa upto) (hw : s.obs.watches = []) :
    signalStart e s = addOp (.signal e.src e.tag) pa 8 (BitVec.ofNat 8 (sigSubop (bits ctl 60 4))) v 0
      (touchCache e.parish ((win s e.window.toNat).vaBase.toNat + sigOffset ctl) s) := by
  have hnone (u : State) (h : u.obs.watches = []) : watchWindow e.window wAtomic e.src.toNat [(sigOffset ctl, 8)] u = u := by
    simp [watchWindow, watchTest, h]
  simp only [signalStart, hs, hl]
  rw [hnone _ (by rw [touchCache_frame]; exact hw)]

/-- A signal whose entry stands alone is handed over at once, or waits; what is to be answered is left as it is. -/
theorem handOver_alone (e : SigEnt) (s : State) (ctl v : Word) (m pa upto : Nat) (h : s.sig.ents = [e]) (hops : s.sig.ops = []) (hp : e.state = .pending)
    (hcount : e.count = 0) (hs : e.sig = some (ctl, v, m))
    (hl : lookup s e.parish ((win s e.window.toNat).vaBase.toNat + sigOffset ctl) = .resident pa upto) (hw : s.obs.watches = []) :
    (handOver e.src e.tag s).tx = s.tx ∧
      ∃ f, ent? (handOver e.src e.tag s) e.src e.tag = some f ∧ f.sig = e.sig ∧
        (if m = 0 then f.state = .handed ∧ ∃ o ∈ (handOver e.src e.tag s).sig.ops, o.use = .signal e.src e.tag ∧ o.pa = pa ∧ o.width = 8
          else f.state = .pending) := by
  by_cases hm : m = 0
  · obtain ⟨u, hu⟩ : ∃ u, modEnt e.src e.tag (fun e => { e with state := .handed }) s = u := ⟨_, rfl⟩
    have hents : u.sig.ents = [{ e with state := .handed }] := by rw [← hu, modEnt_alone e _ s h]
    have huops : u.sig.ops = [] := by rw [← hu]; exact hops
    have htx : u.tx = s.tx := by rw [← hu]; rfl
    have hstart := signalStart_resident { e with state := .handed } u ctl v m pa upto hs (by rw [← hu]; exact hl) (by rw [← hu]; exact hw)
    rw [touchCache_frame] at hstart
    obtain ⟨hsig, htx', -⟩ := addOp_idle (.signal e.src e.tag) pa 8 (BitVec.ofNat 8 (sigSubop (bits ctl 60 4))) v 0
      { u with ter := (touchCache e.parish ((win u e.window.toNat).vaBase.toNat + sigOffset ctl) u).ter } huops
    rw [handOver_hands e s ctl v m h hp hs (by omega), hu, hstart]
    simp only [if_pos hm]
    refine ⟨htx'.trans htx, { e with state := .handed }, ?_, rfl, rfl, ?_⟩
    · exact ent?_alone { e with state := .handed } _ ((congrArg Sig.ents hsig).trans hents)
    · rw [hsig]
      exact ⟨_, List.mem_singleton.2 rfl, rfl, rfl, rfl⟩
  · rw [handOver_waits e s ctl v m h hp hs (by omega)]
    exact ⟨rfl, e, ent?_alone e s h, rfl, by rw [if_neg hm]; exact hp⟩

/-- What a SIGNAL, checked under its window's parish, becomes: its entry `e` with the signal in it, in a state that has answered it. -/
theorem passedArrival_answers (s r : State) (a : Arrival) (e0 : SigEnt) (hown : OwnEnt s r kSignal a.txn) (hents : r.sig.ents = [e0])
    (hsrc : e0.src = a.txn.src) (htag : e0.tag = a.txn.tag) (hk : a.txn.kind.toNat = kSignal)
    (hopen : a.txn.src = ownId s ∨ (parSealed s a.parish = false ∧ a.txn.sealSlot = none)) :
    ∃ w, passedArrival a (alone a r) = handOver a.txn.src a.txn.tag w ∧
      ingress w = { ingress s with sig := { s.sig with ents := [withSignal a e0] } } ∧
      (a.txn.src = ownId s → ∃ y ∈ w.tx.locals, y.kind.toNat = kAck ∧ y.tag = a.txn.tag ∧ y.dest = a.txn.src) := by
  have hmod : ingress (modEnt a.txn.src a.txn.tag (withSignal a) (alone a r)) = { ingress s with sig := { s.sig with ents := [withSignal a e0] } } := by
    have he := modEnt_alone e0 (withSignal a) (alone a r) hents
    rw [hsrc, htag] at he
    have hsig : r.sig = { s.sig with ents := r.sig.ents } := congrArg Ingress.sig hown.1
    have hing : ingress (modEnt a.txn.src a.txn.tag (withSignal a) (alone a r)) =
        { ingress r with sig := { r.sig with ents := (modEnt a.txn.src a.txn.tag (withSignal a) (alone a r)).sig.ents } } := rfl
    rw [hing, he, hown.1, hsig]
  refine ⟨answerArrival a kAck stOk (modEnt a.txn.src a.txn.tag (withSignal a) (alone a r)), ?_, (answerArrival_ingress _ _ _ _).trans hmod, fun h => ?_⟩
  · rw [passedArrival_signal a _ (hown.plain hopen) hk, modArrival_alone]
  · have hid : a.txn.src = ownId (endArrival a (modEnt a.txn.src a.txn.tag (withSignal a) (alone a r))) :=
      h.trans (congrArg (fun i => i.gbl.fabricId) ((endArrival_ingress _ _).trans hmod)).symm
    obtain ⟨y, hy, hkind, hytag, hdest⟩ := answer_own a.via a.parish a.txn kAck stOk _ hid
    exact ⟨y, hy, by rw [hkind]; decide, hytag, hdest⟩

/-- The one run of a SIGNAL is its word (R106). -/
theorem txAccess_signal (t : Txn) (hk : t.kind.toNat = kSignal) : txAccess t = [(sigOffset t.sigCtl, 8)] := by
  simp [txAccess, hk, kSignal, kAmo, kAmof]

/-- A SIGNAL that lands alone and that its window takes is recorded and answered, and handed over where no stripe is expected (R44, R485). -/
theorem signal_lands (via : Via) (x : Txn) (s : State) (pa n : Nat) (hl : lands s via x) (hr : reaches s x pa n) (hk : x.kind.toNat = kSignal) :
    (∃ e, ent? (landRequest kSignal via x s) x.src x.tag = some e ∧ e.sig = some (x.sigCtl, x.sigValue, x.expected.toNat) ∧
        (if x.expected.toNat = 0 then e.state = .handed ∧
            ∃ o ∈ (landRequest kSignal via x s).sig.ops, o.use = .signal x.src x.tag ∧ o.pa = pa ∧ o.width = 8
          else e.state = .pending)) ∧
      (x.src = ownId s → ∃ a ∈ (landRequest kSignal via x s).tx.locals, a.kind.toNat = kAck ∧ a.tag = x.tag ∧ a.dest = x.src) := by
  obtain ⟨r, hland, hown⟩ := landRequest_passes kSignal via x s pa n hl hr hk
  obtain ⟨-, -, -, -, -, hopen, -, -, ⟨off, upto, hacc, -, -, hlook⟩, -, hops, -, hwatch⟩ := hr
  obtain ⟨q, holdEnd, hents⟩ := hown.2 rfl
  have hoff : off = sigOffset x.sigCtl := by
    rw [txAccess_signal x hk] at hacc
    simp only [List.cons.injEq, Prod.mk.injEq] at hacc
    exact hacc.1.1.symm
  obtain ⟨w, hw, hing, hack⟩ := passedArrival_answers s r (inParish s (entering s via x)) (freshEnt x q holdEnd) hown hents rfl rfl hk hopen
  have hsig : w.sig = { s.sig with ents := [withSignal (inParish s (entering s via x)) (freshEnt x q holdEnd)] } := congrArg Ingress.sig hing
  have hentries : w.wins.entries = s.wins.entries := congrArg Ingress.entries hing
  have hlookup : lookup w (win s (txWindow x).toNat).parish ((win w (txWindow x).toNat).vaBase.toNat + sigOffset x.sigCtl) = .resident pa upto := by
    rw [lookup_congr (congrArg Ingress.par hing) (congrArg Ingress.ter hing) (congrArg Ingress.memp hing), win_congr hentries, ← hoff, hlook]
  obtain ⟨htx, e, he, hesig, hstate⟩ := handOver_alone (withSignal (inParish s (entering s via x)) (freshEnt x q holdEnd)) w x.sigCtl x.sigValue
    x.expected.toNat pa upto (congrArg Sig.ents hsig) ((congrArg Sig.ops hsig).trans hops) rfl rfl rfl hlookup
    ((congrArg (fun i => i.obs.watches) hing).trans hwatch)
  have heq : landRequest kSignal via x s = handOver x.src x.tag w := hland.trans hw
  rw [heq]
  exact ⟨⟨e, he, hesig, hstate⟩, fun h => htx.symm ▸ hack h⟩

/-! ## What each kind of request does -/

theorem coded_of_reaches {s : State} {x : Txn} {pa n : Nat} (h : reaches s x pa n) : x.coded = false := by
  obtain ⟨-, -, -, -, -, -, hcoded, -⟩ := h
  exact hcoded

theorem request_commits (k : Nat) (via : Via) (x : Txn) (s : State) (pa n : Nat) (hl : lands s via x) (hr : reaches s x pa n)
    (hk : x.kind.toNat = k) (hc : k = kPutData ∨ k = kStore) :
    ∃ w ∈ (landRequest k via x s).memp.writes, w.use = .commit s.brn.nextId ∧ w.cells = cellsOver [(pa, n)] (x.payload.take (txBytes x)) := by
  obtain ⟨a, r, hland, h⟩ := landRequest_ready k via x s pa n hl hr hk (by rcases hc with rfl | rfl <;> decide)
  rw [hland]
  rw [arrReady_commits a r (by rw [h.txn, hk]; exact hc) (by rw [h.txn]; exact coded_of_reaches hr) h.decoded, h.txn]
  exact h.commits _

theorem request_reads (k : Nat) (via : Via) (x : Txn) (s : State) (pa n : Nat) (hl : lands s via x) (hr : reaches s x pa n)
    (hk : x.kind.toNat = k) (hc : k = kGetRequest ∨ k = kLoad) :
    ∃ r ∈ (landRequest k via x s).memp.reads, r.use = .target s.brn.nextId ∧ r.parts = [(pa, n)] := by
  obtain ⟨a, r, hland, h⟩ := landRequest_ready k via x s pa n hl hr hk (by rcases hc with rfl | rfl <;> decide)
  rw [hland]
  rw [arrReady_reads a r (by rw [h.txn, hk]; exact hc)]
  exact h.reads

theorem request_combines (k : Nat) (via : Via) (x : Txn) (s : State) (pa n : Nat) (hl : lands s via x) (hr : reaches s x pa n)
    (hk : x.kind.toNat = k) (hc : kRputSum ≤ k ∧ k ≤ kRputWsum) :
    (∃ a, arrival? (landRequest k via x s) s.brn.nextId = some a ∧ a.state = .reading ∧
        a.data = contribution x.format.toNat (.bytes (x.payload.take (txBytes x)))) ∧
      ∃ r ∈ (landRequest k via x s).memp.reads, r.use = .target s.brn.nextId ∧ r.parts = [(pa, n)] := by
  have hns : k ≠ kSignal := by simp only [kRputSum, kRputWsum, kSignal] at *; omega
  have hred : txReduce x = true := by simpa [txReduce, hk] using hc
  obtain ⟨a, r, hland, h⟩ := landRequest_ready k via x s pa n hl hr hk hns
  rw [hland]
  rw [arrReady_combines a r (by rw [h.txn]; exact hred) (by rw [h.txn]; exact coded_of_reaches hr) h.decoded, h.txn]
  exact h.combines _

theorem request_operates (k : Nat) (via : Via) (x : Txn) (s : State) (pa n : Nat) (hl : lands s via x) (hr : reaches s x pa n)
    (hk : x.kind.toNat = k) (hc : k = kAmo ∨ k = kAmof) :
    (∃ o ∈ (landRequest k via x s).sig.ops, o.use = .arrival s.brn.nextId ∧ o.pa = pa ∧ o.width = n ∧ o.subop = x.subop ∧
        o.operand = x.operand ∧ o.compare = x.compare) ∧
      ∃ r ∈ (landRequest k via x s).memp.reads, r.use = .atomic s.sig.nextId := by
  obtain ⟨a, r, hland, h⟩ := landRequest_ready k via x s pa n hl hr hk (by rcases hc with rfl | rfl <;> decide)
  rw [hland]
  exact h.operates (by rw [hk]; exact hc)

/-- The row of PUT_DATA lands a transaction of its own kind as every other row does. -/
theorem exec_putData (via : Via) (x : Txn) (s : State) (hk : x.kind.toNat = kPutData) :
    exec (.putData via x) s = .next (landRequest kPutData via x s) := by
  have hlisted : kindListed x.kind.toNat = true := by rw [hk]; decide
  show execPutData via x s = _
  rw [execPutData, if_pos hlisted]

/-- Settles O25: every request that `reaches` lets in lands alone, is translated, and does what its kind says. -/
theorem requestsReachTheirWindow : Obligations.RequestsReachTheirWindow := by
  unfold Obligations.RequestsReachTheirWindow
  intro via x s pa n hl hr
  refine ⟨?_, ?_, ?_, ?_, fun hk => ?_⟩
  · intro mk k hk hrow
    have hkept := landRequest_kept k via x s
    simp only [List.mem_cons, Prod.mk.injEq, List.not_mem_nil, or_false] at hrow
    rcases hrow with ⟨rfl, rfl⟩ | ⟨rfl, rfl⟩
    · exact ⟨_, exec_putData via x s hk, hkept, request_commits _ via x s pa n hl hr hk (.inl rfl)⟩
    · exact ⟨_, rfl, hkept, request_commits _ via x s pa n hl hr hk (.inr rfl)⟩
  · intro mk k hk hrow
    have hkept := landRequest_kept k via x s
    simp only [List.mem_cons, Prod.mk.injEq, List.not_mem_nil, or_false] at hrow
    rcases hrow with ⟨rfl, rfl⟩ | ⟨rfl, rfl⟩
    · exact ⟨_, rfl, hkept, request_reads _ via x s pa n hl hr hk (.inl rfl)⟩
    · exact ⟨_, rfl, hkept, request_reads _ via x s pa n hl hr hk (.inr rfl)⟩
  · intro mk k hk hrow
    have hkept := landRequest_kept k via x s
    simp only [List.mem_cons, Prod.mk.injEq, List.not_mem_nil, or_false] at hrow
    rcases hrow with ⟨rfl, rfl⟩ | ⟨rfl, rfl⟩ | ⟨rfl, rfl⟩ | ⟨rfl, rfl⟩ <;>
      exact ⟨_, rfl, hkept, request_combines _ via x s pa n hl hr hk (by decide)⟩
  · intro mk k hk hrow
    have hkept := landRequest_kept k via x s
    simp only [List.mem_cons, Prod.mk.injEq, List.not_mem_nil, or_false] at hrow
    rcases hrow with ⟨rfl, rfl⟩ | ⟨rfl, rfl⟩
    · exact ⟨_, rfl, hkept, request_operates _ via x s pa n hl hr hk (.inl rfl)⟩
    · exact ⟨_, rfl, hkept, request_operates _ via x s pa n hl hr hk (.inr rfl)⟩
  · exact ⟨landRequest kSignal via x s, rfl, landRequest_kept kSignal via x s, signal_lands via x s pa n hl hr hk⟩

end Sys2Proof.Proofs

namespace Sys2Proof.Proofs

open Sys2Proof.Machine Sys2Proof.Safety Sys2Proof.Laws

/-! ## How a packet command's row starts -/

theorem asOp_own {op : Nat} {pkt : List Word} (h : pkOp pkt = op) (f : State → State) (s : State) : asOp op pkt f s = f s := if_pos h

/-- The command is given to the scheduler: it needs an engine, is a SYNC, or runs without an engine. -/
def scheduled (i : Instr) (ch : BitVec 21) (pkt : List Word) (s : State) : Prop :=
  exec i s = .next (startEngine ch pkt s) ∨ exec i s = .next (startSync ch pkt s) ∨ ∃ run, exec i s = .next (startOther ch pkt run s)

section Rows
variable {i : Instr} {ch : BitVec 21} {pkt : List Word} {op : Nat} {s : State}

theorem scheduled_engine (h : pkOp pkt = op) (hi : exec i s = .next (asOp op pkt (startEngine ch pkt) s)) : scheduled i ch pkt s :=
  .inl (hi.trans (congrArg _ (asOp_own h _ s)))

theorem scheduled_other {run : Nat → State → State} (h : pkOp pkt = op) (hi : exec i s = .next (asOp op pkt (startOther ch pkt run) s)) :
    scheduled i ch pkt s :=
  .inr (.inr ⟨run, hi.trans (congrArg _ (asOp_own h _ s))⟩)

/-- A row of a packet without the flag that another row of the opcode asks for. -/
theorem scheduled_bare {run : Nat → State → State} {b : Bool} (h : pkOp pkt = op ∧ b = false)
    (hi : exec i s = .next (asOp op pkt (fun s => if b then s else startOther ch pkt run s) s)) : scheduled i ch pkt s :=
  .inr (.inr ⟨run, hi.trans (congrArg _ ((asOp_own h.1 _ s).trans (if_neg (by simp [h.2]))))⟩)

/-- A row that asks for more of the packet than its opcode. -/
theorem scheduled_where {run : Nat → State → State} {p : Prop} [Decidable p] (h : pkOp pkt = op ∧ p)
    (hi : exec i s = .next (asOp op pkt (fun s => if p then startOther ch pkt run s else s) s)) : scheduled i ch pkt s :=
  .inr (.inr ⟨run, hi.trans (congrArg _ ((asOp_own h.1 _ s).trans (if_pos h.2)))⟩)

/-- A row of the two opcodes of WATCH_SET. -/
theorem scheduled_watch {run : Nat → State → State} {clear : Bool} (h : (pkOp pkt = 0x48 ∨ pkOp pkt = 0x93) ∧ bitAt (pw pkt 0) 16 = clear)
    (hi : exec i s = .next (asWatch pkt clear (startOther ch pkt run) s)) : scheduled i ch pkt s :=
  .inr (.inr ⟨run, hi.trans (congrArg _ (if_pos h))⟩)

/-- A row of SELFTEST's actions. -/
theorem scheduled_test {run : Nat → State → State} {act : Nat} (h : pkOp pkt = 0x96 ∧ (testAct pkt = act ∨ (testAct pkt = 3 ∧ act = 0)))
    (hi : exec i s = .next (asTest act ch pkt run s)) : scheduled i ch pkt s :=
  scheduled_where h hi

end Rows

/-- The packet's own row gives its command to the scheduler. -/
theorem packetRow_scheduled (ch : BitVec 21) (pkt : List Word) (s : State) :
    ∀ row ∈ packetRows, row.2 pkt → scheduled (row.1 ch pkt) ch pkt s := by
  simp only [packetRows, List.forall_mem_cons]
  refine ⟨?nop, ?put, ?get, ?copy, ?rput, ?mput, ?iput, ?iget, ?amo, ?amof, ?xform, ?sync, ?mark, ?winOpen, ?winClose, ?profileSet, ?tableSet,
    ?matrixSet, ?matrixSetClear, ?milRelease, ?watchSet, ?watchSetClear, ?traceCtl, ?parishCreate, ?parishSet, ?parishRetire, ?blockScrub,
    ?routeLoad, ?routeCommit, ?stripeMapSet, ?planeDrain, ?planeUndrain, ?fence, ?unfence, ?tallyPlan, ?tallyPlanClear, ?keyPair, ?keyPairRekey,
    ?reeveRequest, ?reevePull, ?reevePush, ?reeveNotes, ?timeSet, ?powerSet, ?terInvalidate, ?resolveRetry, ?resolveAbort, ?apertureSet, ?curfew,
    ?remove, ?restore, ?calibrate, ?none⟩
  case none => exact List.forall_mem_nil _
  case nop => exact fun h => .inr (.inr ⟨runNop, congrArg Host.Outcome.next (if_pos h)⟩)
  case sync => exact fun h => .inr (.inl (congrArg Host.Outcome.next (asOp_own h _ s)))
  case put | get | copy | rput | mput | iput | iget | amo | amof | xform => exact fun h => scheduled_engine h rfl
  case matrixSet | planeDrain | tallyPlan | keyPair | resolveRetry => exact fun h => scheduled_bare h rfl
  case matrixSetClear | planeUndrain | tallyPlanClear | keyPairRekey | resolveAbort | reeveRequest | reevePull | reevePush | reeveNotes =>
    exact fun h => scheduled_where h rfl
  case watchSet | watchSetClear => exact fun h => scheduled_watch h rfl
  case remove => exact fun ⟨h, hact⟩ => scheduled_test ⟨h, hact.imp_right fun h3 => ⟨h3, rfl⟩⟩ rfl
  case restore => exact fun ⟨h, hact⟩ => scheduled_test ⟨h, .inl hact⟩ rfl
  all_goals exact fun h => scheduled_other h rfl

/-! ## Rejection -/

/-- A channel whose packet may start now runs, is cached and has fetched the packet (R82). -/
theorem mayStart_atHead {s : State} {ch : BitVec 21} {pkt : List Word} {c : Chan} (hc : chan? s ch = some c) (hm : mayStart s ch pkt = true) :
    (!(running s) || c.state != .running || !c.cached || dist32 c.fetched c.head == 0) = false := by
  simp only [mayStart, mayGo, hc, startable, Bool.and_eq_true, beq_iff_eq, decide_eq_true_eq] at hm
  obtain ⟨⟨⟨⟨hrun, ⟨⟨⟨hcached, hstate⟩, -⟩, hfetched⟩, -⟩, -⟩, -⟩, -⟩ := hm
  simp [hrun, hcached, hstate, Nat.pos_iff_ne_zero.1 hfetched]

/-- A rejected command has started and ended, and no unit beside the front end has changed (R86, R114). -/
theorem reject_ends (ch : BitVec 21) (pkt : List Word) (st : BitVec 8) (s : State) (c : Chan) (hc : chan? s ch = some c) (hf : fresh s) :
    endedIn s (reject ch pkt st s) st 0 ∧ startedIn s (reject ch pkt st s) ch c pkt none ∧ aside (reject ch pkt st s) = aside s := by
  have hcmd := cmd_begin ch pkt none true s c hc hf
  obtain ⟨hend, hstart⟩ := done_after s (begin_ ch pkt none true s) ch c pkt none st 0 _ (begin_started ch pkt none true s c hc) hcmd
    (by simp [begun])
  exact ⟨hend, hstart, reject_aside ch pkt st s⟩

section Rejected
variable {ch : BitVec 21} {pkt : List Word} {s : State} {c : Chan} {st : BitVec 8}
variable (hc : chan? s ch = some c) (hm : mayStart s ch pkt = true) (he : early s (ch == 0) c.parish pkt = some st)
include hc hm he

theorem startSync_rejects : startSync ch pkt s = reject ch pkt st s := by
  simp only [startSync, hc, mayStart_atHead hc hm, he, Bool.false_eq_true, if_false]
  exact startOther_rejects ch pkt _ s c st hc hm he

theorem startWait_rejects (hw : waiter? s ch = none) : startWait ch pkt s = reject ch pkt st s := by
  simp only [startWait, hc, hw, Option.any_none, mayStart_atHead hc hm, he, Bool.false_eq_true, if_false]
  exact startOther_rejects ch pkt runNop s c st hc hm he

theorem scheduled_rejects {i : Instr} (hi : scheduled i ch pkt s) : exec i s = .next (reject ch pkt st s) := by
  rcases hi with h | h | ⟨run, h⟩
  · rw [h, startEngine_rejects ch pkt s c st hc hm he]
  · rw [h, startSync_rejects hc hm he]
  · rw [h, startOther_rejects ch pkt run s c st hc hm he]

end Rejected

theorem exec_wait {pkt : List Word} (h : pkOp pkt = 0x0C) (ch : BitVec 21) (s : State) : exec (.wait ch pkt) s = .next (startWait ch pkt s) :=
  congrArg Host.Outcome.next (asOp_own h _ s)

/-- A TEST is given to the scheduler while no other test runs. -/
theorem selftestTest_scheduled {pkt : List Word} {s : State} (ch : BitVec 21) (h : pkOp pkt = 0x96) (hact : testAct pkt = 1) (hnone : s.stw.test = none) :
    scheduled (.selftestTest ch pkt) ch pkt s :=
  scheduled_test ⟨h, .inl hact⟩ (congrArg Host.Outcome.next (if_neg (by simp [hnone])))

/-- A HANG_REPORT of either kind is given to the scheduler while Curfew is IDLE (R435). -/
theorem hangReport_scheduled {i : Instr} {ch : BitVec 21} {pkt : List Word} {s : State} {snapshot : Bool} (h : pkOp pkt = 0x95)
    (hidle : s.cur.state = .idle) (hflag : bitAt (pw pkt 0) 16 = snapshot) (hi : exec i s = .next (asOp 0x95 pkt (hangReport snapshot ch pkt) s)) :
    scheduled i ch pkt s :=
  .inr (.inr ⟨runHangReport snapshot pkt, hi.trans (congrArg _ ((asOp_own h _ s).trans (if_pos (by simp [hidle, hflag]))))⟩)

/-- Settles O2: every row gives its packet to the scheduler, and each way of starting rejects it alike. -/
theorem rejectedCommandsEnd : Obligations.RejectedCommandsEnd := by
  unfold Obligations.RejectedCommandsEnd
  intro ch pkt s c st hc hm he hf
  have hends := reject_ends ch pkt st s c hc hf
  have hrejects {i : Instr} (hi : scheduled i ch pkt s) := scheduled_rejects hc hm he hi
  refine ⟨fun row hrow hpkt => ⟨_, hrejects (packetRow_scheduled ch pkt s row hrow hpkt), hends⟩, fun hop hw => ⟨_, ?_, hends⟩,
    fun hop hact htest => ⟨_, hrejects (selftestTest_scheduled ch hop hact htest), hends⟩, fun hop hidle => ⟨fun hflag => ?_, fun hflag => ?_⟩⟩
  · rw [exec_wait hop, startWait_rejects hc hm he hw]
  · exact ⟨_, hrejects (hangReport_scheduled hop hidle hflag rfl), hends⟩
  · exact ⟨_, hrejects (hangReport_scheduled hop hidle hflag rfl), hends⟩

end Sys2Proof.Proofs

namespace Sys2Proof.Proofs

open Sys2Proof.Machine Sys2Proof.Safety Sys2Proof.Laws

/-! ## Entries of refused commands -/

theorem makeEnt_frame (t : Txn) (s : State) : makeEnt t s = { s with sig := (makeEnt t s).sig } := by
  unfold makeEnt
  split <;> rfl

theorem withOwnEnt_frame (k : Nat) (t : Txn) (s : State) : withOwnEnt k t s = { s with sig := (withOwnEnt k t s).sig } := by
  unfold withOwnEnt
  split
  · exact makeEnt_frame t s
  · rfl

theorem cancelEnt_frame (t : Txn) (s : State) : cancelEnt t s = { s with sig := (cancelEnt t s).sig } := by
  unfold cancelEnt
  rw [makeEnt_frame]
  rfl

theorem ent?_makeEnt (t : Txn) (s : State) : ∃ e, ent? (makeEnt t s) t.src t.tag = some e := by
  unfold makeEnt
  cases he : ent? s t.src t.tag with
  | some e => exact ⟨e, by simp [he]⟩
  | none =>
    have hnone : s.sig.ents.find? (isEnt t.src t.tag) = none := he
    exact ⟨freshEnt t (tagParish s t.ptag) (waitEnd s), by simp [ent?, hnone, List.find?_append, isEnt, freshEnt]⟩

theorem ent?_modEnt (src : BitVec 9) (tag : BitVec 16) (f : SigEnt → SigEnt) (hf : ∀ e, (f e).src = e.src ∧ (f e).tag = e.tag) (s : State) :
    ent? (modEnt src tag f s) src tag = (ent? s src tag).map f :=
  find?_modFirst (isEnt src tag) f (fun e he => by simpa only [isEnt, hf e] using he) s.sig.ents

theorem cancelPending_key (e : SigEnt) (t : Time) : (cancelPending e t).src = e.src ∧ (cancelPending e t).tag = e.tag := by
  unfold cancelPending
  split <;> exact ⟨rfl, rfl⟩

theorem cancelPending_state (e : SigEnt) (t : Time) : (cancelPending e t).state ≠ .pending := by
  unfold cancelPending
  split
  · exact SigState.noConfusion
  · assumption

/-- A refused command's entry is there and no longer pending (R130). -/
theorem ent?_cancelEnt (t : Txn) (s : State) : ∃ e, ent? (cancelEnt t s) t.src t.tag = some e ∧ e.state ≠ .pending := by
  obtain ⟨e, he⟩ := ent?_makeEnt t s
  refine ⟨cancelPending e (waitEnd s), ?_, cancelPending_state e _⟩
  rw [cancelEnt, ent?_modEnt _ _ _ (fun e => cancelPending_key e _), he]
  rfl

/-! ## A refusal to the device itself -/

theorem answer_unsealed_own (via : Via) (q : BitVec 6) (t : Txn) (k : Nat) (st : BitVec 8) (s : State) (hseal : t.sealSlot = none) (hown : t.src = ownId s) :
    answer via q t k st s = { s with tx := { s.tx with locals := s.tx.locals ++ [answerTo s t k st] } } := by
  have hdest : (answerTo s t k st).dest = ownId s := hown
  simp only [answer, hseal, sendUncharged, hdest, if_true]

/-- An arrival that holds no line leaves the ingress and nothing else. -/
theorem endArrival_uncharged (a : Arrival) (s : State) (h : a.lines = 0) :
    endArrival a s = { s with brn := { s.brn with arrivals := s.brn.arrivals.filter fun x => x.id != a.id } } := by
  simp only [endArrival, releaseLines, h, if_true]

/-- The only arrival, of the device's own and unsealed, leaves as it is answered, and its answer stands before the device's own ingress (R113, R484). -/
theorem answerArrival_own (a : Arrival) (k : Nat) (st : BitVec 8) (s : State) (honly : s.brn.arrivals = [a]) (hlines : a.lines = 0)
    (hseal : a.txn.sealSlot = none) (hown : a.txn.src = ownId s) :
    answerArrival a k st s = { s with
      brn := { s.brn with arrivals := [] }, tx := { s.tx with locals := s.tx.locals ++ [answerTo s a.txn k st] } } := by
  have hleft : s.brn.arrivals.filter (fun x => x.id != a.id) = [] := by simp [honly]
  rw [answerArrival, endArrival_uncharged a s hlines, hleft]
  exact answer_unsealed_own a.via a.parish a.txn k st { s with brn := { s.brn with arrivals := [] } } hseal hown

/-- What a refusal does to the table of pending signals (R130). -/
def cancelOwnEnt (t : Txn) (s : State) : State := if (txData t && t.signalled) || t.kind.toNat == kSignal then cancelEnt t s else s

theorem cancelOwnEnt_frame (t : Txn) (s : State) : cancelOwnEnt t s = { s with sig := (cancelOwnEnt t s).sig } := by
  unfold cancelOwnEnt
  split
  · exact cancelEnt_frame t s
  · rfl

theorem ent?_cancelOwnEnt (t : Txn) (s : State) (hdata : txData t = true) (hsig : t.signalled = true) :
    ∃ e, ent? (cancelOwnEnt t s) t.src t.tag = some e ∧ e.state ≠ .pending := by
  rw [cancelOwnEnt, if_pos (by simp [hdata, hsig])]
  exact ent?_cancelEnt t s

/-- The only arrival, of the device's own and unsealed, is refused: its entry is cancelled, it leaves, and REFUSE is its answer (R130, R236, R484). -/
theorem refuseArrival_own (a : Arrival) (st : BitVec 8) (s : State) (honly : s.brn.arrivals = [a]) (hlines : a.lines = 0)
    (hseal : a.txn.sealSlot = none) (hown : a.txn.src = ownId s) :
    refuseArrival a st s = { s with
      brn := { s.brn with arrivals := [] }, sig := (cancelOwnEnt a.txn s).sig
      tx := { s.tx with locals := s.tx.locals ++ [answerTo s a.txn kRefuse st] } } := by
  have hrefuse : refuseArrival a st s = answerArrival a kRefuse st (cancelOwnEnt a.txn s) := rfl
  rw [hrefuse, cancelOwnEnt_frame a.txn s]
  exact answerArrival_own a kRefuse st { s with sig := (cancelOwnEnt a.txn s).sig } honly hlines hseal hown

/-! ## A request of the device's own that its window refuses -/

/-- The window check of an arrival of the device's own, not a SIGNAL, refuses it with its first reason (R128). -/
theorem checkArrival_refuses (a : Arrival) (s : State) (hown : a.txn.src = ownId s) (hk : a.txn.kind.toNat ≠ kSignal) (hw : windowCheck s a.txn ≠ stOk) :
    checkArrival a s = refuseArrival a (windowCheck s a.txn) s := by
  simp only [checkArrival, hown, ne_eq, not_true_eq_false, false_and, hk, hw, if_false]

theorem touchWindow_brn (h : Nat) (s : State) : (touchWindow h s).brn = s.brn := by
  unfold touchWindow
  split <;> rfl

/-- A request of the device's own that lands with nothing else at the ingress comes to its window alone, holding no line (R113). -/
theorem landRequest_own (k : Nat) (x : Txn) (s : State) (hl : lands s .self x) (hk : x.kind.toNat = k) (harr : s.brn.arrivals = []) :
    ∃ u, landRequest k .self x s = windowStage (entering s .self x) u ∧ u.brn.arrivals = [entering s .self x] ∧
      ingress u = { ingress s with sig := u.sig } ∧ u.wins = s.wins := by
  have heq : landRequest k .self x s = landCharged .self x id (fun a s => windowStage a (withOwnEnt k x s)) s := by
    rw [landRequest, if_neg (Decidable.not_not.2 hk)]
    rfl
  obtain ⟨r, hr, hing, hwins⟩ := enterBarn_alone .self x (fun a s => windowStage a (withOwnEnt k x s))
    { s with tx := { s.tx with locals := dropFirst (fun y => y == x) s.tx.locals } } harr
  refine ⟨withOwnEnt k x (alone (entering s .self x) r), by rw [heq, landCharged_self x id _ s hl]; exact hr, ?_⟩
  rw [withOwnEnt_frame]
  exact ⟨rfl, congrArg (fun i : Ingress => { i with sig := (withOwnEnt k x (alone (entering s .self x) r)).sig }) hing, hwins⟩

/-- An unsealed request of the device's own that its window, whose entry is cached, does not take is refused (R128, R130). -/
theorem landRequest_refuses (k : Nat) (x : Txn) (s : State) (hl : lands s .self x) (hk : x.kind.toNat = k) (hns : k ≠ kSignal) (hown : x.src = ownId s)
    (harr : s.brn.arrivals = []) (hcached : s.wins.cached.contains (txWindow x).toNat = true) (hw : windowCheck s x ≠ stOk) :
    ∃ u, landRequest k .self x s = refuseArrival (entering s .self x) (windowCheck s x) u ∧ u.brn.arrivals = [entering s .self x] ∧
      u.memp = s.memp ∧ x.src = ownId u := by
  obtain ⟨u, hland, honly, hu, hwins⟩ := landRequest_own k x s hl hk harr
  obtain ⟨v, hv⟩ : ∃ v, touchWindow (txWindow (entering s .self x).txn).toNat u = v := ⟨_, rfl⟩
  have hvu : ingress v = { ingress s with sig := u.sig } := by rw [← hv, touchWindow_ingress, hu]
  have hgbl : v.gbl = s.gbl := congrArg Ingress.gbl hvu
  have hownv : x.src = ownId v := hown.trans (congrArg Gbl.fabricId hgbl).symm
  have hownu : x.src = ownId u := hown.trans (congrArg (fun i => i.gbl.fabricId) hu).symm
  have hcheck : windowCheck v x = windowCheck s x := windowCheck_congr hgbl (congrArg Ingress.entries hvu) (congrArg Ingress.route hvu) x
  refine ⟨v, ?_, by rw [← hv, touchWindow_brn, honly], congrArg Ingress.memp hvu, hownv⟩
  rw [hland, windowStage_cached _ u (by simp [fencedWhole, entering, hownu]) (by rw [hwins]; exact hcached), hv,
    checkArrival_refuses _ v hownv (fun h => hns (hk.symm.trans h)) (fun h => hw (hcheck.symm.trans h))]
  exact congrArg (refuseArrival _ · v) hcheck

/-- What a refusal leaves, and what it answers. -/
theorem refuseArrival_answers (a : Arrival) (st : BitVec 8) (s : State) (honly : s.brn.arrivals = [a]) (hlines : a.lines = 0)
    (hseal : a.txn.sealSlot = none) (hown : a.txn.src = ownId s) :
    (refuseArrival a st s).brn.arrivals = [] ∧ (refuseArrival a st s).memp = s.memp ∧
      (∃ y ∈ (refuseArrival a st s).tx.locals, y.kind.toNat = kRefuse ∧ y.status = st ∧ y.tag = a.txn.tag ∧
        y.stripe = a.txn.stripe ∧ y.dest = a.txn.src) ∧
      (txData a.txn = true → a.txn.signalled = true → ∃ e, ent? (refuseArrival a st s) a.txn.src a.txn.tag = some e ∧ e.state ≠ .pending) := by
  rw [refuseArrival_own a st s honly hlines hseal hown]
  exact ⟨rfl, rfl, ⟨answerTo s a.txn kRefuse st, by simp, rfl, rfl, rfl, rfl, rfl⟩, ent?_cancelOwnEnt a.txn s⟩

/-- Settles O26: each of the six rows lands a request of its kind, which the window's check refuses, and a refusal answers it. -/
theorem refusalsAreAnswered : Obligations.RefusalsAreAnswered := by
  unfold Obligations.RefusalsAreAnswered
  intro x s mk k hl hk hown hseal harr hcached hw hrow
  have hexec : exec (mk .self x) s = .next (landRequest k .self x s) ∧ k ≠ kSignal := by
    simp only [List.mem_cons, Prod.mk.injEq, List.not_mem_nil, or_false] at hrow
    rcases hrow with ⟨rfl, rfl⟩ | ⟨rfl, rfl⟩ | ⟨rfl, rfl⟩ | ⟨rfl, rfl⟩ | ⟨rfl, rfl⟩ | ⟨rfl, rfl⟩
    · exact ⟨exec_putData .self x s hk, by decide⟩
    all_goals exact ⟨rfl, by decide⟩
  obtain ⟨hgo, hns⟩ := hexec
  obtain ⟨u, hland, honly, hmemp, hownu⟩ := landRequest_refuses k x s hl hk hns hown harr hcached hw
  obtain ⟨hgone, hstill, hanswer, hent⟩ := refuseArrival_answers (entering s .self x) (windowCheck s x) u honly rfl hseal hownu
  rw [← hland] at hgone hstill hanswer hent
  exact ⟨_, hgo, landRequest_kept k .self x s, hgone, hstill.trans hmemp, hanswer, hent⟩

end Sys2Proof.Proofs
